-- ==== Sys2Proof/Word.lean ====
section
/-! DEFINITION. Words of the package: bytes and 64-bit little-endian words (R61, R140, R151). -/

namespace Sys2Proof

/-- One byte of a memory image. -/
abbrev Byte := BitVec 8

/-- A 64-bit register, command word or element. -/
abbrev Word := BitVec 64

/-- A 32-bit control-core instruction word (R140). -/
abbrev Insn := BitVec 32

end Sys2Proof
end

