-- ==== Sys2Proof/Syntax.lean ====
section
/-! DEFINITION. The commands and events of the package: one constructor of `Instr` per row of spec/opcode_table.json,
with the operand types they carry. An operand is what the outside world (software, a field-network peer, a fabric peer,
a sensor, the tester) brings with the event; everything else the step needs is in the state. -/
namespace Sys2Proof

/-- The five engine queues of a core (R126). -/
inductive QueueId where
  | mq | vq | dq | cq | sq
  deriving DecidableEq, Repr

/-- The units that can wait on a token counter, in the order in which a counter serves them (R130). -/
inductive Waiter where
  | cc | me | ve | de | cq | se
  deriving DecidableEq, Repr

/-- The units that hold sticky flags (R90, R407). -/
inductive FlagUnit where
  | cc (n : Nat) | me (n : Nat) | ve (n : Nat) | se (e : Nat) | nmu (st : Nat) | coll (n : Nat)
  deriving DecidableEq, Repr

/-- The units that hold a first-event capture or a held report released by writing 1 to VALID (R95, R331, R407, R539). -/
inductive CapUnit where
  | cc (n : Nat) | me (n : Nat) | ve (n : Nat) | se (e : Nat) | nmu (st : Nat) | de (n : Nat) | coll (n : Nat) | hdie
  deriving DecidableEq, Repr

/-- The path by which a register write reaches control space. -/
inductive RegPath where
  | hdie | cxl | fabric | phys | de (n : Nat)
  deriving DecidableEq, Repr

/-- One forme-log entry (R133). -/
structure LogRec where
  seq : Nat
  slot : Nat
  source : Nat
  code : Nat
  off : Nat
  iter : Nat
  deriving DecidableEq, Repr

/-- What stack training finds at the contacts (R289): pairs (channel group, failed lane), and channels whose command
lanes failed. -/
structure StackEyes where
  failedLanes : List (Nat × Nat)
  failedCmd : List Nat
  deriving DecidableEq, Repr

/-- What port training finds (R335): failed lanes in each direction, and the peer package and port if one answers. -/
structure PortEyes where
  rxFailed : List Nat
  txFailed : List Nat
  peer : Option (Nat × Nat)
  deriving DecidableEq, Repr

/-- What the members of other packages bring to one value of a joint solve's reduction: an integer in units of the reduction, or the
special bits of an exact FP64 sum in the order NaN, signalling NaN, +∞, −∞ (R260, R387). -/
structure RedSum where
  v : Int := 0
  sp : Nat := 0
  deriving DecidableEq, Repr

/-- A fabric flit: the three header words of R342, its payload bytes, and the link trailer (CRC-32, LSEQ, LACK, returned credits).
Beside them stand two things that the flit's words do not show: `fec`, the codewords that the receiver's decoder corrected in it
(R334, R374), and `co`, what a space 01 request is to the home's directory (R359, R361): 0 no agent's, 1 the H-die's read, 2 its read
for ownership, 3 its write-back. DESIGN CHOICE (log entry 135). -/
structure Flit where
  w0 : Word
  w1 : Word
  w2 : Word
  payload : List Byte
  trailer : Word := 0
  fec : Nat := 0
  co : Nat := 0
  deriving DecidableEq, Repr

/-- What the other packages bring to an entry round (R382): the entry words of their members as (rank, words), the harebell partials
or contributions of their members as words, and which of those words were read from a bad tile or line, as (rank, word) (R389, R395). DEDUCED (log entry 75). -/
structure EntryRemote where
  words : List (Nat × List Nat)
  values : List (Nat × List Nat)
  bad : List (Nat × Nat) := []
  deriving DecidableEq, Repr

/-- One package's partial of a colophon (R430): scope, fingerprint, invocation, flags, counts (skip, poison, reuse,
pivot, members), state bytes (program, weights, inputs), program leaves, and position values (class, position, digest). -/
structure Partial where
  index : Nat
  scope : Nat
  fingerprint : List Byte
  invocation : Nat
  settingsChanged : Bool
  flags : Nat
  counts : List Nat
  states : List Nat
  progLeaves : List (List Byte)
  nodes : List (Nat × Nat × List Byte)
  deriving DecidableEq, Repr

/-- A data leaf that another package sends to its owner (R427): the sender, class (0 weights, 1 inputs), offset, digest
and poison mark; or, with the status it ended with, one that this package has sent; and the JOB_EPOCH that it carries (R366). -/
structure LeafMsg where
  src : Nat
  cls : Nat
  off : Nat
  digest : List Byte
  poisoned : Bool
  ended : Option Nat
  epoch : Nat
  deriving DecidableEq, Repr

/-- One completed set of readings (R444): the 10 µs average power in watts, power samples by domain,
and junction temperatures in 0.1 °C by domain. -/
structure Reading where
  p10 : Nat
  power : List (Nat × Nat)
  temp : List (Nat × Nat)
  deriving DecidableEq, Repr

/-- The units that proof passes test (R466). -/
inductive ProofUnit where
  | meRow (n : Nat) | seRow (e : Nat) | bank (st : Nat) | sram (n : Nat) | core (n : Nat) | port (p : Nat)
  | fdieMacro (fd : Nat) | hdieWay (half : Nat) | stackLanes (st : Nat) | dieLink (l : Nat)
  deriving DecidableEq, Repr

/-- A write of a monitor entry that restarts its monitor (R475, R483). -/
inductive MonWrite where
  | source (v : Nat) | window (v : Nat) | restart
  deriving DecidableEq, Repr

/-- The decision of the commit round of a snapshot over all packages (R490). -/
inductive SnapDecision where
  | commit | fail | abort
  deriving DecidableEq, Repr

/-- Where a Fovis request comes from (R510, R511, R513): an H-die mailbox, with the hart that submitted it, a CXL mailbox, a UDP datagram
of the field network (source address and port, destination address and port, checksum, payload), or a fragment of one (source and
destination address, identification, offset in bytes, more to come, bytes). -/
inductive FovisSrc where
  | hdie (m : Nat) (hart : Option Nat) | cxl (m : Nat) | net (addr port dst dport sum : Nat) (pdu : List Byte)
  | frag (addr dst ident off : Nat) (more : Bool) (bytes : List Byte)
  deriving DecidableEq, Repr

/-- The atomic memory operations of a hart (R537). -/
inductive HartAmo where
  | add | swap | cas (expect : Word) | min | max | minu | maxu | and | or | xor | lr | sc
  deriving DecidableEq, Repr

/-- A load of a hart, or an instruction fetch, and its size in bytes (R536, R537). -/
structure LoadForm where
  size : Nat
  fetch : Bool := false
  deriving DecidableEq, Repr

/-- An atomic memory operation as a hart makes it: which, and its size in bytes (R536, R537). -/
structure AmoForm where
  op : HartAmo
  size : Nat
  deriving DecidableEq, Repr

/-- The end of a member's collective: the TIME at which it comes, and the abort record that arrives in that instant, with its port (R403). -/
structure EndAt where
  met : Option (Nat × Flit)
  time : Nat
  deriving DecidableEq, Repr

/-- What the host programs into one HDM decoder (R547). -/
structure HdmDecoder where
  base : Nat
  size : Nat
  ways : Nat
  gran : Nat
  dpa : Nat
  deriving DecidableEq, Repr

/-- One 64-byte CXL.mem access (R547): a read, a read for ownership (R361), or a write with its byte enables. -/
inductive CxlAccess where
  | read | readOwn | write (data : List Byte) (enables : List Bool) (poison : Bool)
  deriving DecidableEq, Repr

/-- A DOE or SPDM request on the CXL function, and the IDE key-management messages that program or stop the key of the CXL.io stream or,
with `mem`, of the CXL.cachemem stream (R549). -/
inductive DoeRequest where
  | discovery (index : Nat) | getVersion | getCapabilities | getDigests | getCertificate (slot offset length : Nat)
  | challenge (slot : Nat) (nonce : List Byte) | measurements (op : Nat) (nonce : List Byte) | keyExchange (sessionOk : Bool)
  | endSession | ideKey (mem : Bool) (key : Nat) | ideStop (mem : Bool) | other (code : Nat)
  deriving DecidableEq, Repr

/-- The rows of spec/opcode_table.json. -/
inductive Instr where
  /-- R567: Reset is released once VIN48, PKGRST_N and the trip latch all allow it: TIME starts at 0, fuses and straps are read, every domain comes ON at V-step 3 and power-up training and zeroing begin. -/
  | powerUpResetRelease (pkgpos : Nat) (brdpos : Nat)
  /-- R566: VIN48 stays below 40.0 V for longer than 2 µs and the package enters reset at once, losing all volatile state. -/
  | vin48UnderVoltage (ns : Nat)
  /-- R566: PKGRST_N is held low for longer than 1 µs and the package enters reset, which also clears a latched trip. -/
  | pkgrstNAssert (ns : Nat)
  /-- R549: CXL_PERST_N, or a conventional or hot reset of the link, resets only the CXL endpoint domain: its configuration space, decoders, IDE keys and MSI-X. -/
  | cxlPerstNReset
  /-- R549: A function-level reset resets the MSI-X table and BAR enables and cancels mailbox requests not yet served. -/
  | cxlFunctionLevelReset
  /-- R279: Every tile of every physical core has been set to zero bytes, TILE_CRC 0 and POISON 0, which launches wait for. -/
  | coreStoreZeroingDone
  /-- R289: Training of a stack interface ends: spares are switched, suspect groups are tested, failed channels go offline and events are entered in the calendar. -/
  | stackTrainingDone (st : Nat) (o : StackEyes)
  /-- R283: An NMU has written every line of its stack as zeros with valid ECC after training, and accesses to the stack are served. -/
  | stackZeroingDone (st : Nat)
  /-- R481: The H-die reads the newer valid copy of the lifetime records, enters UNCLEAN_END if needed and POWER_UP, and LIFETIME_STATE leaves LOADING. -/
  | lifetimeLoadDone
  /-- R335: Training of a fabric port ends: failed lanes move to the spare, peers are exchanged and checked, and the port becomes UP, UP_SPARE, DOWN or MISWIRED. -/
  | portTrainingDone (port : Nat) (o : PortEyes)
  /-- R24: A write of JOB_PHASE applies an allowed transition or is refused with PHASE_ORDER, and triggers the actions that the new phase requires. -/
  | jobPhaseWrite (v : Nat)
  /-- R500: Once cores are at boundaries, DEs are idle, requests have replied and REQUEST_LIFETIME has passed, the package sets LAST_EPOCH and moves itself from TEARDOWN to IDLE. -/
  | teardownDrainComplete (at_ : Nat)
  /-- R142: The CC adds a sign-extended 16-bit immediate to a register, modulo 2^64; the all-zero word is NOP. -/
  | addi (n : Nat)
  /-- R145: The CC ANDs a register with its sign-extended immediate. -/
  | andi (n : Nat)
  /-- R145: The CC ORs a register with its sign-extended immediate. -/
  | ori (n : Nat)
  /-- R145: The CC XORs a register with its sign-extended immediate. -/
  | xori (n : Nat)
  /-- R145: The CC multiplies a register by its sign-extended immediate, modulo 2^64. -/
  | muli (n : Nat)
  /-- R145: The CC writes the signed minimum of a register and its immediate. -/
  | mini (n : Nat)
  /-- R145: The CC writes the signed maximum of a register and its immediate. -/
  | maxi (n : Nat)
  /-- R145: The CC writes the unsigned minimum of a register and its sign-extended immediate. -/
  | minui (n : Nat)
  /-- R145: The CC writes the unsigned maximum of a register and its sign-extended immediate. -/
  | maxui (n : Nat)
  /-- R145: The CC subtracts its sign-extended immediate from a register, modulo 2^64. -/
  | subi (n : Nat)
  /-- R145: The CC writes a 16-bit immediate into one quarter of a register and keeps the other quarters. -/
  | ldimm (n : Nat)
  /-- R101: The CC adds two registers, modulo 2^64. -/
  | add (n : Nat)
  /-- R101: The CC subtracts one register from another, modulo 2^64. -/
  | sub (n : Nat)
  /-- R101: The CC ANDs two registers bitwise. -/
  | and (n : Nat)
  /-- R101: The CC ORs two registers bitwise. -/
  | or (n : Nat)
  /-- R101: The CC XORs two registers bitwise. -/
  | xor (n : Nat)
  /-- R101: The CC shifts a register left by a count taken modulo 64. -/
  | sll (n : Nat)
  /-- R101: The CC shifts a register right logically by a count taken modulo 64. -/
  | srl (n : Nat)
  /-- R101: The CC shifts a register right arithmetically by a count taken modulo 64. -/
  | sra (n : Nat)
  /-- R101: The CC multiplies two registers and keeps the low 64 bits. -/
  | mul (n : Nat)
  /-- R101: The CC multiplies two registers as unsigned values and keeps the high 64 bits. -/
  | mulhu (n : Nat)
  /-- R101: The CC writes the signed minimum of two registers. -/
  | min (n : Nat)
  /-- R101: The CC writes the signed maximum of two registers. -/
  | max (n : Nat)
  /-- R101: The CC writes the unsigned minimum of two registers. -/
  | minu (n : Nat)
  /-- R101: The CC writes the unsigned maximum of two registers. -/
  | maxu (n : Nat)
  /-- R149: The CC shifts a register left by an immediate count of 0 to 63. -/
  | slli (n : Nat)
  /-- R149: The CC shifts a register right logically by an immediate count of 0 to 63. -/
  | srli (n : Nat)
  /-- R149: The CC shifts a register right arithmetically by an immediate count of 0 to 63. -/
  | srai (n : Nat)
  /-- R101: The CC writes a predicate that is 1 when two registers are equal. -/
  | cmpeq (n : Nat)
  /-- R101: The CC writes a predicate that is 1 when two registers differ. -/
  | cmpne (n : Nat)
  /-- R101: The CC writes a predicate for a signed less-than comparison. -/
  | cmplt (n : Nat)
  /-- R101: The CC writes a predicate for an unsigned less-than comparison. -/
  | cmpltu (n : Nat)
  /-- R101: The CC writes a predicate for a signed greater-or-equal comparison. -/
  | cmpge (n : Nat)
  /-- R101: The CC writes a predicate for an unsigned greater-or-equal comparison. -/
  | cmpgeu (n : Nat)
  /-- R101: The CC compares two FP64 values for equality into a predicate, raising invalid only on a signalling NaN. -/
  | fcmpeq (n : Nat)
  /-- R101: The CC compares two FP64 values for less-than into a predicate, raising invalid on any NaN. -/
  | fcmplt (n : Nat)
  /-- R101: The CC compares two FP64 values for less-or-equal into a predicate, raising invalid on any NaN. -/
  | fcmple (n : Nat)
  /-- R101: The CC compares two FP64 values for greater-than into a predicate, raising invalid on any NaN. -/
  | fcmpgt (n : Nat)
  /-- R101: The CC writes a predicate that is 1 when either FP64 operand is NaN. -/
  | fcmpun (n : Nat)
  /-- R101: The CC ANDs two predicates. -/
  | pand (n : Nat)
  /-- R101: The CC ORs two predicates. -/
  | por (n : Nat)
  /-- R101: The CC XORs two predicates. -/
  | pxor (n : Nat)
  /-- R101: The CC negates a predicate. -/
  | pnot (n : Nat)
  /-- R101: The CC adds two FP64 values with one rounding under RM and SUBNORMALS, raising flags in CC_FLAGS. -/
  | fadd (n : Nat)
  /-- R101: The CC subtracts two FP64 values with one rounding. -/
  | fsub (n : Nat)
  /-- R101: The CC multiplies two FP64 values with one rounding. -/
  | fmul (n : Nat)
  /-- R90: The CC divides two FP64 values with one rounding; a non-zero value divided by zero gives an exact infinity. -/
  | fdiv (n : Nat)
  /-- R101: The CC takes an FP64 square root with one rounding. -/
  | fsqrt (n : Nat)
  /-- R143: The CC computes fA × fB + fC with one rounding under RM. -/
  | fma (n : Nat)
  /-- R101: The CC applies the IEEE 754-2019 minimum to two FP64 values. -/
  | fmin (n : Nat)
  /-- R101: The CC applies the IEEE 754-2019 maximum to two FP64 values. -/
  | fmax (n : Nat)
  /-- R101: The CC clears the sign of an FP64 value as a bit operation. -/
  | fabs (n : Nat)
  /-- R101: The CC inverts the sign of an FP64 value as a bit operation. -/
  | fneg (n : Nat)
  /-- R148: FCVT with KIND 0x00 converts FP64 to a signed 64-bit integer, clamping under R72. -/
  | fcvtFp64ToSigned (n : Nat)
  /-- R148: FCVT with KIND 0x01 converts FP64 to an unsigned 64-bit integer, clamping under R72. -/
  | fcvtFp64ToUnsigned (n : Nat)
  /-- R148: FCVT with KIND 0x02 converts a signed 64-bit integer to FP64 with one rounding. -/
  | fcvtSignedToFp64 (n : Nat)
  /-- R148: FCVT with KIND 0x03 converts an unsigned 64-bit integer to FP64 with one rounding. -/
  | fcvtUnsignedToFp64 (n : Nat)
  /-- R147: The CC copies 64 bits from a g-register to an f-register unchanged. -/
  | fmvg (n : Nat)
  /-- R147: The CC copies 64 bits from an f-register to a g-register unchanged. -/
  | gmvf (n : Nat)
  /-- R125: The CC copies a VE summary register sumN into an f-register. -/
  | fmvs (n : Nat)
  /-- R106: The short-vector form of ADD acts on lanes 0 to svl − 1. -/
  | wadd (n : Nat)
  /-- R106: The short-vector form of SUB acts on the active lanes. -/
  | wsub (n : Nat)
  /-- R106: The short-vector form of AND acts on the active lanes. -/
  | wand (n : Nat)
  /-- R106: The short-vector form of OR acts on the active lanes. -/
  | wor (n : Nat)
  /-- R106: The short-vector form of XOR acts on the active lanes. -/
  | wxor (n : Nat)
  /-- R106: The short-vector form of SLL acts on the active lanes. -/
  | wsll (n : Nat)
  /-- R106: The short-vector form of SRL acts on the active lanes. -/
  | wsrl (n : Nat)
  /-- R106: The short-vector form of SRA acts on the active lanes. -/
  | wsra (n : Nat)
  /-- R106: The short-vector form of MUL acts on the active lanes. -/
  | wmul (n : Nat)
  /-- R106: The short-vector form of MULHU acts on the active lanes. -/
  | wmulhu (n : Nat)
  /-- R106: The short-vector form of MIN acts on the active lanes. -/
  | wmin (n : Nat)
  /-- R106: The short-vector form of MAX acts on the active lanes. -/
  | wmax (n : Nat)
  /-- R106: The short-vector form of MINU acts on the active lanes. -/
  | wminu (n : Nat)
  /-- R106: The short-vector form of MAXU acts on the active lanes. -/
  | wmaxu (n : Nat)
  /-- R106: The short-vector form of FADD acts on the active lanes and raises flags only from them. -/
  | wfadd (n : Nat)
  /-- R106: The short-vector form of FSUB acts on the active lanes. -/
  | wfsub (n : Nat)
  /-- R106: The short-vector form of FMUL acts on the active lanes. -/
  | wfmul (n : Nat)
  /-- R106: The short-vector form of FDIV acts on the active lanes. -/
  | wfdiv (n : Nat)
  /-- R106: The short-vector form of FSQRT acts on the active lanes. -/
  | wfsqrt (n : Nat)
  /-- R106: The short-vector form of FMIN acts on the active lanes. -/
  | wfmin (n : Nat)
  /-- R106: The short-vector form of FMAX acts on the active lanes. -/
  | wfmax (n : Nat)
  /-- R106: The short-vector form of FABS clears signs on the active lanes as a bit operation. -/
  | wfabs (n : Nat)
  /-- R106: The short-vector form of FNEG inverts signs on the active lanes as a bit operation. -/
  | wfneg (n : Nat)
  /-- R148: The short-vector form of FCVT converts the active lanes as KIND selects. -/
  | wfcvt (n : Nat)
  /-- R143: The CC performs the fused multiply-add lane by lane on lanes 0 to svl − 1. -/
  | wfma (n : Nat)
  /-- R147: The CC copies fA into every active lane of wD. -/
  | wbcast (n : Nat)
  /-- R107: The CC loads each active lane from gB + 8 × wI[j]; if any lane fails the bounds check, the whole instruction is skipped with BOUNDS. -/
  | wgather (n : Nat)
  /-- R107: The CC stores the active lanes to indexed addresses in increasing lane order, so that the highest lane stands where lanes collide. -/
  | wscatter (n : Nat)
  /-- R108: The CC adds the active lanes in increasing order, rounding after each addition, into lane 0. -/
  | wredadd (n : Nat)
  /-- R108: The CC applies maximum over the active lanes in increasing order, into lane 0. -/
  | wredmax (n : Nat)
  /-- R106: The CC sets svl from an immediate or a register; a value above 8 makes the instruction illegal. -/
  | setsvl (n : Nat)
  /-- R103: The CC loads 64 bits from its own core store into a g-register, consuming the tile. -/
  | ld (n : Nat)
  /-- R103: The CC stores 64 bits of a g-register into its own core store. -/
  | st (n : Nat)
  /-- R103: The CC loads 64 bits from its own core store into an f-register. -/
  | fld (n : Nat)
  /-- R103: The CC stores an f-register into its own core store. -/
  | fst (n : Nat)
  /-- R106: The CC loads the active lanes of a 64-byte aligned block into a w-register. -/
  | wld (n : Nat)
  /-- R106: The CC stores the active lanes of a w-register into a 64-byte aligned block. -/
  | wst (n : Nat)
  /-- R109: The CC reads a special register into g; under the lock a MOVS of TIME is skipped with SKIPPED_DET. -/
  | movs (n : Nat)
  /-- R127: The CC patches a template from registers, checks it and enqueues the command, or logs it and places a void entry; it blocks while the queue is full. -/
  | push (n : Nat)
  /-- R129: The CC adds a count to a token counter, saturating with TOKEN_OVERFLOW. -/
  | post (n : Nat)
  /-- R129: The CC blocks until a token counter reaches the count and then subtracts it. -/
  | wait (n : Nat)
  /-- R131: A wait held longer than TOKEN_STALL_LIMIT is released: the counter is set to 0, TOKEN_STALL is logged and the colophon skip count is incremented. -/
  | tokenStallRelease (n : Nat) (u : Waiter) (at_ : Nat)
  /-- R122: The CC names a candidate slot for the next FOLLOW launch, or logs SELECT_INVALID if the candidate is not valid. -/
  | select (n : Nat)
  /-- R121: The CC writes a carried repeat count from a register. -/
  | setrpt (n : Nat)
  /-- R118: At a forme boundary, with the budget scheduler's consent, a core admits the head launch record: it resolves slot and count, checks the forme, loads state, zeroes the token counters and begins itera... -/
  | launchAdmission (n : Nat)
  /-- R120: When every iteration has run and every pushed command has retired and posted, the core writes its register image, resolves its selection and reaches its forme boundary. -/
  | formeBoundary (n : Nat)
  /-- R135: A write of 1 to LOG_CLEAR.CLEAR empties the forme log and zeroes DROPPED. -/
  | logClear (n : Nat) (v : Word) (met : Option LogRec)
  /-- R93: Software writes 1 to read flag bits to clear them; a flag set in the same beat stays set. -/
  | flagClearWrite (u : FlagUnit) (v : Word) (met : BitVec 4)
  /-- R95: Software writes 1 to a capture's VALID to release it; an event in the same beat is recorded. -/
  | captureRelease (u : CapUnit) (v : Word) (met : Option (List Word))
  /-- R116: Setting VALID of an imposition group entry makes it nameable and computes SIZE. -/
  | impositionGroupValidSet (g : Nat) (v : Word)
  /-- R13: A write to a register or table entry without behaviour of its own stores the written fields, ignoring reserved bits. -/
  | registerWrite (p : RegPath) (a : Nat) (v : Word)
  /-- R152: An engine retires a void entry in queue order, waiting and posting as its template's word 0 states. -/
  | voidEntry (n : Nat) (q : QueueId)
  /-- R151: An engine executes opcode 0x00 of any queue: it waits, posts and does nothing else. -/
  | noop (n : Nat) (q : QueueId)
  /-- R155: The ME computes C := A × B over output blocks in FAST or STRICT mode, writing C in the core store or galley slots. -/
  | mma (n : Nat)
  /-- R183: The ME computes C := A ⊙ B + C element-wise with one fused rounding per element. -/
  | mewma (n : Nat)
  /-- R196: A bound MMA takes the next ready segment in scope order and runs its passes over it. -/
  | gatherSegmentTake (n : Nat)
  /-- R187: The ME reserves the FREE galley slots for a block row, waiting when too few are free. -/
  | galleySlotReserve (n : Nat)
  /-- R190: An ME command that waited for a FREE slot beyond TOKEN_STALL_LIMIT ends PARTIAL, frees its reserved slots and posts. -/
  | galleyStallRelease (n : Nat) (at_ : Nat)
  /-- R191: A VE request that finds no published slot within TOKEN_STALL_LIMIT is served a poisoned phantom slot of zeros. -/
  | galleyPhantomSlot (n : Nat) (at_ : Nat)
  /-- R157: The VE computes D := A + B element by element with one rounding. -/
  | vadd (n : Nat)
  /-- R157: The VE computes D := A − B element by element. -/
  | vsub (n : Nat)
  /-- R157: The VE computes D := A × B element by element. -/
  | vmul (n : Nat)
  /-- R157: The VE computes D := A / B element by element. -/
  | vdiv (n : Nat)
  /-- R157: The VE computes D := A × B + D with one rounding per element. -/
  | vfma (n : Nat)
  /-- R209: The VE writes the IEEE 754-2019 minimum of A and B. -/
  | vmin (n : Nat)
  /-- R209: The VE writes the IEEE 754-2019 maximum of A and B. -/
  | vmax (n : Nat)
  /-- R211: The VE limits each element to ±IMM, rejecting a negative or NaN bound with SKIPPED_ILLEGAL. -/
  | vclamp (n : Nat)
  /-- R209: The VE writes the absolute value of each element. -/
  | vabs (n : Nat)
  /-- R209: The VE writes the negation of each element. -/
  | vneg (n : Nat)
  /-- R157: The VE writes the square root of each element. -/
  | vsqrt (n : Nat)
  /-- R215: The VE converts each element between formats, choosing block scales and optionally tapping amax. -/
  | vcvt (n : Nat)
  /-- R224: The VE interpolates each element in the loaded segment table. -/
  | vlut (n : Nat)
  /-- R222: The VE checks and loads a segment table into its buffer, tagged with its address and segment count. -/
  | vlutload (n : Nat)
  /-- R227: The VE updates the online softmax state record of each row from a chunk of entries. -/
  | vsmacc (n : Nat)
  /-- R228: The VE writes each row's normalised softmax from its state record. -/
  | vsnorm (n : Nat)
  /-- R218: VRED with SUB 0 writes the exact sum of each row, rounded once. -/
  | vredSum (n : Nat)
  /-- R218: VRED with SUB 1 writes the maximum of each row. -/
  | vredMax (n : Nat)
  /-- R218: VRED with SUB 2 writes the minimum of each row. -/
  | vredMin (n : Nat)
  /-- R218: VRED with SUB 3 writes the largest magnitude of each row. -/
  | vredLargestMagnitude (n : Nat)
  /-- R214: VCMP with SUB 0 sets mask bits for equal elements. -/
  | vcmpEq (n : Nat)
  /-- R214: VCMP with SUB 1 sets mask bits for unequal elements. -/
  | vcmpNe (n : Nat)
  /-- R214: VCMP with SUB 2 sets mask bits for less-than. -/
  | vcmpLt (n : Nat)
  /-- R214: VCMP with SUB 3 sets mask bits for less-or-equal. -/
  | vcmpLe (n : Nat)
  /-- R214: VCMP with SUB 4 sets mask bits for greater-than. -/
  | vcmpGt (n : Nat)
  /-- R214: VCMP with SUB 5 sets mask bits for greater-or-equal. -/
  | vcmpGe (n : Nat)
  /-- R214: VCMP with SUB 6 sets mask bits where an operand is NaN. -/
  | vcmpUn (n : Nat)
  /-- R213: The VE writes D from A where the mask bit is 1 and from B where it is 0. -/
  | vsel (n : Nat)
  /-- R217: The VE writes D[i] := A[B[i]] after checking every index against COUNT. -/
  | vperm (n : Nat)
  /-- R217: The VE gathers D[i] := A[B[i]] from anywhere in the core store. -/
  | vgather (n : Nat)
  /-- R217: The VE scatters D[B[i]] := A[i] in increasing i. -/
  | vscatter (n : Nat)
  /-- R157: The VE copies A to D unchanged. -/
  | vcopy (n : Nat)
  /-- R251: The solver engine analyses the operands in an FP64 rehearsal and writes the scale table and descriptor word 3. -/
  | range (e : Nat) (times : List Nat)
  /-- R254: The solver engine factorises with partial pivoting in fixed point and solves. -/
  | lu (e : Nat) (times : List Nat)
  /-- R254: The solver engine performs a Cholesky factorisation and solves. -/
  | chol (e : Nat) (times : List Nat)
  /-- R254: The solver engine performs an LDLᵀ factorisation and solves. -/
  | ldlt (e : Nat) (times : List Nat)
  /-- R254: The solver engine solves batched tridiagonal systems by the Thomas algorithm in fixed point. -/
  | tridiag (e : Nat) (times : List Nat)
  /-- R254: The solver engine solves batched banded systems. -/
  | banded (e : Nat) (times : List Nat)
  /-- R254: The solver engine solves with stored factors. -/
  | trsv (e : Nat) (times : List Nat)
  /-- R257: The solver engine runs conjugate gradients with exact FX192 dot products, locally or jointly over harebell. -/
  | cg (e : Nat) (times : List Nat)
  /-- R259: The solver engine runs restarted GMRES with classical Gram–Schmidt. -/
  | gmres (e : Nat) (times : List Nat)
  /-- R265: A harebell reduction of a joint solve returns its exact sums and lapse count, and the iteration continues or R264 applies. -/
  | solverReductionReturn (e : Nat) (sums : List RedSum) (lapse : Nat) (at_ : EndAt)
  /-- R316: The DE copies LENGTH bytes through the funnel, hashing tagged tiles. -/
  | copy (n : Nat)
  /-- R326: The DE copies a row-major array transposed through the transposing read path. -/
  | copyT (n : Nat)
  /-- R297: NMUs compute DST[i] := DST[i] + SRC[i] in NUMFMT. -/
  | nmuReduceAdd (n : Nat)
  /-- R298: NMUs add SRC[i] into DST[idx[i]] in increasing i. -/
  | nmuScatterAdd (n : Nat)
  /-- R298: NMUs gather DST[i] := SRC[idx[i]] unchanged. -/
  | nmuGather (n : Nat)
  /-- R299: NMUs transpose an R × C array into C × R. -/
  | nmuTransposition (n : Nat)
  /-- R300: NMUs convert elements into NUMFMT and update NMU_AMAX before the DE posts. -/
  | nmuConversion (n : Nat)
  /-- R310: The DE executes a descriptor list entry by entry, following links, up to 65,536 entries. -/
  | chain (n : Nat)
  /-- R320: The DE starts no later access until every earlier access has completed. -/
  | fence (n : Nat)
  /-- R321: The DE sends an integer-add atomic to the home of DST and writes the old value to SRC + 16. -/
  | dqAtomicIadd (n : Nat)
  /-- R321: The DE sends a floating-point-add atomic, skipped with SKIPPED_DET under the lock. -/
  | dqAtomicFadd (n : Nat)
  /-- R321: The DE sends a signed-minimum atomic. -/
  | dqAtomicMin (n : Nat)
  /-- R321: The DE sends a signed-maximum atomic. -/
  | dqAtomicMax (n : Nat)
  /-- R321: The DE sends a swap atomic. -/
  | dqAtomicSwap (n : Nat)
  /-- R321: The DE sends a compare-and-swap atomic. -/
  | dqAtomicCas (n : Nat)
  /-- R318: A descriptor completes when every access is acknowledged, and posts or counts toward its CHAIN, ending PARTIAL on any failed line. -/
  | deDescriptorComplete (n : Nat)
  /-- R322: A write of DE_CONTROL.STOP to 1 asks the DE to stop at its next descriptor boundary; a write of 0 resumes execution. -/
  | deStop (n : Nat) (v : Word)
  /-- R322: The DE reaches a descriptor boundary after a stop request and its STATE becomes STOPPED. -/
  | deStopped (n : Nat)
  /-- R386: The collective queue runs a harebell barrier over the group. -/
  | barrier (n : Nat)
  /-- R386: HBREDUCE with ROP 0x0 returns integer sums modulo 2^64 to every member. -/
  | hbreduceIntegerSum (n : Nat)
  /-- R386: HBREDUCE with ROP 0x1 returns signed minima. -/
  | hbreduceMinimum (n : Nat)
  /-- R386: HBREDUCE with ROP 0x2 returns signed maxima. -/
  | hbreduceMaximum (n : Nat)
  /-- R386: HBREDUCE with ROP 0x3 returns bitwise ANDs. -/
  | hbreduceAnd (n : Nat)
  /-- R386: HBREDUCE with ROP 0x4 returns bitwise ORs. -/
  | hbreduceOr (n : Nat)
  /-- R386: HBREDUCE with ROP 0x5 returns bitwise XORs. -/
  | hbreduceXor (n : Nat)
  /-- R388: HBREDUCE with ROP 0x6 returns the exact FX192 sum, saturating once at the root. -/
  | hbreduceFx192Sum (n : Nat)
  /-- R387: HBREDUCE with ROP 0x7 returns the exact FP64 sum, rounded once at the root. -/
  | hbreduceExactFp64Sum (n : Nat)
  /-- R391: Every member receives every rank's SRC bytes at DST + j × LENGTH. -/
  | allgather (n : Nat)
  /-- R392: Each member receives its part of the reduction, in the order that the scope fixes. -/
  | reduceScatter (n : Nat)
  /-- R392: Every member receives the full reduction in ring order, or the canonical tree under CANON. -/
  | allreduceRing (n : Nat)
  /-- R392: Every member receives the full reduction in tree order. -/
  | allreduceTree (n : Nat)
  /-- R391: Every member receives ROOT_RANK's SRC bytes. -/
  | broadcast (n : Nat)
  /-- R399: Each rank sends block k to rank k, in START, TEST and RECOVERY only. -/
  | alltoall (n : Nat)
  /-- R399: Each rank sends blocks of listed sizes, aborting with CAPACITY if a receiver's C is exceeded. -/
  | alltoallv (n : Nat)
  /-- R396: A reduction that waited for staging space obtains its reservation of R_b bytes. -/
  | stagingReserved (n : Nat) (at_ : Nat)
  /-- R382: The entry round returns the AND, OR and sums to every member, and the data phase begins or the collective aborts with MISMATCH. -/
  | collEntryRoundResult (g : Nat) (o : EntryRemote)
  /-- R380: A member's data phase completes, its staging is released, and its command ends and posts. -/
  | collComplete (n : Nat) (at_ : EndAt)
  /-- R402: A member's collective timeout expires: it poisons its DST, holds its own TIMEOUT record, ends COLL_TIMEOUT, posts and originates HB_ABORT. -/
  | collTimeoutExpiry (n : Nat) (at_ : EndAt)
  /-- R405: A harebell node receives partials from a child and forwards the combined partials upward. -/
  | hbUp (port : Nat) (f : Flit)
  /-- R405: A node receives results from its parent and passes them down, and members write their results and flags. -/
  | hbDown (port : Nat) (f : Flit)
  /-- R401: An abort record travels up to the root, which accepts the first of each instance, and down to every member, which ends by its state. -/
  | hbAbort (port : Nat) (f : Flit) (at_ : Nat)
  /-- R397: A receiving sequencer marks a segment complete and ready for a gather window. -/
  | segDone (port : Nat) (f : Flit)
  /-- R376: A write of VALID to a collective group entry sets it only if its fields are consistent, and computes LOCAL_COUNT. -/
  | collGroupValidSet (g : Nat) (v : Word)
  /-- R278: A write of 1 to SET_POISON sets the poison bit of a tile. -/
  | setPoison (n : Nat) (tile : Nat)
  /-- R278: A write of 1 to CLEAR_POISON clears the poison bit of a tile, unless a set meets it in the same beat. -/
  | clearPoison (n : Nat) (tile : Nat) (met : Bool)
  /-- R282: An NMU reads each line of its stack once per SCRUB_INTERVAL. -/
  | scrubRead (line : Nat)
  /-- R293: A write of STACK_RETRAIN queues a retrain of a stack interface, holding accesses to it. -/
  | stackRetrain (v : BitVec 16)
  /-- R283: A write of STACK_CLEAR in IDLE queues a clear of a stack to zeros. -/
  | stackClear (v : BitVec 16)
  /-- R283: The clear of a stack ends and waiting accesses proceed. -/
  | stackClearDone (st : Nat)
  /-- R293: A retrain of a stack ends and waiting accesses proceed. -/
  | stackRetrainDone (st : Nat) (o : StackEyes)
  /-- R303: The home NMU applies an atomic indivisibly and returns the old value, or does not apply it on a poisoned or failed line. -/
  | nmuAtomicApply (st : Nat)
  /-- R302: A write held on a NOT_COPIED part proceeds once the part is COPIED. -/
  | cowHeldWriteRelease
  /-- R302: An NMU finishes copying a part to the snapshot area and marks it COPIED. -/
  | snapshotPartCopied (st : Nat) (page : Nat)
  /-- R350: A home receives a READ flit and returns one line in READ_RESP, or a refusal. -/
  | read (port : Nat) (f : Flit)
  /-- R350: A home receives a WRITE flit, replaces the line and returns WRITE_ACK after invalidating cached copies. -/
  | write (port : Nat) (f : Flit)
  /-- R350: A home receives a WRITE_MASK flit and changes only the enabled bytes. -/
  | writeMask (port : Nat) (f : Flit)
  /-- R356: The home F-die receives an integer-add atomic flit and applies it once through its replay table. -/
  | atomicIadd (port : Nat) (f : Flit)
  /-- R356: The home F-die receives a floating-point-add atomic flit and applies it once. -/
  | atomicFadd (port : Nat) (f : Flit)
  /-- R356: The home F-die receives a signed-minimum atomic flit. -/
  | atomicMin (port : Nat) (f : Flit)
  /-- R356: The home F-die receives a signed-maximum atomic flit. -/
  | atomicMax (port : Nat) (f : Flit)
  /-- R356: The home F-die receives a swap atomic flit. -/
  | atomicSwap (port : Nat) (f : Flit)
  /-- R356: The home F-die receives a compare-and-swap atomic flit. -/
  | atomicCas (port : Nat) (f : Flit)
  /-- R352: The issuer receives read data and completes or fails the line, discarding late or duplicate replies. -/
  | readResp (port : Nat) (f : Flit)
  /-- R352: The issuer receives a write acknowledgement. -/
  | writeAck (port : Nat) (f : Flit)
  /-- R352: The issuer receives an atomic's old value or its refusal. -/
  | atomicResp (port : Nat) (f : Flit)
  /-- R361: An agent receives an invalidating snoop, gives up the line and returns data if it is modified. -/
  | snpInv (port : Nat) (f : Flit)
  /-- R361: An owner receives a read snoop, returns the data and keeps a shared copy. -/
  | snpRd (port : Nat) (f : Flit)
  /-- R361: The directory receives a snoop acknowledgement without data. -/
  | snpAck (port : Nat) (f : Flit)
  /-- R361: The directory receives snooped data and writes back modified data. -/
  | snpData (port : Nat) (f : Flit)
  /-- R371: A source receives the acknowledgement of the transport beyond the chassis and frees its window. -/
  | sysAck (port : Nat) (f : Flit)
  /-- R334: A flit fails its CRC and is discarded with every later flit until it is received again. -/
  | linkFlitReceiveFail (port : Nat) (lseq : Nat)
  /-- R334: The sender resends go-back-N from the first unacknowledged flit, or takes the port down after 16 sends. -/
  | linkRetryResend (port : Nat)
  /-- R335: A write of PORT_RETRAIN in IDLE, TEST or RECOVERY starts training of ports. -/
  | portRetrain (v : Word)
  /-- R354: At each E2E_RETRY_INTERVAL the issuing F-die resends an unanswered READ or atomic with RETRY set. -/
  | e2eRetry (fd : Nat) (tag : Nat) (at_ : Nat)
  /-- R354: A request with no reply within REPLY_TIMEOUT ends NO_REPLY, or ATOMIC_UNKNOWN for an atomic. -/
  | replyTimeoutExpiry (fd : Nat) (tag : Nat) (at_ : Nat)
  /-- R357: A replay-table entry expires after 200 µs, letting an atomic waiting at ingress proceed. -/
  | replayEntryExpiry (fd : Nat) (src : Nat) (tag : Nat) (at_ : Nat)
  /-- R368: A line stops being hot after 8 µs below HOT_THRESHOLD. -/
  | hotLineCool (fd : Nat) (egress : Bool) (line : Nat) (at_ : Nat)
  /-- R371: A flit beyond the chassis is resent after each SYS_RETRY_INTERVAL until its lifetime ends. -/
  | sysResend (dst : Nat) (seq : Nat) (at_ : Nat)
  /-- R348: A write of a translation entry updates both F-die copies for requests translated afterwards. -/
  | translationEntryWrite (l : Nat) (v : Word)
  /-- R412: A write of DETERMINISM_SCOPE is applied when cores are idle and no context is OPEN or CLOSING. -/
  | determinismScopeWrite (v : Nat)
  /-- R423: CMD OPEN starts an invocation: INVOCATION increments, accumulators and leaves clear, and the scope and fingerprint are recorded. -/
  | contextOpen (c : Nat)
  /-- R430: CMD CLOSE sets STATE to CLOSING and begins the drain toward DRAINED. -/
  | contextClose (c : Nat)
  /-- R423: CMD ABANDON discards accumulators and leaves and sets STATE to IDLE. -/
  | contextAbandon (c : Nat)
  /-- R430: Once bound launches have reached their boundaries and sent leaves have ended, the package sends DRAINED to the root. -/
  | contextDrained (c : Nat)
  /-- R430: The root, holding DRAINED from all packages, sends SEAL; each package refuses further leaves and sends its partial. -/
  | contextSeal (c : Nat) (drained : List Nat)
  /-- R430: The root combines all partials into the record and sends it to every package. -/
  | contextRecordForm (c : Nat) (parts : List Partial)
  /-- R430: A package receives the record, writes RECORD and sets STATE to CLOSED. -/
  | contextRecordReceive (c : Nat) (rec : List Byte)
  /-- R431: After CLOSE_TIMEOUT the root proceeds with what it holds, marking COMPLETE 0. -/
  | closeRootTimeout (c : Nat) (at_ : Nat) (parts : List Partial)
  /-- R431: After 2 × CLOSE_TIMEOUT without a record, a package writes a LOCAL_ONLY record. -/
  | closePackageTimeout (c : Nat) (at_ : Nat)
  /-- R428: An owner enters an arriving data leaf, absorbing equal leaves or marking CONFLICT, POISONED or LOST. -/
  | leafArrival (c : Nat) (l : LeafMsg)
  /-- R436: A write of ATTACH copies a CLOSED context's record into an attachment entry and sets VALID. -/
  | attach (a : Nat) (v : Word)
  /-- R444: Every 10 µs the package completes power and temperature readings and acts on them. -/
  | sensorReading (r : Reading) (at_ : Nat)
  /-- R446: The budget scheduler chooses one V-step for the free clusters and admits candidates in order while they fit the budget. -/
  | budgetDecision
  /-- R443: A V-step change settles within 2 µs, and admission waiting on it proceeds. -/
  | vstepSettled (dom : Nat) (at_ : Nat)
  /-- R451: Each further 20 µs at or above the limit lowers the V-step by 2 more, or holds issue at V-step 0. -/
  | thermalEmergencyStep (dom : Nat) (at_ : Nat)
  /-- R452: After 100 µs below THERMAL_LIMIT − 5 °C the emergency ends and V-steps are restored. -/
  | thermalEmergencyEnd (dom : Nat) (at_ : Nat)
  /-- R441: A cluster or solver engine idle for RETAIN_DELAY enters RETAIN. -/
  | domainRetainEntry (dom : Nat) (at_ : Nat)
  /-- R441: A domain's wake from OFF or RETAIN to ON completes within 2 µs, and the access or command waiting on it proceeds. -/
  | domainWake (dom : Nat)
  /-- R441: A write of HOST_DOMAINS_OFF switches application-core groups or cache halves off or wakes them. -/
  | hostDomainsOffWrite (v : BitVec 16) (hart : Option Nat)
  /-- R455: An IEEE 802.1AS frame updates OFFSET, and TIME is stepped forward in IDLE or slewed. -/
  | timeSyncFrame (offset : Int) (at_ : Nat)
  /-- R456: With no 802.1AS time for 2 s, TIME_STATE becomes HOLDOVER. -/
  | timeHoldoverEntry (at_ : Nat)
  /-- R466: Within 100 µs of an ECC error the failing row is march-tested and spared or blocked. -/
  | stackBankProofPass (st : Nat) (row : Nat) (faulty : Bool)
  /-- R466: At the core's next forme boundary every row of the SRAM block is tested and spared, or the core is marked for sparing. -/
  | coreStoreMacroProofPass (n : Nat) (macroNo : Nat) (faulty : Bool)
  /-- R466: At the next forme boundary after a CORE_INTERNAL or galley error the whole core is tested. -/
  | coreProofPass (n : Nat) (faulty : Bool)
  /-- R466: A port's lanes are measured after an FEC error or a loss. -/
  | portProofPass (port : Nat) (faulty : Bool)
  /-- R466: An F-die SRAM block is tested at once, sparing a row or disabling the buffer bank. -/
  | fdieMacroProofPass (fd : Nat) (macroNo : Nat) (faulty : Bool)
  /-- R534: An H-die cache way is flushed and march-tested, and allocates again or is disabled. -/
  | hdieWayProofPass (half : Nat) (way : Nat) (faulty : Bool)
  /-- R465: A proof pass ends TRANSIENT, SPARED or NO_SPARE, updating the log entry and the calendar. -/
  | proofPassComplete (u : ProofUnit)
  /-- R471: At the next boundary of a marked core, a spare is woken, tested and loaded with the core's state, and the core map is updated. -/
  | coreSparing (n : Nat) (bad : List Nat)
  /-- R475: At each multiple of WINDOW_NS a monitor latches its accumulators into RESULT and clears them. -/
  | monitorWindowLatch (m : Nat) (at_ : Nat)
  /-- R475: A write of SOURCE, WINDOW_NS or RESTART clears a monitor's accumulators and restarts its window. -/
  | monitorRestart (m : Nat) (w : MonWrite)
  /-- R477: Every 10 minutes the counts and wear integrals are committed to the older NVM copy. -/
  | lifetimeCommit (at_ : Nat)
  /-- R477: A calendar entry is committed within 1 s of its event. -/
  | calendarCommit (at_ : Nat)
  /-- R481: A write of SHUTDOWN in IDLE commits the records and SHUTDOWN and sets LIFETIME_STATE to SAFE. -/
  | shutdown (v : Nat) (at_ : Nat)
  /-- R489: CMD TAKE in RUN starts a snapshot generation: NMUs mark pages NOT_COPIED and begin copying to the local area. -/
  | take
  /-- R489: Every part is COPIED, LOCAL_COMPLETE becomes 1 and STATE becomes STRIPING. -/
  | snapshotLocalCopyDone
  /-- R489: Every stripe line has replied or failed, and the package enters the confirmation. -/
  | stripeLinesDone
  /-- R490: A package receives the root's commit, fail or abort decision and records it. -/
  | snapConfirmDecision (d : SnapDecision)
  /-- R490: A package without a decision SNAP_TIMEOUT after its TAKE sends HB_ABORT with cause TIMEOUT. -/
  | snapTimeoutExpiry (at_ : Nat)
  /-- R495: CMD RESTORE in START or RECOVERY starts the local or remote restore of RESTORE_GEN. -/
  | restore
  /-- R496: The stripes have been read and rebuilt into the local area, and the local copy begins. -/
  | restoreRemoteDone
  /-- R496: The local copy into the state regions ends, the commit registers are set and STATE returns to IDLE. -/
  | restoreComplete
  /-- R502: A write of EPOCH_ADVANCE holds fabric issue, fences outstanding requests, changes JOB_EPOCH and releases issue. -/
  | epochAdvance (v : BitVec 16)
  /-- R501: A write of JOB_EPOCH in IDLE is refused if it equals LAST_EPOCH. -/
  | jobEpochWrite (v : BitVec 16)
  /-- R506: A write of SETUP_SAVE in START or TEST stores the current tables as a setup image. -/
  | setupSave (v : Nat)
  /-- R518: A Fovis READ returns the values of the named entries. -/
  | fovisRead (src : FovisSrc) (at_ : Nat)
  /-- R518: A Fovis WRITE applies items in order after checking them under R524. -/
  | fovisWrite (src : FovisSrc) (at_ : Nat)
  /-- R520: A Fovis DESCRIBE returns each entry's type, access, length and default. -/
  | describe (src : FovisSrc) (at_ : Nat)
  /-- R518: A Fovis DISCOVER returns grade, serial, coordinate and job phase. -/
  | discover (src : FovisSrc) (at_ : Nat)
  /-- R527: A Fovis BUNDLE_OPEN takes ownership of the bundle buffer for a named length. -/
  | bundleOpen (src : FovisSrc) (at_ : Nat)
  /-- R527: A Fovis BUNDLE_DATA places bytes into the bundle buffer. -/
  | bundleData (src : FovisSrc) (at_ : Nat)
  /-- R529: A Fovis BUNDLE_APPLY queues the bundle's signatures for verification. -/
  | bundleApply (src : FovisSrc) (at_ : Nat)
  /-- R529: After verification the bundle is checked and its writes applied together, and BUNDLE_SEQ is committed. -/
  | bundleVerifyDone (rsaOk : Bool) (slhOk : Bool)
  /-- R527: A Fovis BUNDLE_CANCEL releases the bundle buffer. -/
  | bundleCancel (src : FovisSrc) (at_ : Nat)
  /-- R527: The buffer is released after 10 s without a bundle operation from its owner. -/
  | bundleOwnerTimeout (at_ : Nat)
  /-- R512: A cached field-network reply expires after 1 s. -/
  | replyCacheExpiry (at_ : Nat)
  /-- R510: The package answers neighbour solicitation and duplicate address detection on its link-local address. -/
  | neighbourSolicitation (src : Nat) (target : Nat)
  /-- R510: The package answers an ICMPv6 echo request. -/
  | icmpv6EchoRequest (src : Nat) (dst : Nat) (body : List Byte)
  /-- R536: An application core's load is served by its address space, becoming a fabric READ where needed, with faults for poison or failure. -/
  | hartLoad (h : Nat) (pa : Nat) (f : LoadForm)
  /-- R536: An application core's store becomes a WRITE_MASK in fabric spaces or updates a tile by difference. -/
  | hartStore (h : Nat) (pa : Nat) (size : Nat) (v : Word)
  /-- R536: An AMO on stack memory becomes a remote atomic; other AMOs fault. -/
  | hartAmo (h : Nat) (op : AmoForm) (pa : Nat) (v : Word)
  /-- R538: A FENCE with O or W waits for every earlier uncached access to reply. -/
  | hartFence (h : Nat) (pred : BitVec 4)
  /-- R537: A failed uncached store or write-back records HDIE_ERROR and raises local interrupt 17. -/
  | hartAsyncError (h : Nat) (pa : Nat) (status : Nat)
  /-- R539: A hart takes the machine timer interrupt while TIME ≥ MTIMECMP. -/
  | machineTimerInterrupt (h : Nat) (at_ : Nat)
  /-- R539: A write of HART_RELEASE releases harts from reset to ENTRY. -/
  | hartRelease (v : Word)
  /-- R541: A write of ENABLE 1 checks the ring fields and makes the ring ACTIVE, or is refused. -/
  | ringEnable (r : Nat) (v : Word)
  /-- R541: A write of ENABLE 0 stops taking records; the ring becomes DISABLED after the last entry is written. -/
  | ringDisable (r : Nat)
  /-- R543: The producer index moves by a PRODUCER write or a doorbell notification, and overflow sends the ring to ERROR. -/
  | ringProducerAdvance (r : Nat) (v : Option Nat)
  /-- R543: The ring reads the next record, checks it and completes it at once or delivers it. -/
  | ringRecordTake (r : Nat)
  /-- R117: The ring delivers a record to each member's launch queue, waiting while a queue is full. -/
  | ringRecordDelivery (r : Nat)
  /-- R544: Once a record has completed and earlier entries are written, the ring writes its completion entry and notifies. -/
  | ringCompletionEntry (r : Nat)
  /-- R547: An HDM decoder commits by the CXL 2.0 flow, or reports Error Not Committed. -/
  | hdmDecoderCommit (k : Nat) (d : HdmDecoder)
  /-- R547: A host CXL.mem access is served as an access of agent 2q + 1 through the directory. -/
  | cxlMemAccess (hpa : Nat) (acc : CxlAccess)
  /-- R548: A host snoop of a line that the H-die caches is served from the H-die caches. -/
  | cxlCacheHostSnoop (line : Nat) (inv : Bool)
  /-- R549: A DOE request serves SPDM 1.2 and IDE key programming. -/
  | doeSpdmRequest (m : DoeRequest)
  /-- R556: A write of BOOT_START sets BOOT_STATE to VERIFYING and queues the image for verification. -/
  | bootStart (v : Nat)
  /-- R556: The boot image is accepted and hart 0 starts, or it is refused. -/
  | bootVerifyDone (rsaOk : Bool) (slhOk : Bool)
  /-- R557: A write of HDIE_RESET in IDLE resets every hart and flushes the caches. -/
  | hdieReset (v : Nat)
  /-- R559: A write of TABLE_SET_LOAD in IDLE queues a numeric table set for verification. -/
  | tableSetLoad (v : Nat)
  /-- R559: A verified table set replaces the arithmetic tables and TABLE_SET_REVISION, or is refused. -/
  | tableSetVerifyDone (rsaOk : Bool) (slhOk : Bool)
  /-- R560: A write of ATTEST_NONCE queues an attestation report. -/
  | attestNonce (nonce : List Byte)
  /-- R560: The signer signs the report and places it in ATTEST_REPORT. -/
  | attestReportDone
  /-- R561: A write of COLOPHON_SIGN queues a signature of an attachment entry. -/
  | colophonSign (a : Nat)
  /-- R561: The signer signs the entry's 272 bytes into COLOPHON_SIGNATURE, or reports FORMAT. -/
  | colophonSignDone
  /-- R474: Every 1 µs of TIME, each histogram monitor whose source is queue occupancy (KIND 0x10) or port ingress occupancy (KIND 0x13) takes a sample and folds it into its accumulators. -/
  | monitorOccupancySample (at_ : Nat)
  deriving DecidableEq, Repr

end Sys2Proof
end

