-- ==== Sys2Proof/Decode.lean ====
section
/-! DEFINITION. Commands spelled by bits: spec/opcode_table.json gives no row any bits, so no word spells a command. The words that the
package itself decodes (control-core instructions, engine commands, flits, PDUs, launch records) are decoded by its units. -/
namespace Sys2Proof

/-- The command that a table word spells: none of the table's rows gives bits. DESIGN CHOICE (log entry 1). -/
def decodeTableWord (_nbits _w : Nat) : Option Instr := none

end Sys2Proof
end

