-- ==== Sys2Proof/Machine/Tbl.lean ====
section
/-! DEFINITION. Sparse tables in ONE canonical form (keys strictly rising, no entry equal to what an unlisted key reads
as), byte memories built on them, and bit-field helpers. Every register file, table and memory of the package is
one of these. -/
namespace Sys2Proof.Machine
open Sys2Proof

/-- Sparse data by key: what is not listed reads as the default function of its owner. -/
abbrev Tbl (α : Type) := List (Nat × α)

/-- The entry at key `k`, or the default. -/
def tblGet {α : Type} (d : Nat → α) : Tbl α → Nat → α
  | [], k => d k
  | (k', v) :: t, k => if k = k' then v else tblGet d t k

/-- Write the entry at key `k`, keeping the canonical form. -/
def tblSet {α : Type} [DecidableEq α] (d : Nat → α) (m : Tbl α) (k : Nat) (v : α) : Tbl α :=
  m.filter (fun e => e.1 < k) ++ (if v = d k then [] else [(k, v)]) ++ m.filter (fun e => k < e.1)

/-- Change the entry at key `k` by `f`. -/
def tblMod {α : Type} [DecidableEq α] (d : Nat → α) (m : Tbl α) (k : Nat) (f : α → α) : Tbl α :=
  tblSet d m k (f (tblGet d m k))

/-- Change every listed entry by `f`, keeping the canonical form; with `f` of the default the default, every key reads as `f` of what it was. -/
def tblMap {α : Type} [DecidableEq α] (d : Nat → α) (m : Tbl α) (f : α → α) : Tbl α :=
  m.foldl (fun t x => tblSet d t x.1 (f (tblGet d m x.1))) []

/-- Every key of the table lies above `b`, keys rise strictly and no entry is the default. -/
def tblWfFrom {α : Type} [DecidableEq α] (d : Nat → α) : Option Nat → Tbl α → Bool
  | _, [] => true
  | b, (k, v) :: t =>
    (match b with | none => true | some j => decide (j < k)) && decide (v ≠ d k) && tblWfFrom d (some k) t

/-- The canonical form of a table. -/
def tblWf {α : Type} [DecidableEq α] (d : Nat → α) (m : Tbl α) : Bool := tblWfFrom d none m

/-! ### Byte memories -/

/-- What an unlisted byte reads as: zero (R279, R283: both memories are zeroed before use). DESIGN CHOICE (log entry 15). -/
def byteDflt : Nat → Byte := fun _ => 0

/-- One byte of a memory. DESIGN CHOICE (log entry 15). -/
def memGet (m : List Host.Cell) (a : Nat) : Byte := tblGet byteDflt m a

/-- Write one byte. -/
def memSet (m : List Host.Cell) (a : Nat) (b : Byte) : List Host.Cell := tblSet byteDflt m a b

/-- The bytes from `a`, `n` of them, of cells that begin at or above `a`. -/
def memTake : Nat → Nat → List Host.Cell → List Byte
  | 0, _, _ => []
  | n + 1, a, [] => 0 :: memTake n (a + 1) []
  | n + 1, a, (k, b) :: t => if k = a then b :: memTake n (a + 1) t else 0 :: memTake n (a + 1) ((k, b) :: t)

/-- `n` bytes from address `a`, in increasing address order. -/
def memRead (m : List Host.Cell) (a n : Nat) : List Byte := memTake n a (m.dropWhile (fun c => c.1 < a))

/-- The cells that the bytes `bs` from address `a` put into a canonical memory. -/
def cellsOf : Nat → List Byte → List Host.Cell
  | _, [] => []
  | a, b :: bs => if b = 0 then cellsOf (a + 1) bs else (a, b) :: cellsOf (a + 1) bs

/-- Replace the bytes from address `a` by `bs`. -/
def memWrite (m : List Host.Cell) (a : Nat) (bs : List Byte) : List Host.Cell :=
  m.filter (fun c => c.1 < a) ++ cellsOf a bs ++ m.filter (fun c => a + bs.length ≤ c.1)

/-- The canonical form of a memory. -/
def memWf (m : List Host.Cell) : Bool := tblWf byteDflt m

/-! ### Little-endian numbers -/

/-- The little-endian value of bytes (R61). -/
def leNat : List Byte → Nat
  | [] => 0
  | b :: bs => b.toNat + 256 * leNat bs

/-- `n` little-endian bytes of a number. -/
def leBytes : Nat → Nat → List Byte
  | 0, _ => []
  | n + 1, v => BitVec.ofNat 8 v :: leBytes n (v / 256)

/-- `n` big-endian bytes of a number. -/
def beBytes (n v : Nat) : List Byte := (leBytes n v).reverse

/-- The big-endian value of bytes. -/
def beNat (bs : List Byte) : Nat := leNat bs.reverse

/-- Bits [hi:lo] of a number (R11). -/
def bitsOf (v hi lo : Nat) : Nat := v / 2 ^ lo % 2 ^ (hi + 1 - lo)

/-- Bit [n] of a number. -/
def bitOf (v n : Nat) : Bool := v / 2 ^ n % 2 == 1

/-- Bits [hi:lo] of a 64-bit word. -/
def fld (w : Word) (hi lo : Nat) : Nat := bitsOf w.toNat hi lo

/-- 1 for true. -/
def b2n (b : Bool) : Nat := if b then 1 else 0

/-- Replace bits [hi:lo] of a number. -/
def setBits (v hi lo x : Nat) : Nat :=
  v - bitsOf v hi lo * 2 ^ lo + (x % 2 ^ (hi + 1 - lo)) * 2 ^ lo

/-- The two's complement value of the low `w` bits. -/
def toSigned (w v : Nat) : Int :=
  let u := v % 2 ^ w
  if u < 2 ^ (w - 1) then (u : Int) else (u : Int) - (2 ^ w : Nat)

/-- The `w` low bits of an integer. -/
def ofSigned (w : Nat) (i : Int) : Nat := (i % ((2 ^ w : Nat) : Int)).toNat

/-- Ceiling of a quotient. -/
def cdiv (a b : Nat) : Nat := (a + b - 1) / b

/-- `a` rounded up to a multiple of `b`. -/
def roundUp (a b : Nat) : Nat := cdiv a b * b

/-- Saturating count (R98 and the counter rules of every chapter). -/
def satAdd (maxv a b : Nat) : Nat := min maxv (a + b)

/-- Two ranges [a, a+n) and [b, b+m) share a byte. -/
def overlap (a n b m : Nat) : Bool := decide (0 < n ∧ 0 < m ∧ a < b + m ∧ b < a + n)

/-- ⌊log2⌋ of a positive number, 0 for 0. -/
def flog2 (n : Nat) : Nat := n.log2

end Sys2Proof.Machine
end

