-- ==== Sys2Proof/Machine/Hash.lean ====
section
/-! DEFINITION. The checks and digests of the package: CRC-64 (R274), CRC-32 (R334), the SHA-2 functions (FIPS 180-4,
named by R301, R420, R426), and the verification of SLH-DSA signatures (FIPS 205, named by R551). -/
namespace Sys2Proof.Machine
open Sys2Proof

/-- Generator of R274 (ECMA-182). -/
def crc64Poly : Nat := 0x42F0E1EBA9EA3693

/-- `k` shifts of a 64-bit CRC register, most significant bit first. -/
def crc64Shift : Nat → Nat → Nat
  | 0, c => c
  | k + 1, c => crc64Shift k (if c < 2 ^ 63 then 2 * c else Nat.xor (2 * c - 2 ^ 64) crc64Poly)

/-- One byte into the CRC-64 of R274. -/
def crc64Byte (c : Nat) (b : Byte) : Nat :=
  if c = 0 && b = 0 then 0 else crc64Shift 8 (Nat.xor c (b.toNat * 2 ^ 56))

/-- CRC-64 of bytes in increasing address order: initial value 0, no reflection, no final exclusive-or (R274). -/
def crc64 (bs : List Byte) : Nat := bs.foldl crc64Byte 0

/-- `k` zero bytes into a CRC-64 register. -/
def crc64Zeros : Nat → Nat → Nat
  | 0, c => c
  | k + 1, c => if c = 0 then 0 else crc64Zeros k (crc64Shift 8 c)

/-- CRC-64 of the bytes from `pos` to `stop` that the cells hold, unlisted bytes being zero. -/
def crc64Cells (stop : Nat) : Nat → Nat → List Host.Cell → Nat
  | pos, c, [] => crc64Zeros (stop - pos) c
  | pos, c, (k, b) :: t => crc64Cells stop (k + 1) (crc64Byte (crc64Zeros (k - pos) c) b) t

/-- `k` shifts of a 32-bit CRC register. -/
def crc32Shift : Nat → Nat → Nat
  | 0, c => c
  | k + 1, c => crc32Shift k (if c < 2 ^ 31 then 2 * c else Nat.xor (2 * c - 2 ^ 32) 0x04C11DB7)

/-- CRC-32 with the polynomial of R334, computed as the CRC of R274 is (the manual gives the polynomial only). DESIGN CHOICE (log entry 136). -/
def crc32 (bs : List Byte) : Nat := bs.foldl (fun c b => crc32Shift 8 (Nat.xor c (b.toNat * 2 ^ 24))) 0

/-! ### The SHA-2 family -/

/-- The integer part of the `k`-th root of `n`, found bit by bit from bit `b - 1` down, `r` being the bits above. -/
def rootGo (k n : Nat) : Nat → Nat → Nat
  | 0, r => r
  | b + 1, r => rootGo k n b (if (r + 2 ^ b) ^ k ≤ n then r + 2 ^ b else r)

/-- The first `w` bits of the fractional part of the `k`-th root of `p`, a number whose root is below 2^8 (FIPS 180-4, 4.2 and 5.3). -/
def rootFrac (w k p : Nat) : BitVec w := BitVec.ofNat w (rootGo k (p * 2 ^ (w * k)) (w + 8) 0)

/-- The first 80 prime numbers, in rising order. -/
def shaPrimes : List Nat := (List.range 410).filter (fun p => 2 ≤ p && (List.range p).all (fun d => d < 2 || p % d != 0))

/-- The eight working variables. -/
structure Sha (w : Nat) where
  a : BitVec w
  b : BitVec w
  c : BitVec w
  d : BitVec w
  e : BitVec w
  f : BitVec w
  g : BitVec w
  h : BitVec w
  deriving DecidableEq, Repr

/-- What sets one function of the family apart (FIPS 180-4, 4.1, 5.3): the rotations of the two sums and of the two schedule functions, whose
third number is a shift; how many primes give round constants; and the primes that give the initial value, by place and root width. -/
structure ShaKind where
  sumE : Nat × Nat × Nat
  sumA : Nat × Nat × Nat
  sch1 : Nat × Nat × Nat
  sch0 : Nat × Nat × Nat
  rounds : Nat
  first : Nat
  deriving DecidableEq, Repr

/-- SHA-384, whose initial value comes from the ninth to sixteenth primes. -/
def kind384 : ShaKind := ⟨(14, 18, 41), (28, 34, 39), (19, 61, 6), (1, 8, 7), 80, 8⟩
/-- SHA-512, whose initial value comes from the first eight primes. -/
def kind512 : ShaKind := { kind384 with first := 0 }
/-- SHA-256. -/
def kind256 : ShaKind := ⟨(6, 11, 25), (2, 13, 22), (17, 19, 10), (7, 18, 3), 64, 0⟩

/-- The round constants: from the cube roots of the first primes (FIPS 180-4, 4.2). -/
def shaK (w : Nat) (k : ShaKind) : List (BitVec w) := (shaPrimes.take k.rounds).map (rootFrac w 3)

/-- Initial hash value: from the square roots of eight primes (FIPS 180-4, 5.3). -/
def shaInit (w : Nat) (k : ShaKind) : Sha w :=
  let v := fun i => rootFrac w 2 (shaPrimes.getD (k.first + i) 0)
  ⟨v 0, v 1, v 2, v 3, v 4, v 5, v 6, v 7⟩

/-- The exclusive-or of three rotations. -/
def rot3 {w : Nat} (x : BitVec w) (r : Nat × Nat × Nat) : BitVec w := x.rotateRight r.1 ^^^ x.rotateRight r.2.1 ^^^ x.rotateRight r.2.2
/-- The exclusive-or of two rotations and a shift. -/
def rotShift {w : Nat} (x : BitVec w) (r : Nat × Nat × Nat) : BitVec w := x.rotateRight r.1 ^^^ x.rotateRight r.2.1 ^^^ (x >>> r.2.2)

/-- One round with the sum of round constant and schedule word. -/
def shaRound {w : Nat} (k : ShaKind) (s : Sha w) (kw : BitVec w) : Sha w :=
  let t1 := s.h + rot3 s.e k.sumE + ((s.e &&& s.f) ^^^ (~~~s.e &&& s.g)) + kw
  let t2 := rot3 s.a k.sumA + ((s.a &&& s.b) ^^^ (s.a &&& s.c) ^^^ (s.b &&& s.c))
  ⟨t1 + t2, s.a, s.b, s.c, s.d + t1, s.e, s.f, s.g⟩

/-- Run the rounds; the schedule is a window of the next 16 words. -/
def shaRounds {w : Nat} (kd : ShaKind) : List (BitVec w) → List (BitVec w) → Sha w → Sha w
  | [], _, s => s
  | k :: ks, ws, s =>
    let at' := fun i => (ws.drop i).headD 0
    let n := rotShift (at' 14) kd.sch1 + at' 9 + rotShift (at' 1) kd.sch0 + at' 0
    shaRounds kd ks (ws.drop 1 ++ [n]) (shaRound kd s (k + at' 0))

/-- Add the working variables to the hash value. -/
def shaAdd {w : Nat} (x y : Sha w) : Sha w := ⟨x.a + y.a, x.b + y.b, x.c + y.c, x.d + y.d, x.e + y.e, x.f + y.f, x.g + y.g, x.h + y.h⟩

/-- Sixteen big-endian words of a block. -/
def shaWords (w : Nat) : Nat → List Byte → List (BitVec w)
  | 0, _ => []
  | n + 1, bs => BitVec.ofNat w (beNat (bs.take (w / 8))) :: shaWords w n (bs.drop (w / 8))

/-- Blocks of 16 words. -/
def shaBlocks {w : Nat} (kd : ShaKind) (ks : List (BitVec w)) : Nat → List Byte → Sha w → Sha w
  | 0, _, s => s
  | n + 1, bs, s => shaBlocks kd ks n (bs.drop (2 * w)) (shaAdd s (shaRounds kd ks (shaWords w 16 (bs.take (2 * w))) s))

/-- Message padding to blocks of 2·w bytes, whose last w / 4 hold the length. -/
def shaPad (w : Nat) (bs : List Byte) : List Byte :=
  let n := bs.length
  let b := 2 * w
  bs ++ [0x80] ++ List.replicate ((2 * b - 1 - w / 4 - n % b) % b) 0 ++ beBytes (w / 4) (8 * n)

/-- A digest of the family, before truncation (FIPS 180-4). -/
def shaFull (w : Nat) (k : ShaKind) (bs : List Byte) : List Byte :=
  let p := shaPad w bs
  let s := shaBlocks k (shaK w k) (p.length / (2 * w)) p (shaInit w k)
  [s.a, s.b, s.c, s.d, s.e, s.f, s.g, s.h].flatMap (fun x => beBytes (w / 8) x.toNat)

/-- SHA-384: 48 bytes in digest order (FIPS 180-4). -/
def sha384 (bs : List Byte) : List Byte := (shaFull 64 kind384 bs).take 48
/-- SHA-512. -/
def sha512 (bs : List Byte) : List Byte := shaFull 64 kind512 bs
/-- SHA-256. -/
def sha256 (bs : List Byte) : List Byte := shaFull 32 kind256 bs

/-! ### SLH-DSA-SHA2-192s (FIPS 205, named by R550, R551) -/

/-- Bytes of a node. -/
abbrev slhN : Nat := 24

/-- The address of a hash call in the compressed form of FIPS 205, 11.2: layer, tree, type, and three words that the type gives a meaning. -/
structure SlhAdrs where
  layer : Nat := 0
  tree : Nat := 0
  ty : Nat := 0
  w1 : Nat := 0
  w2 : Nat := 0
  w3 : Nat := 0
  deriving DecidableEq, Repr

/-- Its 22 bytes. -/
def adrsBytes (a : SlhAdrs) : List Byte := beBytes 1 a.layer ++ beBytes 8 a.tree ++ beBytes 1 a.ty ++ beBytes 4 a.w1 ++ beBytes 4 a.w2 ++ beBytes 4 a.w3

/-- F: one node to one node. -/
def slhF (seed : List Byte) (a : SlhAdrs) (m : List Byte) : List Byte :=
  (sha256 (seed ++ List.replicate (64 - slhN) 0 ++ adrsBytes a ++ m)).take slhN
/-- H and T: several nodes to one. -/
def slhH (seed : List Byte) (a : SlhAdrs) (m : List Byte) : List Byte :=
  (sha512 (seed ++ List.replicate (128 - slhN) 0 ++ adrsBytes a ++ m)).take slhN

/-- `n` digits of `b` bits, the most significant first. -/
def digitsOf (b n v : Nat) : List Nat := (List.range n).reverse.map (fun i => v / 2 ^ (b * i) % 2 ^ b)

/-- The root above a node at place `i` of a tree, from its authentication path; `h` is the height reached so far. -/
def slhClimb (seed : List Byte) (a : SlhAdrs) : List (List Byte) → Nat → Nat → List Byte → List Byte
  | [], _, _, node => node
  | sib :: rest, h, i, node =>
    slhClimb seed a rest (h + 1) (i / 2)
      (slhH seed { a with w2 := h + 1, w3 := i / 2 } (if i % 2 = 0 then node ++ sib else sib ++ node))

/-- Bytes in pieces of a node each, `n` of them. -/
def slhNodes : Nat → List Byte → List (List Byte)
  | 0, _ => []
  | n + 1, bs => bs.take slhN :: slhNodes n (bs.drop slhN)

/-- The rest of a WOTS+ chain: steps `i` to 14. -/
def slhChain (seed : List Byte) (a : SlhAdrs) (i : Nat) (x : List Byte) : List Byte :=
  ((List.range 15).filter (i ≤ ·)).foldl (fun x j => slhF seed { a with w3 := j } x) x

/-- The WOTS+ public key that a signature of a node implies (FIPS 205, algorithm 8). -/
def slhWots (seed : List Byte) (a : SlhAdrs) (sig msg : List Byte) : List Byte :=
  let ds := digitsOf 4 48 (beNat msg)
  let sum := ds.foldl (fun c d => c + (15 - d)) 0
  let all := ds ++ digitsOf 4 3 sum
  let tips := (((List.range 51).zip all).zip (slhNodes 51 sig)).map (fun x => slhChain seed { a with ty := 0, w2 := x.1.1 } x.1.2 x.2)
  slhH seed { a with ty := 1, w2 := 0, w3 := 0 } tips.flatten

/-- The XMSS root that a signature implies (algorithm 11). -/
def slhXmss (seed : List Byte) (layer tree leaf : Nat) (sig msg : List Byte) : List Byte :=
  let a : SlhAdrs := { layer := layer, tree := tree, w1 := leaf }
  slhClimb seed { a with ty := 2, w1 := 0 } (slhNodes 9 (sig.drop (51 * slhN))) 0 leaf (slhWots seed a sig msg)

/-- The root of the hypertree that a signature implies (algorithm 13): `n` layers from `layer` up. -/
def slhTree (seed : List Byte) : Nat → Nat → Nat → Nat → List Byte → List Byte → List Byte
  | 0, _, _, _, _, node => node
  | n + 1, layer, tree, leaf, sig, node =>
    slhTree seed n (layer + 1) (tree / 2 ^ 9) (tree % 2 ^ 9) (sig.drop (60 * slhN)) (slhXmss seed layer tree leaf (sig.take (60 * slhN)) node)

/-- The FORS public key that a signature implies (algorithm 17): 17 trees of height 14. -/
def slhFors (seed : List Byte) (tree leaf : Nat) (sig md : List Byte) : List Byte :=
  let a : SlhAdrs := { tree := tree, ty := 3, w1 := leaf }
  let roots := ((List.range 17).zip (digitsOf 14 17 (beNat md / 4))).map (fun x =>
    let s := sig.drop (x.1 * 15 * slhN)
    let i := x.1 * 2 ^ 14 + x.2
    slhClimb seed a (slhNodes 14 (s.drop slhN)) 0 i (slhF seed { a with w3 := i } (s.take slhN)))
  slhH seed { a with ty := 4 } roots.flatten

/-- MGF1 over a hash of `d` bytes: `n` bytes. -/
def mgf1 (hash : List Byte → List Byte) (d : Nat) (seed : List Byte) (n : Nat) : List Byte :=
  ((List.range (cdiv n d)).flatMap (fun i => hash (seed ++ beBytes 4 i))).take n

/-- An SLH-DSA-SHA2-192s signature of 16,224 bytes verifies under a public key of 48, pure and with an empty context string (algorithms 20
and 24). -/
def slhVerify (key msg sig : List Byte) : Bool :=
  let seed := key.take slhN
  let root := key.drop slhN
  let r := sig.take slhN
  let dig := mgf1 sha512 64 (r ++ seed ++ sha512 (r ++ seed ++ root ++ [0, 0] ++ msg)) 39
  let tree := beNat ((dig.drop 30).take 7) % 2 ^ 54
  let leaf := beNat ((dig.drop 37).take 2) % 2 ^ 9
  let node := slhFors seed tree leaf ((sig.drop slhN).take (255 * slhN)) (dig.take 30)
  sig.length == 16224 && key.length == 48 && slhTree seed 7 0 tree leaf (sig.drop (256 * slhN)) node == root

end Sys2Proof.Machine
end

