-- ==== Sys2Proof/Config.lean ====
section
/-! DEFINITION. What is fixed for the package: the object dictionary's entry table and defaults (the dictionary tables of
every chapter), the names of entry keys, and the free values of the outside world that the spec leaves open. -/
namespace Sys2Proof.Config
open Sys2Proof

/-- One range of dictionary entries: first and last index and sub-index (stepping by R522 in index ranges), type code
(1 U8, 2 U16, 3 U32, 4 U64, 5 I64, 6 TIME_NS, 7 ENUM8, 8 BOOL, 9 OCTETS, 10 DIGEST384), size in bytes, access
(0 RO, 1 RW, 2 RWI, 3 WO, 4 SEAL) and name. -/
structure Entry where
  idx : Nat
  sub : Nat
  idx2 : Nat
  sub2 : Nat
  ty : Nat
  size : Nat
  acc : Nat
  name : String
  deriving DecidableEq, Repr

/-- Entries, part 0. -/
def entries0 : List Entry := [
  ⟨0x1000, 0x01, 0x1000, 0x01, 9, 16, 0, "VENDOR_NAME"⟩,
  ⟨0x1000, 0x02, 0x1000, 0x02, 9, 16, 0, "PRODUCT_NAME"⟩,
  ⟨0x1000, 0x03, 0x1000, 0x03, 9, 16, 0, "ARCHITECTURE"⟩,
  ⟨0x1000, 0x04, 0x1000, 0x04, 9, 16, 0, "PART_NUMBER"⟩,
  ⟨0x1000, 0x05, 0x1000, 0x05, 7, 1, 0, "GRADE"⟩,
  ⟨0x1000, 0x06, 0x1000, 0x06, 1, 1, 0, "STEPPING"⟩,
  ⟨0x1000, 0x07, 0x1000, 0x07, 4, 8, 0, "SERIAL"⟩,
  ⟨0x1000, 0x08, 0x1000, 0x08, 9, 6, 0, "MAC_ADDRESS"⟩,
  ⟨0x1000, 0x09, 0x1000, 0x09, 3, 4, 0, "MANUFACTURE_DAY"⟩,
  ⟨0x1000, 0x0A, 0x1000, 0x0A, 10, 48, 0, "IDENTITY_KEY_DIGEST"⟩,
  ⟨0x1000, 0x0B, 0x1000, 0x0B, 1, 1, 0, "FOVIS_VERSION"⟩,
  ⟨0x1000, 0x0C, 0x1000, 0x0C, 9, 32, 1, "ASSET_TAG"⟩,
  ⟨0x1100, 0x01, 0x1100, 0x01, 7, 1, 1, "JOB_PHASE"⟩,
  ⟨0x1100, 0x02, 0x1100, 0x02, 6, 8, 0, "PHASE_SINCE"⟩,
  ⟨0x1200, 0x01, 0x1200, 0x01, 2, 2, 4, "FOVIS_UDP_PORT"⟩,
  ⟨0x1200, 0x02, 0x1200, 0x02, 1, 1, 1, "PLCA_NODE_ID"⟩,
  ⟨0x1200, 0x03, 0x1200, 0x03, 1, 1, 1, "PLCA_NODE_COUNT"⟩,
  ⟨0x1200, 0x04, 0x1200, 0x04, 4, 8, 0, "BUNDLE_SEQ"⟩,
  ⟨0x1201, 0x01, 0x1201, 0x01, 4, 8, 0, "PDUS_RECEIVED"⟩,
  ⟨0x1201, 0x02, 0x1201, 0x02, 4, 8, 0, "PDUS_DISCARDED"⟩,
  ⟨0x1201, 0x03, 0x1201, 0x03, 4, 8, 0, "REPLAYED_REPLIES"⟩,
  ⟨0x1201, 0x04, 0x1201, 0x04, 4, 8, 0, "BUNDLES_APPLIED"⟩,
  ⟨0x1201, 0x05, 0x1201, 0x05, 4, 8, 0, "BUNDLES_REFUSED"⟩,
  ⟨0x2000, 0x01, 0x2000, 0x01, 2, 2, 2, "CHASSIS_NUMBER"⟩,
  ⟨0x2000, 0x02, 0x2000, 0x02, 1, 1, 0, "BOARD_NUMBER"⟩,
  ⟨0x2000, 0x03, 0x2000, 0x03, 1, 1, 0, "PACKAGE_POSITION"⟩,
  ⟨0x2000, 0x04, 0x2000, 0x04, 3, 4, 0, "PACKAGE_COORD"⟩,
  ⟨0x2001, 0x00, 0x2001, 0x00, 2, 2, 0, "ENABLED_CORES"⟩,
  ⟨0x2001, 0x01, 0x2001, 0x08, 2, 2, 0, "DIE_ENABLED_CORES"⟩,
  ⟨0x2002, 0x01, 0x2002, 0x08, 2, 2, 0, "DIE_SPARES_LEFT"⟩,
  ⟨0x2003, 0x00, 0x2003, 0x00, 1, 1, 0, "SOLVER_ENGINES"⟩,
  ⟨0x2010, 0x01, 0x2017, 0x01, 9, 2560, 0, "CORE_MAP"⟩,
  ⟨0x3000, 0x01, 0x3000, 0x01, 7, 1, 2, "DEFAULT_ROUNDING"⟩,
  ⟨0x3000, 0x02, 0x3000, 0x02, 7, 1, 2, "SUBNORMALS"⟩,
  ⟨0x3000, 0x03, 0x3000, 0x03, 7, 1, 2, "MX_BLOCK_DEFAULT"⟩,
  ⟨0x3000, 0x04, 0x3000, 0x04, 7, 1, 2, "MATRIX_MODE"⟩,
  ⟨0x3000, 0x05, 0x3000, 0x05, 1, 1, 0, "NUMERIC_STEPPING_CLASS"⟩,
  ⟨0x3000, 0x06, 0x3000, 0x06, 3, 4, 0, "TABLE_SET_REVISION"⟩,
  ⟨0x4000, 0x01, 0x4000, 0x01, 6, 8, 1, "TOKEN_STALL_LIMIT"⟩,
  ⟨0x4000, 0x02, 0x4000, 0x02, 1, 1, 0, "LAUNCH_QUEUE_DEPTH"⟩]

/-- Entries, part 1. -/
def entries1 : List Entry := [
  ⟨0x4000, 0x03, 0x4000, 0x03, 2, 2, 0, "IMPOSITION_GROUPS"⟩,
  ⟨0x4000, 0x04, 0x4000, 0x04, 1, 1, 0, "FORME_LOG_DEPTH"⟩,
  ⟨0x4000, 0x05, 0x4000, 0x05, 9, 5, 0, "QUEUE_DEPTHS"⟩,
  ⟨0x4001, 0x01, 0x4001, 0x01, 4, 8, 0, "LAUNCHES_ADMITTED"⟩,
  ⟨0x4001, 0x02, 0x4001, 0x02, 4, 8, 0, "STALL_RELEASES"⟩,
  ⟨0x4001, 0x03, 0x4001, 0x03, 4, 8, 0, "LOG_DROPPED_TOTAL"⟩,
  ⟨0x4800, 0x01, 0x4800, 0x01, 1, 1, 0, "GALLEY_SLOTS"⟩,
  ⟨0x4800, 0x02, 0x4800, 0x02, 1, 1, 0, "ME_FILL_BEATS"⟩,
  ⟨0x4800, 0x03, 0x4800, 0x03, 1, 1, 0, "ME_C_PORT_BYTES"⟩,
  ⟨0x4801, 0x01, 0x4801, 0x01, 4, 8, 0, "ME_COMMANDS"⟩,
  ⟨0x4801, 0x02, 0x4801, 0x02, 4, 8, 0, "GALLEY_DISCARDS"⟩,
  ⟨0x4801, 0x03, 0x4801, 0x03, 4, 8, 0, "GALLEY_STALL_RELEASES"⟩,
  ⟨0x4801, 0x04, 0x4801, 0x04, 4, 8, 0, "GALLEY_PHANTOM_SLOTS"⟩,
  ⟨0x4801, 0x05, 0x4801, 0x05, 4, 8, 0, "GATHER_BINDINGS"⟩,
  ⟨0x4801, 0x06, 0x4801, 0x06, 4, 8, 0, "GATHER_UNBOUND"⟩,
  ⟨0x5000, 0x01, 0x5000, 0x01, 1, 1, 0, "VE_LANES_FP64"⟩,
  ⟨0x5000, 0x02, 0x5000, 0x02, 2, 2, 0, "VE_REGISTER_BITS"⟩,
  ⟨0x5000, 0x03, 0x5000, 0x03, 1, 1, 0, "VE_STARTUP_BEATS"⟩,
  ⟨0x5000, 0x04, 0x5000, 0x04, 1, 1, 0, "VE_LUT_SEGMENTS"⟩,
  ⟨0x5000, 0x05, 0x5000, 0x05, 2, 2, 0, "VE_LUT_SEGMENT_ENTRIES"⟩,
  ⟨0x5000, 0x06, 0x5000, 0x06, 2, 2, 0, "VE_LUT_ENTRIES"⟩,
  ⟨0x5001, 0x01, 0x5001, 0x01, 4, 8, 0, "VE_COMMANDS"⟩,
  ⟨0x5001, 0x02, 0x5001, 0x02, 4, 8, 0, "VE_EMPTY_ROWS"⟩,
  ⟨0x5001, 0x03, 0x5001, 0x03, 4, 8, 0, "VE_LUT_LOADS"⟩,
  ⟨0x5001, 0x04, 0x5001, 0x04, 4, 8, 0, "VE_GALLEY_SLOTS_READ"⟩,
  ⟨0x5800, 0x01, 0x5800, 0x01, 1, 1, 0, "SE_HEADROOM_BITS"⟩,
  ⟨0x5800, 0x02, 0x5800, 0x02, 2, 2, 0, "SE_ARRAY_CELLS"⟩,
  ⟨0x5800, 0x03, 0x5800, 0x03, 3, 4, 0, "SE_WORK_ELEMENTS"⟩,
  ⟨0x5800, 0x04, 0x5800, 0x04, 2, 2, 0, "SE_DENSE_N_MAX"⟩,
  ⟨0x5800, 0x05, 0x5800, 0x05, 1, 1, 0, "SE_RESTART_MAX"⟩,
  ⟨0x5801, 0x01, 0x5801, 0x01, 4, 8, 0, "SE_COMMANDS"⟩,
  ⟨0x5801, 0x02, 0x5801, 0x02, 4, 8, 0, "SE_DEADLINE_REUSES"⟩,
  ⟨0x5801, 0x03, 0x5801, 0x03, 4, 8, 0, "SE_PIVOTS_REGULARISED"⟩,
  ⟨0x5801, 0x04, 0x5801, 0x04, 4, 8, 0, "SE_SATURATIONS"⟩,
  ⟨0x5801, 0x05, 0x5801, 0x05, 4, 8, 0, "SE_ITER_LIMITS"⟩,
  ⟨0x5801, 0x06, 0x5801, 0x06, 4, 8, 0, "SE_BREAKDOWNS"⟩,
  ⟨0x6000, 0x01, 0x6000, 0x01, 1, 1, 2, "DIE_LOCAL_SLICES"⟩,
  ⟨0x6000, 0x02, 0x6000, 0x02, 6, 8, 1, "SCRUB_INTERVAL"⟩,
  ⟨0x6000, 0x03, 0x6000, 0x03, 2, 2, 3, "STACK_RETRAIN"⟩,
  ⟨0x6000, 0x04, 0x6000, 0x04, 2, 2, 3, "STACK_CLEAR"⟩]

/-- Entries, part 2. -/
def entries2 : List Entry := [
  ⟨0x6000, 0x05, 0x6000, 0x05, 1, 1, 0, "PARITY_RETRY_LIMIT"⟩,
  ⟨0x6001, 0x01, 0x6001, 0x10, 4, 8, 0, "LANE_REPAIRS"⟩,
  ⟨0x6002, 0x01, 0x6002, 0x10, 4, 8, 0, "SUSPECT_GROUPS"⟩,
  ⟨0x6003, 0x01, 0x6003, 0x10, 3, 4, 0, "OFFLINE_CHANNELS"⟩,
  ⟨0x6004, 0x01, 0x6004, 0x10, 7, 1, 0, "STACK_STATE"⟩,
  ⟨0x6005, 0x01, 0x6005, 0x01, 4, 8, 0, "ECC_CORRECTED"⟩,
  ⟨0x6005, 0x02, 0x6005, 0x02, 4, 8, 0, "ECC_UNCORRECTED"⟩,
  ⟨0x6005, 0x03, 0x6005, 0x03, 4, 8, 0, "PARITY_RETRIES"⟩,
  ⟨0x6005, 0x04, 0x6005, 0x04, 4, 8, 0, "PARITY_EXHAUSTED"⟩,
  ⟨0x6005, 0x05, 0x6005, 0x05, 4, 8, 0, "TILE_CHECKSUM_FAILURES"⟩,
  ⟨0x6005, 0x06, 0x6005, 0x06, 4, 8, 0, "NMU_OPERATIONS"⟩,
  ⟨0x6005, 0x07, 0x6005, 0x07, 4, 8, 0, "NMU_ATOMICS"⟩,
  ⟨0x6005, 0x08, 0x6005, 0x08, 4, 8, 0, "COW_HELD_WRITES"⟩,
  ⟨0x6800, 0x01, 0x6800, 0x01, 1, 1, 0, "DE_OUTSTANDING_LINES"⟩,
  ⟨0x6800, 0x02, 0x6800, 0x02, 3, 4, 0, "DE_CHAIN_LIMIT"⟩,
  ⟨0x6801, 0x01, 0x6801, 0x01, 4, 8, 0, "DE_DESCRIPTORS"⟩,
  ⟨0x6801, 0x02, 0x6801, 0x02, 4, 8, 0, "DE_BYTES"⟩,
  ⟨0x6801, 0x03, 0x6801, 0x03, 4, 8, 0, "DE_BOUNDS"⟩,
  ⟨0x6801, 0x04, 0x6801, 0x04, 4, 8, 0, "DE_PARTIAL"⟩,
  ⟨0x6801, 0x05, 0x6801, 0x05, 4, 8, 0, "DE_FAILED_LINES"⟩,
  ⟨0x6801, 0x06, 0x6801, 0x06, 4, 8, 0, "DE_CHAIN_SKIPS"⟩,
  ⟨0x6801, 0x07, 0x6801, 0x07, 4, 8, 0, "DE_TAGGED_LEAVES"⟩,
  ⟨0x7000, 0x01, 0x7000, 0x01, 9, 64, 2, "PORT_LEVELS"⟩,
  ⟨0x7000, 0x02, 0x7000, 0x02, 2, 2, 2, "JOB_EPOCH"⟩,
  ⟨0x7000, 0x03, 0x7000, 0x03, 2, 2, 2, "OWN_LOGICAL_ID"⟩,
  ⟨0x7000, 0x04, 0x7000, 0x04, 6, 8, 0, "REQUEST_LIFETIME"⟩,
  ⟨0x7000, 0x05, 0x7000, 0x05, 6, 8, 0, "REPLY_TIMEOUT"⟩,
  ⟨0x7000, 0x06, 0x7000, 0x06, 6, 8, 1, "E2E_RETRY_INTERVAL"⟩,
  ⟨0x7000, 0x07, 0x7000, 0x07, 6, 8, 1, "SYS_RETRY_INTERVAL"⟩,
  ⟨0x7000, 0x08, 0x7000, 0x08, 1, 1, 1, "HOT_THRESHOLD"⟩,
  ⟨0x7000, 0x09, 0x7000, 0x09, 3, 4, 0, "REPLAY_ENTRIES"⟩,
  ⟨0x7000, 0x0A, 0x7000, 0x0A, 3, 4, 0, "DIRECTORY_ENTRIES"⟩,
  ⟨0x7000, 0x0B, 0x7000, 0x0B, 4, 8, 3, "PORT_RETRAIN"⟩,
  ⟨0x7001, 0x01, 0x7001, 0x40, 3, 4, 0, "PORT_STATE"⟩,
  ⟨0x7002, 0x01, 0x7002, 0x01, 4, 8, 0, "LINK_RETRIES"⟩,
  ⟨0x7002, 0x02, 0x7002, 0x02, 4, 8, 0, "FEC_CORRECTED"⟩,
  ⟨0x7002, 0x03, 0x7002, 0x03, 4, 8, 0, "FEC_UNCORRECTED"⟩,
  ⟨0x7002, 0x04, 0x7002, 0x04, 4, 8, 0, "PORTS_LOST"⟩,
  ⟨0x7002, 0x05, 0x7002, 0x05, 4, 8, 0, "FLITS_MALFORMED"⟩,
  ⟨0x7002, 0x06, 0x7002, 0x06, 4, 8, 0, "EPOCH_DROPS"⟩]

/-- Entries, part 3. -/
def entries3 : List Entry := [
  ⟨0x7002, 0x07, 0x7002, 0x07, 4, 8, 0, "LIFETIME_DROPS"⟩,
  ⟨0x7002, 0x08, 0x7002, 0x08, 4, 8, 0, "E2E_RETRIES"⟩,
  ⟨0x7002, 0x09, 0x7002, 0x09, 4, 8, 0, "LATE_REPLIES"⟩,
  ⟨0x7002, 0x0A, 0x7002, 0x0A, 4, 8, 0, "REPLAY_HITS"⟩,
  ⟨0x7002, 0x0B, 0x7002, 0x0B, 4, 8, 0, "ATOMICS_UNKNOWN"⟩,
  ⟨0x7002, 0x0C, 0x7002, 0x0C, 4, 8, 0, "HOT_LINES"⟩,
  ⟨0x7002, 0x0D, 0x7002, 0x0D, 4, 8, 0, "WRITES_COMBINED"⟩,
  ⟨0x7002, 0x0E, 0x7002, 0x0E, 4, 8, 0, "DIRECTORY_RECALLS"⟩,
  ⟨0x7002, 0x0F, 0x7002, 0x0F, 4, 8, 0, "SYS_DUPLICATES"⟩,
  ⟨0x7002, 0x10, 0x7002, 0x10, 4, 8, 0, "EPOCH_STALE_SKIPS"⟩,
  ⟨0x7003, 0x01, 0x7003, 0x01, 4, 8, 0, "STALL_NS_BOARD"⟩,
  ⟨0x7003, 0x02, 0x7003, 0x02, 4, 8, 0, "STALL_NS_CHASSIS"⟩,
  ⟨0x7003, 0x03, 0x7003, 0x03, 4, 8, 0, "STALL_NS_GATEWAY"⟩,
  ⟨0x7800, 0x01, 0x7800, 0x01, 6, 8, 1, "COLL_TIMEOUT_DEFAULT"⟩,
  ⟨0x7800, 0x02, 0x7800, 0x02, 3, 4, 2, "LEAF_COUNT"⟩,
  ⟨0x7800, 0x03, 0x7800, 0x03, 2, 2, 0, "COLL_GROUPS"⟩,
  ⟨0x7800, 0x04, 0x7800, 0x04, 4, 8, 2, "STAGING_BASE"⟩,
  ⟨0x7800, 0x05, 0x7800, 0x05, 4, 8, 2, "STAGING_SIZE"⟩,
  ⟨0x7801, 0x01, 0x7801, 0x01, 4, 8, 0, "COLLECTIVES_COMPLETED"⟩,
  ⟨0x7801, 0x02, 0x7801, 0x02, 4, 8, 0, "COLL_ABORTS"⟩,
  ⟨0x7801, 0x03, 0x7801, 0x03, 4, 8, 0, "COLL_TIMEOUTS"⟩,
  ⟨0x7801, 0x04, 0x7801, 0x04, 4, 8, 0, "HAREBELL_OPS"⟩,
  ⟨0x7801, 0x05, 0x7801, 0x05, 4, 8, 0, "STAGING_WAIT_NS"⟩,
  ⟨0x7801, 0x06, 0x7801, 0x06, 4, 8, 0, "COLL_MISMATCHES"⟩,
  ⟨0x8000, 0x01, 0x8000, 0x01, 7, 1, 2, "DETERMINISM_SCOPE"⟩,
  ⟨0x8000, 0x02, 0x8000, 0x02, 8, 1, 0, "DETERMINISM_LOCK"⟩,
  ⟨0x8000, 0x03, 0x8000, 0x03, 9, 16, 0, "SETTINGS_IMAGE"⟩,
  ⟨0x8000, 0x04, 0x8000, 0x04, 9, 16, 0, "SETTINGS_FINGERPRINT"⟩,
  ⟨0x8000, 0x05, 0x8000, 0x05, 4, 8, 2, "LEAF_TABLE_BASE"⟩,
  ⟨0x8000, 0x06, 0x8000, 0x06, 4, 8, 2, "LEAF_TABLE_SIZE"⟩,
  ⟨0x8000, 0x07, 0x8000, 0x07, 6, 8, 1, "CLOSE_TIMEOUT"⟩,
  ⟨0x8001, 0x01, 0x8001, 0x01, 4, 8, 0, "INVOCATIONS_CLOSED"⟩,
  ⟨0x8001, 0x02, 0x8001, 0x02, 4, 8, 0, "CLOSES_INCOMPLETE"⟩,
  ⟨0x8001, 0x03, 0x8001, 0x03, 4, 8, 0, "LEAVES_ENTERED"⟩,
  ⟨0x8001, 0x04, 0x8001, 0x04, 4, 8, 0, "LEAVES_SENT"⟩,
  ⟨0x8001, 0x05, 0x8001, 0x05, 4, 8, 0, "LEAF_CONFLICTS"⟩,
  ⟨0x8001, 0x06, 0x8001, 0x06, 4, 8, 0, "LEAVES_LOST"⟩,
  ⟨0x8001, 0x07, 0x8001, 0x07, 4, 8, 0, "UNCOVERED_LAUNCHES"⟩,
  ⟨0x8001, 0x08, 0x8001, 0x08, 4, 8, 0, "CONTEXTS_ABANDONED"⟩,
  ⟨0x8002, 0x01, 0x8002, 0x10, 9, 256, 0, "CONTEXT_RECORD"⟩]

/-- Entries, part 4. -/
def entries4 : List Entry := [
  ⟨0x8800, 0x01, 0x8800, 0x01, 3, 4, 1, "POWER_CEILING"⟩,
  ⟨0x8800, 0x02, 0x8800, 0x02, 1, 1, 1, "POWER_MARGIN"⟩,
  ⟨0x8800, 0x03, 0x8800, 0x03, 1, 1, 1, "VSTEP_MIN"⟩,
  ⟨0x8800, 0x04, 0x8800, 0x04, 1, 1, 1, "VSTEP_MAX"⟩,
  ⟨0x8800, 0x05, 0x8800, 0x05, 9, 336, 1, "CLUSTER_VSTEP_CAP"⟩,
  ⟨0x8800, 0x06, 0x8800, 0x06, 9, 32, 2, "ENERGY_CLASS_COST"⟩,
  ⟨0x8800, 0x07, 0x8800, 0x07, 6, 8, 1, "RETAIN_DELAY"⟩,
  ⟨0x8800, 0x08, 0x8800, 0x08, 1, 1, 1, "THERMAL_LIMIT"⟩,
  ⟨0x8800, 0x09, 0x8800, 0x09, 2, 2, 1, "HOST_DOMAINS_OFF"⟩,
  ⟨0x8800, 0x0A, 0x8800, 0x0A, 6, 8, 0, "ADMIT_SETTLE"⟩,
  ⟨0x8801, 0x01, 0x8801, 0x01, 3, 4, 0, "PKG_POWER_10US"⟩,
  ⟨0x8801, 0x02, 0x8801, 0x02, 3, 4, 0, "PKG_POWER_1MS"⟩,
  ⟨0x8801, 0x03, 0x8801, 0x03, 9, 512, 0, "DOMAIN_STATE"⟩,
  ⟨0x8801, 0x04, 0x8801, 0x04, 9, 1024, 0, "DOMAIN_POWER"⟩,
  ⟨0x8801, 0x05, 0x8801, 0x05, 9, 1024, 0, "DOMAIN_TEMPERATURE"⟩,
  ⟨0x8802, 0x01, 0x8802, 0x01, 4, 8, 0, "ADMISSION_WAIT_NS"⟩,
  ⟨0x8802, 0x02, 0x8802, 0x02, 4, 8, 0, "HOLD_NS"⟩,
  ⟨0x8802, 0x03, 0x8802, 0x03, 4, 8, 0, "THERMAL_EMERGENCIES"⟩,
  ⟨0x8802, 0x04, 0x8802, 0x04, 4, 8, 0, "VSTEP_CHANGES"⟩,
  ⟨0x8802, 0x05, 0x8802, 0x05, 4, 8, 0, "DOMAIN_WAKES"⟩,
  ⟨0x8803, 0x01, 0x8803, 0x01, 6, 8, 0, "TIME_NOW"⟩,
  ⟨0x8803, 0x02, 0x8803, 0x02, 7, 1, 0, "TIME_STATE"⟩,
  ⟨0x8803, 0x03, 0x8803, 0x03, 5, 8, 0, "TIME_OFFSET_NS"⟩,
  ⟨0x8803, 0x04, 0x8803, 0x04, 3, 4, 0, "TIME_SLEW_MAX"⟩,
  ⟨0x9000, 0x01, 0x9000, 0x01, 2, 2, 0, "ERROR_LOG_DEPTH"⟩,
  ⟨0x9000, 0x02, 0x9000, 0x02, 1, 1, 0, "CORE_STORE_SPARE_ROWS"⟩,
  ⟨0x9000, 0x03, 0x9000, 0x03, 1, 1, 0, "STACK_SPARE_ROWS"⟩,
  ⟨0x9000, 0x04, 0x9000, 0x04, 8, 1, 3, "SHUTDOWN"⟩,
  ⟨0x9000, 0x05, 0x9000, 0x05, 7, 1, 0, "LIFETIME_STATE"⟩,
  ⟨0x9001, 0x01, 0x9001, 0x0C, 4, 8, 0, "ERRORS"⟩,
  ⟨0x9002, 0x01, 0x9002, 0x0C, 4, 8, 0, "ERRORS_LIFETIME"⟩,
  ⟨0x9003, 0x01, 0x9003, 0x01, 4, 8, 0, "PROOF_PASSES"⟩,
  ⟨0x9003, 0x02, 0x9003, 0x02, 4, 8, 0, "PROOF_TRANSIENT"⟩,
  ⟨0x9003, 0x03, 0x9003, 0x03, 4, 8, 0, "PROOF_SPARED"⟩,
  ⟨0x9003, 0x04, 0x9003, 0x04, 4, 8, 0, "PROOF_NO_SPARE"⟩,
  ⟨0x9003, 0x05, 0x9003, 0x05, 4, 8, 0, "ERROR_LOG_OVERWRITES"⟩,
  ⟨0x9004, 0x01, 0x9004, 0x01, 4, 8, 0, "POWER_ON_SECONDS"⟩,
  ⟨0x9004, 0x02, 0x9004, 0x02, 3, 4, 0, "POWER_CYCLES"⟩,
  ⟨0x9004, 0x03, 0x9004, 0x03, 6, 8, 0, "LAST_COMMIT"⟩,
  ⟨0x9004, 0x04, 0x9004, 0x04, 3, 4, 0, "CALENDAR_NEXT"⟩]

/-- Entries, part 5. -/
def entries5 : List Entry := [
  ⟨0x9004, 0x05, 0x9004, 0x05, 3, 4, 0, "CALENDAR_WRAPS"⟩,
  ⟨0x9005, 0x01, 0x9005, 0x01, 9, 4096, 0, "WEAR"⟩,
  ⟨0x9800, 0x01, 0x9800, 0x01, 4, 8, 2, "SNAP_LOCAL_BASE"⟩,
  ⟨0x9800, 0x02, 0x9800, 0x02, 4, 8, 2, "SNAP_STRIPE_BASE"⟩,
  ⟨0x9800, 0x03, 0x9800, 0x03, 4, 8, 2, "SNAP_STRIPE_SIZE"⟩,
  ⟨0x9800, 0x04, 0x9800, 0x04, 9, 16, 2, "SNAP_GROUP_MEMBERS"⟩,
  ⟨0x9800, 0x05, 0x9800, 0x05, 1, 1, 2, "SNAP_HB_GROUP"⟩,
  ⟨0x9800, 0x06, 0x9800, 0x06, 6, 8, 1, "SNAP_TIMEOUT"⟩,
  ⟨0x9800, 0x07, 0x9800, 0x07, 9, 16, 2, "SETUP_KEY"⟩,
  ⟨0x9800, 0x08, 0x9800, 0x08, 8, 1, 3, "SETUP_SAVE"⟩,
  ⟨0x9800, 0x09, 0x9800, 0x09, 7, 1, 0, "SETUP_RESULT"⟩,
  ⟨0x9800, 0x0A, 0x9800, 0x0A, 9, 16, 0, "SETUP_ACTIVE_DIGEST"⟩,
  ⟨0x9800, 0x0B, 0x9800, 0x0B, 2, 2, 3, "EPOCH_ADVANCE"⟩,
  ⟨0x9800, 0x0C, 0x9800, 0x0C, 2, 2, 0, "LAST_EPOCH"⟩,
  ⟨0x9801, 0x01, 0x9801, 0x02, 9, 16, 0, "SETUP_SLOT_DIGEST"⟩,
  ⟨0x9802, 0x01, 0x9802, 0x01, 4, 8, 0, "SNAP_COMMITS"⟩,
  ⟨0x9802, 0x02, 0x9802, 0x02, 4, 8, 0, "SNAP_FAILURES"⟩,
  ⟨0x9802, 0x03, 0x9802, 0x03, 4, 8, 0, "RESTORES_LOCAL"⟩,
  ⟨0x9802, 0x04, 0x9802, 0x04, 4, 8, 0, "RESTORES_REMOTE"⟩,
  ⟨0x9802, 0x05, 0x9802, 0x05, 4, 8, 0, "RESTORE_LINES_REBUILT"⟩,
  ⟨0x9802, 0x06, 0x9802, 0x06, 4, 8, 0, "RESTORE_LINES_LOST"⟩,
  ⟨0x9802, 0x07, 0x9802, 0x07, 4, 8, 0, "SETUP_REUSES"⟩,
  ⟨0x9802, 0x08, 0x9802, 0x08, 4, 8, 0, "EPOCH_ADVANCES"⟩,
  ⟨0xA000, 0x01, 0xA000, 0x01, 1, 1, 0, "HDIE_HARTS"⟩,
  ⟨0xA000, 0x02, 0xA000, 0x02, 3, 4, 0, "HDIE_WAYS_DISABLED"⟩,
  ⟨0xA000, 0x03, 0xA000, 0x03, 8, 1, 3, "HDIE_RESET"⟩,
  ⟨0xA001, 0x01, 0xA001, 0x01, 4, 8, 1, "BOOT_IMAGE_ADDR"⟩,
  ⟨0xA001, 0x02, 0xA001, 0x02, 8, 1, 3, "BOOT_START"⟩,
  ⟨0xA001, 0x03, 0xA001, 0x03, 7, 1, 0, "BOOT_STATE"⟩,
  ⟨0xA001, 0x04, 0xA001, 0x04, 7, 1, 0, "BOOT_STATUS"⟩,
  ⟨0xA001, 0x05, 0xA001, 0x05, 10, 48, 0, "BOOT_DIGEST"⟩,
  ⟨0xA001, 0x06, 0xA001, 0x06, 3, 4, 4, "BOOT_MIN_VERSION"⟩,
  ⟨0xA002, 0x01, 0xA002, 0x01, 7, 1, 0, "OWNER_STATE"⟩,
  ⟨0xA002, 0x02, 0xA002, 0x02, 9, 436, 4, "OWNER_KEYS"⟩,
  ⟨0xA002, 0x03, 0xA002, 0x03, 10, 48, 0, "OWNER_KEY_DIGEST"⟩,
  ⟨0xA002, 0x04, 0xA002, 0x04, 10, 48, 0, "POLBEX_KEY_DIGEST"⟩,
  ⟨0xA002, 0x05, 0xA002, 0x05, 9, 436, 0, "IDENTITY_PUBLIC_KEYS"⟩,
  ⟨0xA002, 0x06, 0xA002, 0x06, 9, 16672, 0, "IDENTITY_ENDORSEMENT"⟩,
  ⟨0xA003, 0x01, 0xA003, 0x01, 4, 8, 1, "TABLE_SET_ADDR"⟩,
  ⟨0xA003, 0x02, 0xA003, 0x02, 8, 1, 3, "TABLE_SET_LOAD"⟩]

/-- Entries, part 6. -/
def entries6 : List Entry := [
  ⟨0xA003, 0x03, 0xA003, 0x03, 7, 1, 0, "TABLE_SET_STATUS"⟩,
  ⟨0xA003, 0x04, 0xA003, 0x04, 10, 48, 0, "TABLE_SET_DIGEST"⟩,
  ⟨0xA004, 0x01, 0xA004, 0x01, 9, 32, 3, "ATTEST_NONCE"⟩,
  ⟨0xA004, 0x02, 0xA004, 0x02, 9, 16976, 0, "ATTEST_REPORT"⟩,
  ⟨0xA004, 0x03, 0xA004, 0x03, 2, 2, 3, "COLOPHON_SIGN"⟩,
  ⟨0xA004, 0x04, 0xA004, 0x04, 9, 16672, 0, "COLOPHON_SIGNATURE"⟩,
  ⟨0xA004, 0x05, 0xA004, 0x05, 7, 1, 0, "SIGNER_STATUS"⟩,
  ⟨0xA005, 0x01, 0xA005, 0x01, 4, 8, 0, "VERIFICATIONS"⟩,
  ⟨0xA005, 0x02, 0xA005, 0x02, 4, 8, 0, "VERIFY_FAILURES"⟩,
  ⟨0xA005, 0x03, 0xA005, 0x03, 4, 8, 0, "SIGNATURES"⟩,
  ⟨0xA005, 0x04, 0xA005, 0x04, 4, 8, 0, "RING_SKIPS"⟩,
  ⟨0xA005, 0x05, 0xA005, 0x05, 4, 8, 0, "RING_COMPLETIONS"⟩,
  ⟨0xA800, 0x01, 0xA800, 0x01, 2, 2, 0, "MONITORS"⟩,
  ⟨0xA900, 0x01, 0xAAFF, 0x01, 3, 4, 1, "SOURCE"⟩,
  ⟨0xA900, 0x02, 0xAAFF, 0x02, 6, 8, 1, "WINDOW_NS"⟩,
  ⟨0xA900, 0x03, 0xAAFF, 0x03, 9, 176, 0, "RESULT"⟩,
  ⟨0xA900, 0x04, 0xAAFF, 0x04, 8, 1, 3, "RESTART"⟩]

/-- Every entry of the dictionary, in increasing index and sub-index. -/
def entries : List Entry := entries0 ++ entries1 ++ entries2 ++ entries3 ++ entries4 ++ entries5 ++ entries6

/-- Non-zero defaults, part 0: key (index × 256 + sub) and little-endian value. -/
def defaults0 : List (Nat × Nat) := [
  (0x100001, 0x7865626c6f50),
  (0x100002, 0x6e697a6c6547),
  (0x100003, 0x617473616c694e),
  (0x100004, 0x30422d41392d5a47),
  (0x100006, 0xb0),
  (0x10000B, 1),
  (0x120001, 0xb5b0),
  (0x120002, 1),
  (0x120003, 8),
  (0x300001, 1),
  (0x300003, 0x20),
  (0x300005, 1),
  (0x400001, 0x3b9aca00),
  (0x400002, 4),
  (0x400003, 0x1000),
  (0x400004, 0x40),
  (0x400005, 0x808201010),
  (0x480001, 8),
  (0x480002, 0x10),
  (0x480003, 0x40),
  (0x500001, 0x10),
  (0x500002, 0x1000),
  (0x500003, 8),
  (0x500004, 8),
  (0x500005, 0x400),
  (0x500006, 0x2000),
  (0x580001, 2),
  (0x580002, 0x400),
  (0x580003, 0x18000),
  (0x580004, 0x100),
  (0x580005, 0x40),
  (0x600002, 0x4e94914f0000),
  (0x600005, 4),
  (0x680001, 0x40),
  (0x680002, 0x10000),
  (0x700001, 0x3030303030303030202020202020202020202020202020202020101010101010303030303030303020202020202020202020202020202020202010101010101),
  (0x700003, 0xffff),
  (0x700004, 0x249f0),
  (0x700005, 0x30d40),
  (0x700006, 0x9c40)]

/-- Non-zero defaults, part 1: key (index × 256 + sub) and little-endian value. -/
def defaults1 : List (Nat × Nat) := [
  (0x700007, 0x4e20),
  (0x700008, 0x10),
  (0x700009, 0x40000),
  (0x70000A, 0x400000),
  (0x780001, 0x1e8480),
  (0x780002, 1),
  (0x780003, 0x100),
  (0x780004, 0xfc00000000),
  (0x780005, 0x400000000),
  (0x800001, 1),
  (0x800005, 0xfb00000000),
  (0x800006, 0x100000000),
  (0x800007, 0x989680),
  (0x880001, 0x1964),
  (0x880002, 3),
  (0x880004, 5),
  (0x880005, 0x50505050505050505050505050505050505050505050505050505050505050505050505050505050505050505050505050505050505050505050505050505050505050505050505050505050505050505050505050505050505050505050505050505050505050505050505050505050505050505050505050505050505050505050505050505050505050505050505050505050505050505050505050505050505050505050505050505050505050505050505050505050505050505050505050505050505050505050505050505050505050505050505050505050505050505050505050505050505050505050505050505050505050505050505050505050505050505050505050505050505050505050505050505050505050505050505050505050505050505050505050505050505050505050505050505050505050505050505050505050505050505050505),
  (0x880006, 0x177015e0145012c011300fa00e100c800af0096007d0064004b00320019000a),
  (0x880007, 0x4e20),
  (0x880008, 0x5f),
  (0x88000A, 0xc350),
  (0x880304, 0x64),
  (0x900001, 0x400),
  (0x900002, 4),
  (0x900003, 0x10),
  (0x980004, 0xffffffffffffffffffffffffffffffff),
  (0x980006, 0x3b9aca00),
  (0x98000C, 0xffff),
  (0xA00001, 0x40),
  (0xA00205, 2 ^ 3080 + 2 ^ 3096),
  (0xA80001, 0x200),
  (0xA90002, 0xf4240)]

/-- Every non-zero default. -/
def defaults : List (Nat × Nat) := defaults0 ++ defaults1

/-- The value of the first pair with the key, 0 for none. -/
def lookup : List (Nat × Nat) → Nat → Nat
  | [], _ => 0
  | (a, v) :: t, k => if a = k then v else lookup t k

/-- The default of dictionary entry `k` (index × 256 + sub), as a little-endian number. DESIGN CHOICE (log entry 13). -/
def dictDflt (k : Nat) : Nat := lookup defaults k

/-- VENDOR_NAME (0x1000.01). -/
abbrev kVendorName : Nat := 0x100001
/-- PRODUCT_NAME (0x1000.02). -/
abbrev kProductName : Nat := 0x100002
/-- ARCHITECTURE (0x1000.03). -/
abbrev kArchitecture : Nat := 0x100003
/-- PART_NUMBER (0x1000.04). -/
abbrev kPartNumber : Nat := 0x100004
/-- GRADE (0x1000.05). -/
abbrev kGrade : Nat := 0x100005
/-- STEPPING (0x1000.06). -/
abbrev kStepping : Nat := 0x100006
/-- SERIAL (0x1000.07). -/
abbrev kSerial : Nat := 0x100007
/-- MAC_ADDRESS (0x1000.08). -/
abbrev kMacAddress : Nat := 0x100008
/-- MANUFACTURE_DAY (0x1000.09). -/
abbrev kManufactureDay : Nat := 0x100009
/-- IDENTITY_KEY_DIGEST (0x1000.0A). -/
abbrev kIdentityKeyDigest : Nat := 0x10000A
/-- FOVIS_VERSION (0x1000.0B). -/
abbrev kFovisVersion : Nat := 0x10000B
/-- ASSET_TAG (0x1000.0C). -/
abbrev kAssetTag : Nat := 0x10000C
/-- JOB_PHASE (0x1100.01). -/
abbrev kJobPhase : Nat := 0x110001
/-- PHASE_SINCE (0x1100.02). -/
abbrev kPhaseSince : Nat := 0x110002
/-- FOVIS_UDP_PORT (0x1200.01). -/
abbrev kFovisUdpPort : Nat := 0x120001
/-- PLCA_NODE_ID (0x1200.02). -/
abbrev kPlcaNodeId : Nat := 0x120002
/-- PLCA_NODE_COUNT (0x1200.03). -/
abbrev kPlcaNodeCount : Nat := 0x120003
/-- BUNDLE_SEQ (0x1200.04). -/
abbrev kBundleSeq : Nat := 0x120004
/-- PDUS_RECEIVED (0x1201.01). -/
abbrev kPdusReceived : Nat := 0x120101
/-- PDUS_DISCARDED (0x1201.02). -/
abbrev kPdusDiscarded : Nat := 0x120102
/-- REPLAYED_REPLIES (0x1201.03). -/
abbrev kReplayedReplies : Nat := 0x120103
/-- BUNDLES_APPLIED (0x1201.04). -/
abbrev kBundlesApplied : Nat := 0x120104
/-- BUNDLES_REFUSED (0x1201.05). -/
abbrev kBundlesRefused : Nat := 0x120105
/-- CHASSIS_NUMBER (0x2000.01). -/
abbrev kChassisNumber : Nat := 0x200001
/-- BOARD_NUMBER (0x2000.02). -/
abbrev kBoardNumber : Nat := 0x200002
/-- PACKAGE_POSITION (0x2000.03). -/
abbrev kPackagePosition : Nat := 0x200003
/-- PACKAGE_COORD (0x2000.04). -/
abbrev kPackageCoord : Nat := 0x200004
/-- ENABLED_CORES (0x2001.00). -/
abbrev kEnabledCores : Nat := 0x200100
/-- DIE_ENABLED_CORES (0x2001.01), first of the range. -/
abbrev kDieEnabledCores : Nat := 0x200101
/-- DIE_SPARES_LEFT (0x2002.01), first of the range. -/
abbrev kDieSparesLeft : Nat := 0x200201
/-- SOLVER_ENGINES (0x2003.00). -/
abbrev kSolverEngines : Nat := 0x200300
/-- CORE_MAP (0x2010.01), first of the range. -/
abbrev kCoreMap : Nat := 0x201001
/-- DEFAULT_ROUNDING (0x3000.01). -/
abbrev kDefaultRounding : Nat := 0x300001
/-- SUBNORMALS (0x3000.02). -/
abbrev kSubnormals : Nat := 0x300002
/-- MX_BLOCK_DEFAULT (0x3000.03). -/
abbrev kMxBlockDefault : Nat := 0x300003
/-- MATRIX_MODE (0x3000.04). -/
abbrev kMatrixMode : Nat := 0x300004
/-- NUMERIC_STEPPING_CLASS (0x3000.05). -/
abbrev kNumericSteppingClass : Nat := 0x300005
/-- TABLE_SET_REVISION (0x3000.06). -/
abbrev kTableSetRevision : Nat := 0x300006
/-- TOKEN_STALL_LIMIT (0x4000.01). -/
abbrev kTokenStallLimit : Nat := 0x400001
/-- LAUNCH_QUEUE_DEPTH (0x4000.02). -/
abbrev kLaunchQueueDepth : Nat := 0x400002
/-- IMPOSITION_GROUPS (0x4000.03). -/
abbrev kImpositionGroups : Nat := 0x400003
/-- FORME_LOG_DEPTH (0x4000.04). -/
abbrev kFormeLogDepth : Nat := 0x400004
/-- QUEUE_DEPTHS (0x4000.05). -/
abbrev kQueueDepths : Nat := 0x400005
/-- LAUNCHES_ADMITTED (0x4001.01). -/
abbrev kLaunchesAdmitted : Nat := 0x400101
/-- STALL_RELEASES (0x4001.02). -/
abbrev kStallReleases : Nat := 0x400102
/-- LOG_DROPPED_TOTAL (0x4001.03). -/
abbrev kLogDroppedTotal : Nat := 0x400103
/-- GALLEY_SLOTS (0x4800.01). -/
abbrev kGalleySlots : Nat := 0x480001
/-- ME_FILL_BEATS (0x4800.02). -/
abbrev kMeFillBeats : Nat := 0x480002
/-- ME_C_PORT_BYTES (0x4800.03). -/
abbrev kMeCPortBytes : Nat := 0x480003
/-- ME_COMMANDS (0x4801.01). -/
abbrev kMeCommands : Nat := 0x480101
/-- GALLEY_DISCARDS (0x4801.02). -/
abbrev kGalleyDiscards : Nat := 0x480102
/-- GALLEY_STALL_RELEASES (0x4801.03). -/
abbrev kGalleyStallReleases : Nat := 0x480103
/-- GALLEY_PHANTOM_SLOTS (0x4801.04). -/
abbrev kGalleyPhantomSlots : Nat := 0x480104
/-- GATHER_BINDINGS (0x4801.05). -/
abbrev kGatherBindings : Nat := 0x480105
/-- GATHER_UNBOUND (0x4801.06). -/
abbrev kGatherUnbound : Nat := 0x480106
/-- VE_LANES_FP64 (0x5000.01). -/
abbrev kVeLanesFp64 : Nat := 0x500001
/-- VE_REGISTER_BITS (0x5000.02). -/
abbrev kVeRegisterBits : Nat := 0x500002
/-- VE_STARTUP_BEATS (0x5000.03). -/
abbrev kVeStartupBeats : Nat := 0x500003
/-- VE_LUT_SEGMENTS (0x5000.04). -/
abbrev kVeLutSegments : Nat := 0x500004
/-- VE_LUT_SEGMENT_ENTRIES (0x5000.05). -/
abbrev kVeLutSegmentEntries : Nat := 0x500005
/-- VE_LUT_ENTRIES (0x5000.06). -/
abbrev kVeLutEntries : Nat := 0x500006
/-- VE_COMMANDS (0x5001.01). -/
abbrev kVeCommands : Nat := 0x500101
/-- VE_EMPTY_ROWS (0x5001.02). -/
abbrev kVeEmptyRows : Nat := 0x500102
/-- VE_LUT_LOADS (0x5001.03). -/
abbrev kVeLutLoads : Nat := 0x500103
/-- VE_GALLEY_SLOTS_READ (0x5001.04). -/
abbrev kVeGalleySlotsRead : Nat := 0x500104
/-- SE_HEADROOM_BITS (0x5800.01). -/
abbrev kSeHeadroomBits : Nat := 0x580001
/-- SE_ARRAY_CELLS (0x5800.02). -/
abbrev kSeArrayCells : Nat := 0x580002
/-- SE_WORK_ELEMENTS (0x5800.03). -/
abbrev kSeWorkElements : Nat := 0x580003
/-- SE_DENSE_N_MAX (0x5800.04). -/
abbrev kSeDenseNMax : Nat := 0x580004
/-- SE_RESTART_MAX (0x5800.05). -/
abbrev kSeRestartMax : Nat := 0x580005
/-- SE_COMMANDS (0x5801.01). -/
abbrev kSeCommands : Nat := 0x580101
/-- SE_DEADLINE_REUSES (0x5801.02). -/
abbrev kSeDeadlineReuses : Nat := 0x580102
/-- SE_PIVOTS_REGULARISED (0x5801.03). -/
abbrev kSePivotsRegularised : Nat := 0x580103
/-- SE_SATURATIONS (0x5801.04). -/
abbrev kSeSaturations : Nat := 0x580104
/-- SE_ITER_LIMITS (0x5801.05). -/
abbrev kSeIterLimits : Nat := 0x580105
/-- SE_BREAKDOWNS (0x5801.06). -/
abbrev kSeBreakdowns : Nat := 0x580106
/-- DIE_LOCAL_SLICES (0x6000.01). -/
abbrev kDieLocalSlices : Nat := 0x600001
/-- SCRUB_INTERVAL (0x6000.02). -/
abbrev kScrubInterval : Nat := 0x600002
/-- STACK_RETRAIN (0x6000.03). -/
abbrev kStackRetrain : Nat := 0x600003
/-- STACK_CLEAR (0x6000.04). -/
abbrev kStackClear : Nat := 0x600004
/-- PARITY_RETRY_LIMIT (0x6000.05). -/
abbrev kParityRetryLimit : Nat := 0x600005
/-- LANE_REPAIRS (0x6001.01), first of the range. -/
abbrev kLaneRepairs : Nat := 0x600101
/-- SUSPECT_GROUPS (0x6002.01), first of the range. -/
abbrev kSuspectGroups : Nat := 0x600201
/-- OFFLINE_CHANNELS (0x6003.01), first of the range. -/
abbrev kOfflineChannels : Nat := 0x600301
/-- STACK_STATE (0x6004.01), first of the range. -/
abbrev kStackState : Nat := 0x600401
/-- ECC_CORRECTED (0x6005.01). -/
abbrev kEccCorrected : Nat := 0x600501
/-- ECC_UNCORRECTED (0x6005.02). -/
abbrev kEccUncorrected : Nat := 0x600502
/-- PARITY_RETRIES (0x6005.03). -/
abbrev kParityRetries : Nat := 0x600503
/-- PARITY_EXHAUSTED (0x6005.04). -/
abbrev kParityExhausted : Nat := 0x600504
/-- TILE_CHECKSUM_FAILURES (0x6005.05). -/
abbrev kTileChecksumFailures : Nat := 0x600505
/-- NMU_OPERATIONS (0x6005.06). -/
abbrev kNmuOperations : Nat := 0x600506
/-- NMU_ATOMICS (0x6005.07). -/
abbrev kNmuAtomics : Nat := 0x600507
/-- COW_HELD_WRITES (0x6005.08). -/
abbrev kCowHeldWrites : Nat := 0x600508
/-- DE_OUTSTANDING_LINES (0x6800.01). -/
abbrev kDeOutstandingLines : Nat := 0x680001
/-- DE_CHAIN_LIMIT (0x6800.02). -/
abbrev kDeChainLimit : Nat := 0x680002
/-- DE_DESCRIPTORS (0x6801.01). -/
abbrev kDeDescriptors : Nat := 0x680101
/-- DE_BYTES (0x6801.02). -/
abbrev kDeBytes : Nat := 0x680102
/-- DE_BOUNDS (0x6801.03). -/
abbrev kDeBounds : Nat := 0x680103
/-- DE_PARTIAL (0x6801.04). -/
abbrev kDePartial : Nat := 0x680104
/-- DE_FAILED_LINES (0x6801.05). -/
abbrev kDeFailedLines : Nat := 0x680105
/-- DE_CHAIN_SKIPS (0x6801.06). -/
abbrev kDeChainSkips : Nat := 0x680106
/-- DE_TAGGED_LEAVES (0x6801.07). -/
abbrev kDeTaggedLeaves : Nat := 0x680107
/-- PORT_LEVELS (0x7000.01). -/
abbrev kPortLevels : Nat := 0x700001
/-- JOB_EPOCH (0x7000.02). -/
abbrev kJobEpoch : Nat := 0x700002
/-- OWN_LOGICAL_ID (0x7000.03). -/
abbrev kOwnLogicalId : Nat := 0x700003
/-- REQUEST_LIFETIME (0x7000.04). -/
abbrev kRequestLifetime : Nat := 0x700004
/-- REPLY_TIMEOUT (0x7000.05). -/
abbrev kReplyTimeout : Nat := 0x700005
/-- E2E_RETRY_INTERVAL (0x7000.06). -/
abbrev kE2eRetryInterval : Nat := 0x700006
/-- SYS_RETRY_INTERVAL (0x7000.07). -/
abbrev kSysRetryInterval : Nat := 0x700007
/-- HOT_THRESHOLD (0x7000.08). -/
abbrev kHotThreshold : Nat := 0x700008
/-- REPLAY_ENTRIES (0x7000.09). -/
abbrev kReplayEntries : Nat := 0x700009
/-- DIRECTORY_ENTRIES (0x7000.0A). -/
abbrev kDirectoryEntries : Nat := 0x70000A
/-- PORT_RETRAIN (0x7000.0B). -/
abbrev kPortRetrain : Nat := 0x70000B
/-- PORT_STATE (0x7001.01), first of the range. -/
abbrev kPortState : Nat := 0x700101
/-- LINK_RETRIES (0x7002.01). -/
abbrev kLinkRetries : Nat := 0x700201
/-- FEC_CORRECTED (0x7002.02). -/
abbrev kFecCorrected : Nat := 0x700202
/-- FEC_UNCORRECTED (0x7002.03). -/
abbrev kFecUncorrected : Nat := 0x700203
/-- PORTS_LOST (0x7002.04). -/
abbrev kPortsLost : Nat := 0x700204
/-- FLITS_MALFORMED (0x7002.05). -/
abbrev kFlitsMalformed : Nat := 0x700205
/-- EPOCH_DROPS (0x7002.06). -/
abbrev kEpochDrops : Nat := 0x700206
/-- LIFETIME_DROPS (0x7002.07). -/
abbrev kLifetimeDrops : Nat := 0x700207
/-- E2E_RETRIES (0x7002.08). -/
abbrev kE2eRetries : Nat := 0x700208
/-- LATE_REPLIES (0x7002.09). -/
abbrev kLateReplies : Nat := 0x700209
/-- REPLAY_HITS (0x7002.0A). -/
abbrev kReplayHits : Nat := 0x70020A
/-- ATOMICS_UNKNOWN (0x7002.0B). -/
abbrev kAtomicsUnknown : Nat := 0x70020B
/-- HOT_LINES (0x7002.0C). -/
abbrev kHotLines : Nat := 0x70020C
/-- WRITES_COMBINED (0x7002.0D). -/
abbrev kWritesCombined : Nat := 0x70020D
/-- DIRECTORY_RECALLS (0x7002.0E). -/
abbrev kDirectoryRecalls : Nat := 0x70020E
/-- SYS_DUPLICATES (0x7002.0F). -/
abbrev kSysDuplicates : Nat := 0x70020F
/-- EPOCH_STALE_SKIPS (0x7002.10). -/
abbrev kEpochStaleSkips : Nat := 0x700210
/-- STALL_NS_BOARD (0x7003.01). -/
abbrev kStallNsBoard : Nat := 0x700301
/-- STALL_NS_CHASSIS (0x7003.02). -/
abbrev kStallNsChassis : Nat := 0x700302
/-- STALL_NS_GATEWAY (0x7003.03). -/
abbrev kStallNsGateway : Nat := 0x700303
/-- COLL_TIMEOUT_DEFAULT (0x7800.01). -/
abbrev kCollTimeoutDefault : Nat := 0x780001
/-- LEAF_COUNT (0x7800.02). -/
abbrev kLeafCount : Nat := 0x780002
/-- COLL_GROUPS (0x7800.03). -/
abbrev kCollGroups : Nat := 0x780003
/-- STAGING_BASE (0x7800.04). -/
abbrev kStagingBase : Nat := 0x780004
/-- STAGING_SIZE (0x7800.05). -/
abbrev kStagingSize : Nat := 0x780005
/-- COLLECTIVES_COMPLETED (0x7801.01). -/
abbrev kCollectivesCompleted : Nat := 0x780101
/-- COLL_ABORTS (0x7801.02). -/
abbrev kCollAborts : Nat := 0x780102
/-- COLL_TIMEOUTS (0x7801.03). -/
abbrev kCollTimeouts : Nat := 0x780103
/-- HAREBELL_OPS (0x7801.04). -/
abbrev kHarebellOps : Nat := 0x780104
/-- STAGING_WAIT_NS (0x7801.05). -/
abbrev kStagingWaitNs : Nat := 0x780105
/-- COLL_MISMATCHES (0x7801.06). -/
abbrev kCollMismatches : Nat := 0x780106
/-- DETERMINISM_SCOPE (0x8000.01). -/
abbrev kDeterminismScope : Nat := 0x800001
/-- DETERMINISM_LOCK (0x8000.02). -/
abbrev kDeterminismLock : Nat := 0x800002
/-- SETTINGS_IMAGE (0x8000.03). -/
abbrev kSettingsImage : Nat := 0x800003
/-- SETTINGS_FINGERPRINT (0x8000.04). -/
abbrev kSettingsFingerprint : Nat := 0x800004
/-- LEAF_TABLE_BASE (0x8000.05). -/
abbrev kLeafTableBase : Nat := 0x800005
/-- LEAF_TABLE_SIZE (0x8000.06). -/
abbrev kLeafTableSize : Nat := 0x800006
/-- CLOSE_TIMEOUT (0x8000.07). -/
abbrev kCloseTimeout : Nat := 0x800007
/-- INVOCATIONS_CLOSED (0x8001.01). -/
abbrev kInvocationsClosed : Nat := 0x800101
/-- CLOSES_INCOMPLETE (0x8001.02). -/
abbrev kClosesIncomplete : Nat := 0x800102
/-- LEAVES_ENTERED (0x8001.03). -/
abbrev kLeavesEntered : Nat := 0x800103
/-- LEAVES_SENT (0x8001.04). -/
abbrev kLeavesSent : Nat := 0x800104
/-- LEAF_CONFLICTS (0x8001.05). -/
abbrev kLeafConflicts : Nat := 0x800105
/-- LEAVES_LOST (0x8001.06). -/
abbrev kLeavesLost : Nat := 0x800106
/-- UNCOVERED_LAUNCHES (0x8001.07). -/
abbrev kUncoveredLaunches : Nat := 0x800107
/-- CONTEXTS_ABANDONED (0x8001.08). -/
abbrev kContextsAbandoned : Nat := 0x800108
/-- CONTEXT_RECORD (0x8002.01), first of the range. -/
abbrev kContextRecord : Nat := 0x800201
/-- POWER_CEILING (0x8800.01). -/
abbrev kPowerCeiling : Nat := 0x880001
/-- POWER_MARGIN (0x8800.02). -/
abbrev kPowerMargin : Nat := 0x880002
/-- VSTEP_MIN (0x8800.03). -/
abbrev kVstepMin : Nat := 0x880003
/-- VSTEP_MAX (0x8800.04). -/
abbrev kVstepMax : Nat := 0x880004
/-- CLUSTER_VSTEP_CAP (0x8800.05). -/
abbrev kClusterVstepCap : Nat := 0x880005
/-- ENERGY_CLASS_COST (0x8800.06). -/
abbrev kEnergyClassCost : Nat := 0x880006
/-- RETAIN_DELAY (0x8800.07). -/
abbrev kRetainDelay : Nat := 0x880007
/-- THERMAL_LIMIT (0x8800.08). -/
abbrev kThermalLimit : Nat := 0x880008
/-- HOST_DOMAINS_OFF (0x8800.09). -/
abbrev kHostDomainsOff : Nat := 0x880009
/-- ADMIT_SETTLE (0x8800.0A). -/
abbrev kAdmitSettle : Nat := 0x88000A
/-- PKG_POWER_10US (0x8801.01). -/
abbrev kPkgPower10us : Nat := 0x880101
/-- PKG_POWER_1MS (0x8801.02). -/
abbrev kPkgPower1ms : Nat := 0x880102
/-- DOMAIN_STATE (0x8801.03). -/
abbrev kDomainState : Nat := 0x880103
/-- DOMAIN_POWER (0x8801.04). -/
abbrev kDomainPower : Nat := 0x880104
/-- DOMAIN_TEMPERATURE (0x8801.05). -/
abbrev kDomainTemperature : Nat := 0x880105
/-- ADMISSION_WAIT_NS (0x8802.01). -/
abbrev kAdmissionWaitNs : Nat := 0x880201
/-- HOLD_NS (0x8802.02). -/
abbrev kHoldNs : Nat := 0x880202
/-- THERMAL_EMERGENCIES (0x8802.03). -/
abbrev kThermalEmergencies : Nat := 0x880203
/-- VSTEP_CHANGES (0x8802.04). -/
abbrev kVstepChanges : Nat := 0x880204
/-- DOMAIN_WAKES (0x8802.05). -/
abbrev kDomainWakes : Nat := 0x880205
/-- TIME_NOW (0x8803.01). -/
abbrev kTimeNow : Nat := 0x880301
/-- TIME_STATE (0x8803.02). -/
abbrev kTimeState : Nat := 0x880302
/-- TIME_OFFSET_NS (0x8803.03). -/
abbrev kTimeOffsetNs : Nat := 0x880303
/-- TIME_SLEW_MAX (0x8803.04). -/
abbrev kTimeSlewMax : Nat := 0x880304
/-- ERROR_LOG_DEPTH (0x9000.01). -/
abbrev kErrorLogDepth : Nat := 0x900001
/-- CORE_STORE_SPARE_ROWS (0x9000.02). -/
abbrev kCoreStoreSpareRows : Nat := 0x900002
/-- STACK_SPARE_ROWS (0x9000.03). -/
abbrev kStackSpareRows : Nat := 0x900003
/-- SHUTDOWN (0x9000.04). -/
abbrev kShutdown : Nat := 0x900004
/-- LIFETIME_STATE (0x9000.05). -/
abbrev kLifetimeState : Nat := 0x900005
/-- ERRORS (0x9001.01), first of the range. -/
abbrev kErrors : Nat := 0x900101
/-- ERRORS_LIFETIME (0x9002.01), first of the range. -/
abbrev kErrorsLifetime : Nat := 0x900201
/-- PROOF_PASSES (0x9003.01). -/
abbrev kProofPasses : Nat := 0x900301
/-- PROOF_TRANSIENT (0x9003.02). -/
abbrev kProofTransient : Nat := 0x900302
/-- PROOF_SPARED (0x9003.03). -/
abbrev kProofSpared : Nat := 0x900303
/-- PROOF_NO_SPARE (0x9003.04). -/
abbrev kProofNoSpare : Nat := 0x900304
/-- ERROR_LOG_OVERWRITES (0x9003.05). -/
abbrev kErrorLogOverwrites : Nat := 0x900305
/-- POWER_ON_SECONDS (0x9004.01). -/
abbrev kPowerOnSeconds : Nat := 0x900401
/-- POWER_CYCLES (0x9004.02). -/
abbrev kPowerCycles : Nat := 0x900402
/-- LAST_COMMIT (0x9004.03). -/
abbrev kLastCommit : Nat := 0x900403
/-- CALENDAR_NEXT (0x9004.04). -/
abbrev kCalendarNext : Nat := 0x900404
/-- CALENDAR_WRAPS (0x9004.05). -/
abbrev kCalendarWraps : Nat := 0x900405
/-- WEAR (0x9005.01). -/
abbrev kWear : Nat := 0x900501
/-- SNAP_LOCAL_BASE (0x9800.01). -/
abbrev kSnapLocalBase : Nat := 0x980001
/-- SNAP_STRIPE_BASE (0x9800.02). -/
abbrev kSnapStripeBase : Nat := 0x980002
/-- SNAP_STRIPE_SIZE (0x9800.03). -/
abbrev kSnapStripeSize : Nat := 0x980003
/-- SNAP_GROUP_MEMBERS (0x9800.04). -/
abbrev kSnapGroupMembers : Nat := 0x980004
/-- SNAP_HB_GROUP (0x9800.05). -/
abbrev kSnapHbGroup : Nat := 0x980005
/-- SNAP_TIMEOUT (0x9800.06). -/
abbrev kSnapTimeout : Nat := 0x980006
/-- SETUP_KEY (0x9800.07). -/
abbrev kSetupKey : Nat := 0x980007
/-- SETUP_SAVE (0x9800.08). -/
abbrev kSetupSave : Nat := 0x980008
/-- SETUP_RESULT (0x9800.09). -/
abbrev kSetupResult : Nat := 0x980009
/-- SETUP_ACTIVE_DIGEST (0x9800.0A). -/
abbrev kSetupActiveDigest : Nat := 0x98000A
/-- EPOCH_ADVANCE (0x9800.0B). -/
abbrev kEpochAdvance : Nat := 0x98000B
/-- LAST_EPOCH (0x9800.0C). -/
abbrev kLastEpoch : Nat := 0x98000C
/-- SETUP_SLOT_DIGEST (0x9801.01), first of the range. -/
abbrev kSetupSlotDigest : Nat := 0x980101
/-- SNAP_COMMITS (0x9802.01). -/
abbrev kSnapCommits : Nat := 0x980201
/-- SNAP_FAILURES (0x9802.02). -/
abbrev kSnapFailures : Nat := 0x980202
/-- RESTORES_LOCAL (0x9802.03). -/
abbrev kRestoresLocal : Nat := 0x980203
/-- RESTORES_REMOTE (0x9802.04). -/
abbrev kRestoresRemote : Nat := 0x980204
/-- RESTORE_LINES_REBUILT (0x9802.05). -/
abbrev kRestoreLinesRebuilt : Nat := 0x980205
/-- RESTORE_LINES_LOST (0x9802.06). -/
abbrev kRestoreLinesLost : Nat := 0x980206
/-- SETUP_REUSES (0x9802.07). -/
abbrev kSetupReuses : Nat := 0x980207
/-- EPOCH_ADVANCES (0x9802.08). -/
abbrev kEpochAdvances : Nat := 0x980208
/-- HDIE_HARTS (0xA000.01). -/
abbrev kHdieHarts : Nat := 0xA00001
/-- HDIE_WAYS_DISABLED (0xA000.02). -/
abbrev kHdieWaysDisabled : Nat := 0xA00002
/-- HDIE_RESET (0xA000.03). -/
abbrev kHdieReset : Nat := 0xA00003
/-- BOOT_IMAGE_ADDR (0xA001.01). -/
abbrev kBootImageAddr : Nat := 0xA00101
/-- BOOT_START (0xA001.02). -/
abbrev kBootStart : Nat := 0xA00102
/-- BOOT_STATE (0xA001.03). -/
abbrev kBootState : Nat := 0xA00103
/-- BOOT_STATUS (0xA001.04). -/
abbrev kBootStatus : Nat := 0xA00104
/-- BOOT_DIGEST (0xA001.05). -/
abbrev kBootDigest : Nat := 0xA00105
/-- BOOT_MIN_VERSION (0xA001.06). -/
abbrev kBootMinVersion : Nat := 0xA00106
/-- OWNER_STATE (0xA002.01). -/
abbrev kOwnerState : Nat := 0xA00201
/-- OWNER_KEYS (0xA002.02). -/
abbrev kOwnerKeys : Nat := 0xA00202
/-- OWNER_KEY_DIGEST (0xA002.03). -/
abbrev kOwnerKeyDigest : Nat := 0xA00203
/-- POLBEX_KEY_DIGEST (0xA002.04). -/
abbrev kPolbexKeyDigest : Nat := 0xA00204
/-- IDENTITY_PUBLIC_KEYS (0xA002.05). -/
abbrev kIdentityPublicKeys : Nat := 0xA00205
/-- IDENTITY_ENDORSEMENT (0xA002.06). -/
abbrev kIdentityEndorsement : Nat := 0xA00206
/-- TABLE_SET_ADDR (0xA003.01). -/
abbrev kTableSetAddr : Nat := 0xA00301
/-- TABLE_SET_LOAD (0xA003.02). -/
abbrev kTableSetLoad : Nat := 0xA00302
/-- TABLE_SET_STATUS (0xA003.03). -/
abbrev kTableSetStatus : Nat := 0xA00303
/-- TABLE_SET_DIGEST (0xA003.04). -/
abbrev kTableSetDigest : Nat := 0xA00304
/-- ATTEST_NONCE (0xA004.01). -/
abbrev kAttestNonce : Nat := 0xA00401
/-- ATTEST_REPORT (0xA004.02). -/
abbrev kAttestReport : Nat := 0xA00402
/-- COLOPHON_SIGN (0xA004.03). -/
abbrev kColophonSign : Nat := 0xA00403
/-- COLOPHON_SIGNATURE (0xA004.04). -/
abbrev kColophonSignature : Nat := 0xA00404
/-- SIGNER_STATUS (0xA004.05). -/
abbrev kSignerStatus : Nat := 0xA00405
/-- VERIFICATIONS (0xA005.01). -/
abbrev kVerifications : Nat := 0xA00501
/-- VERIFY_FAILURES (0xA005.02). -/
abbrev kVerifyFailures : Nat := 0xA00502
/-- SIGNATURES (0xA005.03). -/
abbrev kSignatures : Nat := 0xA00503
/-- RING_SKIPS (0xA005.04). -/
abbrev kRingSkips : Nat := 0xA00504
/-- RING_COMPLETIONS (0xA005.05). -/
abbrev kRingCompletions : Nat := 0xA00505
/-- MONITORS (0xA800.01). -/
abbrev kMonitors : Nat := 0xA80001
/-- SOURCE (0xA900.01), first of the range. -/
abbrev kSource : Nat := 0xA90001
/-- WINDOW_NS (0xA900.02), first of the range. -/
abbrev kWindowNs : Nat := 0xA90002
/-- RESULT (0xA900.03), first of the range. -/
abbrev kResult : Nat := 0xA90003
/-- RESTART (0xA900.04), first of the range. -/
abbrev kRestart : Nat := 0xA90004

/-- A free byte of the outside world: byte `i` of the stream named `k` (signatures of the H-die, SPDM payloads). DESIGN CHOICE (log entry 16). -/
opaque freeByte : Nat → Nat → Byte
/-- What vector register `i` of physical core `k` holds after command `n` of its VE (R202). DESIGN CHOICE (log entry 125). -/
opaque freeVreg : Nat → Nat → Nat → BitVec 4096
/-- The order in which a fastest-tree reduction combines its members (R392), by an ordinal of the reduction: any permutation index. DESIGN CHOICE (log entry 17). -/
opaque fastestPick : Nat → Nat → Nat

/-- What mcycle of a hart reads: the beats of its own core, which no rule relates to TIME (R532). PRESUMED (log entry 143). -/
opaque freeCycle : Nat → Nat

/-- Byte `i` of the signatures that the private halves of public keys make of a message, with a salt (R549, R550, R551, R560). DESIGN CHOICE (log entry 118). -/
opaque signByte (keys message salt i : Nat) : Byte

/-- Polbex's vendor identifier in the DVSEC header (R515). PRESUMED (log entry 114). -/
opaque polbexVendor : BitVec 16

/-- Its device identifier, its class code with revision, and which of the permitted widths and speeds the link trains to (R545). PRESUMED (log entry 114). -/
opaque cxlDeviceId : BitVec 16
@[inherit_doc cxlDeviceId]
opaque cxlClass : BitVec 32
@[inherit_doc cxlDeviceId]
opaque cxlTrained : BitVec 3

end Sys2Proof.Config
end

