-- ==== Sys2Proof/Machine/Fp.lean ====
section
/-! DEFINITION. Number formats, rounding and flags (02_number_formats: R52 to R84, R90). Values are exact: a finite number is a sign,
a magnitude and a power of two; every operation forms the exact result and rounds once. -/
namespace Sys2Proof.Machine
open Sys2Proof

/-- The formats of R52. -/
inductive Fmt where
  | fp64 | fp32 | bf16 | fp16 | e4m3 | e5m2 | e2m3 | e3m2 | e2m1 | int8 | int32 | fx72 | fx192
  deriving DecidableEq, Repr

/-- The format of a code; 0xD to 0xF are reserved (R52). -/
def fmtOfCode : Nat → Option Fmt
  | 0 => some .fp64 | 1 => some .fp32 | 2 => some .bf16 | 3 => some .fp16 | 4 => some .e4m3 | 5 => some .e5m2
  | 6 => some .e2m3 | 7 => some .e3m2 | 8 => some .e2m1 | 9 => some .int8 | 10 => some .int32 | 11 => some .fx72
  | 12 => some .fx192 | _ => none

/-- Width in bits (R52); FX72 counts its 128-bit container (R63). -/
def fmtWidth : Fmt → Nat
  | .fp64 => 64 | .fp32 => 32 | .bf16 => 16 | .fp16 => 16 | .e4m3 => 8 | .e5m2 => 8 | .e2m3 => 6 | .e3m2 => 6
  | .e2m1 => 4 | .int8 => 8 | .int32 => 32 | .fx72 => 128 | .fx192 => 192

/-- Exponent bits (R57). -/
def fmtE : Fmt → Nat
  | .fp64 => 11 | .fp32 => 8 | .bf16 => 8 | .fp16 => 5 | .e4m3 => 4 | .e5m2 => 5 | .e2m3 => 2 | .e3m2 => 3 | .e2m1 => 2 | _ => 0

/-- Mantissa bits (R57). -/
def fmtM : Fmt → Nat
  | .fp64 => 52 | .fp32 => 23 | .bf16 => 7 | .fp16 => 10 | .e4m3 => 3 | .e5m2 => 2 | .e2m3 => 3 | .e3m2 => 2 | .e2m1 => 1 | _ => 0

/-- Exponent bias (R57). -/
def fmtBias : Fmt → Nat
  | .fp64 => 1023 | .fp32 => 127 | .bf16 => 127 | .fp16 => 15 | .e4m3 => 7 | .e5m2 => 15 | .e2m3 => 1 | .e3m2 => 3 | .e2m1 => 1 | _ => 0

/-- Exponent of the largest binade (R57). -/
def fmtEmax : Fmt → Nat
  | .fp64 => 1023 | .fp32 => 127 | .bf16 => 127 | .fp16 => 15 | .e4m3 => 8 | .e5m2 => 15 | .e2m3 => 2 | .e3m2 => 4 | .e2m1 => 2 | _ => 0

/-- Integer formats (R62). -/
def fmtIsInt (f : Fmt) : Bool := f == .int8 || f == .int32

/-- Formats governed by SUBNORMALS (R75). -/
def fmtWide (f : Fmt) : Bool := f == .fp64 || f == .fp32 || f == .bf16 || f == .fp16

/-- Formats without infinity and NaN (R58). -/
def fmtTinyKind (f : Fmt) : Bool := f == .e2m3 || f == .e3m2 || f == .e2m1

/-- The formats that take a shared scale, by need (R52). -/
def fmtScalable (f : Fmt) : Bool := f == .e4m3 || f == .e5m2 || fmtTinyKind f

/-- The four sticky flags of R92. -/
structure Flags where
  inv : Bool := false
  ovf : Bool := false
  und : Bool := false
  inx : Bool := false
  deriving DecidableEq, Repr

/-- No flag. -/
def noFlags : Flags := {}
/-- Invalid alone. -/
def flInv : Flags := { inv := true }
/-- Overflow alone (R73, R66). -/
def flOvf : Flags := { ovf := true }
/-- Inexact alone. -/
def flInx : Flags := { inx := true }
/-- Overflow and inexact (R69, R70). -/
def flOvfInx : Flags := { ovf := true, inx := true }
/-- Underflow and inexact (R78). -/
def flUndInx : Flags := { und := true, inx := true }

/-- The union of two flag sets. -/
def orFlags (a b : Flags) : Flags := ⟨a.inv || b.inv, a.ovf || b.ovf, a.und || b.und, a.inx || b.inx⟩

/-- Flags in the bit order of R92. -/
def flagsNat (f : Flags) : Nat := b2n f.inv + 2 * b2n f.ovf + 4 * b2n f.und + 8 * b2n f.inx

/-- Flags from the bit order of R92. -/
def flagsOfNat (n : Nat) : Flags := ⟨bitOf n 0, bitOf n 1, bitOf n 2, bitOf n 3⟩

/-- An element that raises invalid raises no other flag (R89). -/
def elemFlags (f : Flags) : Flags := if f.inv then flInv else f

/-- Rounding modes after DEFAULT has been resolved (R68). -/
inductive Rm where
  | rne | rtz | rdn | rup
  deriving DecidableEq, Repr

/-- An exact value: NaN, infinity, or (−1)^neg × m × 2^e (R56). -/
inductive FVal where
  | nan (signalling : Bool)
  | inf (neg : Bool)
  | fin (neg : Bool) (m : Nat) (e : Int)
  deriving DecidableEq, Repr

/-- The value of an encoding (R56 to R58, R62). -/
def fdecode (f : Fmt) (bits : Nat) : FVal :=
  if fmtIsInt f then
    let i := toSigned (fmtWidth f) bits
    .fin (i < 0) i.natAbs 0
  else
    let mb := fmtM f
    let eb := fmtE f
    let man := bits % 2 ^ mb
    let ex := bits / 2 ^ mb % 2 ^ eb
    let neg := bits / 2 ^ (mb + eb) % 2 == 1
    let fin : FVal := if ex = 0 then .fin neg man (1 - (fmtBias f : Int) - mb)
      else .fin neg (man + 2 ^ mb) ((ex : Int) - fmtBias f - mb)
    if fmtTinyKind f then fin
    else if f == .e4m3 then (if ex = 15 && man = 7 then .nan false else fin)
    else if ex = 2 ^ eb - 1 then
      (if man = 0 then .inf neg else if f == .e5m2 then .nan false else .nan (man / 2 ^ (mb - 1) % 2 == 0))
    else fin

/-- Default quiet NaN (R58); the formats without one never ask for it. -/
def fqnan : Fmt → Nat
  | .fp64 => 0x7FF8000000000000 | .fp32 => 0x7FC00000 | .bf16 => 0x7FC0 | .fp16 => 0x7E00 | .e4m3 => 0x7F | .e5m2 => 0x7E | _ => 0

/-- An encoding that is subnormal in a format governed by SUBNORMALS. -/
def fsubnormal (f : Fmt) (bits : Nat) : Bool :=
  fmtWide f && decide (bits / 2 ^ fmtM f % 2 ^ fmtE f = 0) && decide (bits % 2 ^ fmtM f ≠ 0)

/-- Read an element under SUBNORMALS: under FLUSH a subnormal is a zero of its sign (R77). -/
def fread (flush : Bool) (f : Fmt) (bits : Nat) : FVal :=
  if flush && fsubnormal f bits then
    match fdecode f bits with
    | .fin n _ e => .fin n 0 e
    | v => v
  else fdecode f bits

/-- Sign bit set in front of a magnitude encoding. -/
def withSign (f : Fmt) (neg : Bool) (mag : Nat) : Nat := mag + b2n neg * 2 ^ (fmtE f + fmtM f)

/-- Infinity of a sign (R58). -/
def finfBits (f : Fmt) (neg : Bool) : Nat := withSign f neg ((2 ^ fmtE f - 1) * 2 ^ fmtM f)

/-- Largest finite magnitude (R57). -/
def fmaxBits (f : Fmt) (neg : Bool) : Nat :=
  withSign f neg (match f with
    | .e4m3 => 0x7E
    | .e5m2 => 0x7B
    | .e2m3 => 0x1F
    | .e3m2 => 0x1F
    | .e2m1 => 0x7
    | g => (2 ^ fmtE g - 1) * 2 ^ fmtM g - 1)

/-- Largest significand, with the hidden bit, in the largest binade. -/
def fmaxSig (f : Fmt) : Nat := if f == .e4m3 then 14 else 2 ^ (fmtM f + 1) - 1

/-- m·2^-sh rounded to an integer; `st` says that the exact magnitude lies strictly above m (R68). -/
def roundMag (rm : Rm) (neg : Bool) (m sh : Nat) (st : Bool) : Nat × Bool :=
  let q := m / 2 ^ sh
  let r := m % 2 ^ sh
  let inex := decide (r ≠ 0) || st
  let up := match rm with
    | .rne => decide (2 * r > 2 ^ sh) || (decide (2 * r = 2 ^ sh) && (st || decide (q % 2 = 1)))
    | .rtz => false
    | .rdn => neg && inex
    | .rup => !neg && inex
  (if up then q + 1 else q, inex)

/-- Shift to grid exponent `g`: the value m·2^e (with sticky) in units of 2^g, rounded. -/
def roundGrid (rm : Rm) (neg : Bool) (m : Nat) (e g : Int) (st : Bool) : Nat × Bool :=
  if g ≤ e then (m * 2 ^ (e - g).toNat, st) else roundMag rm neg m (g - e).toNat st

/-- What a result beyond the largest finite value becomes. -/
inductive Ovf where
  | ieee | sat | nonsat | satQuiet
  deriving DecidableEq, Repr

/-- The bits of an overflow and its flags (R69 to R71, R83). -/
def overflowBits (f : Fmt) (rm : Rm) (o : Ovf) (neg : Bool) : Nat × Flags :=
  match o with
  | .satQuiet => (fmaxBits f neg, flInx)
  | .sat => (fmaxBits f neg, flOvfInx)
  | _ =>
    if f == .e4m3 then (fqnan f, flOvfInx)
    else if fmtTinyKind f then (fmaxBits f neg, flOvfInx)
    else
      let toMax := match rm with
        | .rne => false
        | .rtz => true
        | .rdn => !neg
        | .rup => neg
      (if toMax then fmaxBits f neg else finfBits f neg, flOvfInx)

/-- Round an exact finite value into a floating-point format (R69, R77, R78). -/
def roundFin (f : Fmt) (rm : Rm) (flush : Bool) (o : Ovf) (neg : Bool) (m : Nat) (e : Int) (st : Bool) : Nat × Flags :=
  if m = 0 && !st then (withSign f neg 0, noFlags)
  else
    let mb := fmtM f
    let emin : Int := 1 - (fmtBias f : Int)
    let len : Int := (flog2 m : Int) + 1
    let u0 : Int := e + len - (mb + 1)
    let r := roundGrid rm neg m e u0 st
    let carry := decide (r.1 = 2 ^ (mb + 1))
    let q := if carry then 2 ^ mb else r.1
    let u := if carry then u0 + 1 else u0
    let ex := u + mb
    if ex < emin then
      let d := roundGrid rm neg m e (emin - mb) st
      if flush && fmtWide f && decide (0 < d.1) && decide (d.1 < 2 ^ mb) then (withSign f neg 0, flUndInx)
      else (withSign f neg d.1, if d.2 then flUndInx else noFlags)
    else if decide (ex > fmtEmax f) || (decide (ex = fmtEmax f) && decide (q > fmaxSig f)) then overflowBits f rm o neg
    else (withSign f neg (((ex - emin + 1).toNat) * 2 ^ mb + (q - 2 ^ mb)), if r.2 then flInx else noFlags)

/-- Clamp to an integer range: R72 at any bounds. -/
def toIntClamp (rm : Rm) (lo hi : Int) (v : FVal) : Int × Flags :=
  match v with
  | .nan _ => (0, flInv)
  | .inf n => (if n then lo else hi, flInv)
  | .fin n m e =>
    let r := roundGrid rm n m e 0 false
    let i : Int := if n then -(r.1 : Int) else r.1
    if i < lo then (lo, flInv) else if i > hi then (hi, flInv) else (i, if r.2 then flInx else noFlags)

/-- Bounds of an integer format (R62). -/
def intLo (f : Fmt) : Int := -((2 ^ (fmtWidth f - 1) : Nat) : Int)
/-- Upper bound of an integer format. -/
def intHi (f : Fmt) : Int := ((2 ^ (fmtWidth f - 1) : Nat) : Int) - 1

/-- Convert a value into an unscaled format with one rounding (R59, R60, R69 to R72). -/
def fencode (f : Fmt) (rm : Rm) (flush : Bool) (o : Ovf) (v : FVal) : Nat × Flags :=
  if fmtIsInt f then
    let r := toIntClamp rm (intLo f) (intHi f) v
    (ofSigned (fmtWidth f) r.1, r.2)
  else
    match v with
    | .nan s => (fqnan f, if s then flInv else noFlags)
    | .inf n =>
      if f == .e4m3 then (if o == .nonsat then fqnan f else fmaxBits f n, flInv)
      else if fmtTinyKind f then (fmaxBits f n, flInv)
      else (finfBits f n, noFlags)
    | .fin n m e => roundFin f rm flush o n m e false

/-- The overflow behaviour that a destination descriptor selects (R53, R70). -/
def ovfOf (f : Fmt) (nonsat : Bool) : Ovf :=
  if f == .e4m3 || f == .e5m2 then (if nonsat then .nonsat else .sat) else if fmtTinyKind f then .sat else .ieee

/-! ### Exact sums and products -/

/-- Signed mantissa. -/
def smant (neg : Bool) (m : Nat) : Int := if neg then -(m : Int) else m

/-- A term of an exact sum: a value, or a product of two values (R86). -/
inductive Term where
  | val (v : FVal)
  | prod (a b : FVal)
  deriving DecidableEq, Repr

/-- What a term is before it is summed: its NaNs, an invalid product, or an exact value. -/
inductive TermRes where
  | nan (signalling : Bool)
  | invalid
  | inf (neg : Bool)
  | fin (neg : Bool) (m : Nat) (e : Int)
  deriving DecidableEq, Repr

/-- A value is NaN. -/
def isNan : FVal → Bool
  | .nan _ => true
  | _ => false
/-- A value is a signalling NaN. -/
def isSnan : FVal → Bool
  | .nan s => s
  | _ => false
/-- A value is an infinity. -/
def isInf : FVal → Bool
  | .inf _ => true
  | _ => false
/-- A value is a zero. -/
def isZero : FVal → Bool
  | .fin _ m _ => m == 0
  | _ => false
/-- The sign of a value that is not NaN. -/
def signOf : FVal → Bool
  | .inf n => n
  | .fin n _ _ => n
  | .nan _ => false

/-- A product of two values, NaN deciding before 0 × ∞ (R60). -/
def mulRes (a b : FVal) : TermRes :=
  match a, b with
  | .nan s, .nan t => .nan (s || t)
  | .nan s, _ => .nan s
  | _, .nan t => .nan t
  | .inf n, .inf k => .inf (n != k)
  | .inf n, .fin k m _ => if m = 0 then .invalid else .inf (n != k)
  | .fin n m _, .inf k => if m = 0 then .invalid else .inf (n != k)
  | .fin n m e, .fin k p g => .fin (n != k) (m * p) (e + g)

/-- A term before it is summed. -/
def termRes : Term → TermRes
  | .val (.nan s) => .nan s
  | .val (.inf n) => .inf n
  | .val (.fin n m e) => .fin n m e
  | .prod a b => mulRes a b

/-- The exact outcome of a sum before rounding. -/
inductive SumRes where
  | nan (inv : Bool)
  | inf (neg : Bool)
  | fin (neg : Bool) (m : Nat) (e : Int)
  deriving DecidableEq, Repr

/-- Least exponent among the finite terms. -/
def minExp : List TermRes → Int → Int
  | [], e => e
  | .fin _ m g :: t, e => minExp t (if m = 0 then e else min e g)
  | _ :: t, e => minExp t e

/-- Some finite non-zero term's exponent, to start `minExp`. -/
def anyExp : List TermRes → Int
  | [] => 0
  | .fin _ m g :: t => if m = 0 then anyExp t else g
  | _ :: t => anyExp t

/-- The exact sum of the finite terms in units of 2^g. -/
def sumAt (g : Int) : List TermRes → Int
  | [] => 0
  | .fin n m e :: t => (if m = 0 then 0 else smant n (m * 2 ^ (e - g).toNat)) + sumAt g t
  | _ :: t => sumAt g t

/-- The sum of terms with specials resolved in the order of R87 and zero signs by R74. -/
def exactSum (rm : Rm) (ts : List Term) : SumRes :=
  let rs := ts.map termRes
  let nans := rs.filterMap (fun r => match r with | .nan s => some s | _ => none)
  if !nans.isEmpty then .nan (nans.any id)
  else if rs.any (fun r => match r with | .invalid => true | _ => false) then .nan true
  else
    let infs := rs.filterMap (fun r => match r with | .inf n => some n | _ => none)
    if infs.any id && infs.any (!·) then .nan true
    else match infs with
      | n :: _ => .inf n
      | [] =>
        let g := minExp rs (anyExp rs)
        let t := sumAt g rs
        if t = 0 then
          let zneg := rs.all (fun r => match r with | .fin n m _ => n && m == 0 | _ => false)
          let zpos := rs.all (fun r => match r with | .fin n m _ => !n && m == 0 | _ => true)
          .fin (!rs.isEmpty && (zneg || (rm == .rdn && !zpos))) 0 0
        else .fin (t < 0) t.natAbs g

/-- Round a sum into a format (R59, R69, R87). DEDUCED (log entry 21). -/
def roundSum (f : Fmt) (rm : Rm) (flush : Bool) (o : Ovf) : SumRes → Nat × Flags
  | .nan i => (fqnan f, if i then flInv else noFlags)
  | .inf n => if f == .e4m3 || fmtTinyKind f then fencode f rm flush o (.inf n) else (finfBits f n, noFlags)
  | .fin n m e => roundFin f rm flush o n m e false

/-- The exact value of a sum, as a value. -/
def sumVal : SumRes → FVal
  | .nan i => .nan i
  | .inf n => .inf n
  | .fin n m e => .fin n m e

/-- A sum of terms rounded once. DEDUCED (log entry 21). -/
def sumRound (f : Fmt) (rm : Rm) (flush : Bool) (o : Ovf) (ts : List Term) : Nat × Flags :=
  roundSum f rm flush o (exactSum rm ts)

/-- Negate a value; NaNs are kept. -/
def fnegV : FVal → FVal
  | .inf n => .inf (!n)
  | .fin n m e => .fin (!n) m e
  | v => v

/-- Magnitude of a value. -/
def fabsV : FVal → FVal
  | .inf _ => .inf false
  | .fin _ m e => .fin false m e
  | v => v

/-- Multiply a value by 2^k. -/
def fscale (k : Int) : FVal → FVal
  | .fin n m e => .fin n m (e + k)
  | v => v

/-- Compare two values that are not NaN; −0 and +0 are equal. -/
def fcmp (a b : FVal) : Ordering :=
  match a, b with
  | .inf true, .inf true => .eq
  | .inf false, .inf false => .eq
  | .inf n, _ => if n then .lt else .gt
  | _, .inf n => if n then .gt else .lt
  | .fin n m e, .fin k p g =>
    let lo := min e g
    compare (smant n (m * 2 ^ (e - lo).toNat)) (smant k (p * 2 ^ (g - lo).toNat))
  | _, _ => .eq

/-- a < b for values that are not NaN. -/
def fltV (a b : FVal) : Bool := fcmp a b == .lt

/-- IEEE 754-2019 minimum of two values that are not NaN: −0 below +0. -/
def fminV (a b : FVal) : FVal :=
  if fltV a b then a else if fltV b a then b else if signOf a then a else b

/-- IEEE 754-2019 maximum of two values that are not NaN. -/
def fmaxV (a b : FVal) : FVal :=
  if fltV a b then b else if fltV b a then a else if signOf a then b else a

/-- Minimum or maximum with NaN handling: a NaN operand gives NaN, signalling raising invalid. DEDUCED (log entry 22). -/
def fminmax (mx : Bool) (a b : FVal) : FVal :=
  if isNan a || isNan b then .nan (isSnan a || isSnan b) else if mx then fmaxV a b else fminV a b

/-- Integer square root by bisection on `k` bits, structurally. -/
def isqrtGo : Nat → Nat → Nat → Nat
  | 0, _, r => r
  | k + 1, n, r => let c := r + 2 ^ k; isqrtGo k n (if c * c ≤ n then c else r)

/-- Floor of the square root. -/
def isqrt (n : Nat) : Nat := isqrtGo (flog2 n / 2 + 1) n 0

/-- A quotient of two values, rounded once (R90: x / 0 is an exact infinity). -/
def fdivRound (f : Fmt) (rm : Rm) (flush : Bool) (o : Ovf) (a b : FVal) : Nat × Flags :=
  match a, b with
  | .nan s, .nan t => (fqnan f, if s || t then flInv else noFlags)
  | .nan s, _ => (fqnan f, if s then flInv else noFlags)
  | _, .nan t => (fqnan f, if t then flInv else noFlags)
  | .inf _, .inf _ => (fqnan f, flInv)
  | .inf n, .fin k _ _ => fencode f rm flush o (.inf (n != k))
  | .fin n _ _, .inf k => roundFin f rm flush o (n != k) 0 0 false
  | .fin n m e, .fin k p g =>
    if p = 0 then (if m = 0 then (fqnan f, flInv) else fencode f rm flush o (.inf (n != k)))
    else if m = 0 then roundFin f rm flush o (n != k) 0 0 false
    else
      let sh := 80 + flog2 p + 1 - min (flog2 m) (flog2 p)
      let x := m * 2 ^ sh
      roundFin f rm flush o (n != k) (x / p) (e - g - sh) (decide (x % p ≠ 0))

/-- A square root, rounded once; a value below −0 is invalid. -/
def fsqrtRound (f : Fmt) (rm : Rm) (flush : Bool) (o : Ovf) (a : FVal) : Nat × Flags :=
  match a with
  | .nan s => (fqnan f, if s then flInv else noFlags)
  | .inf true => (fqnan f, flInv)
  | .inf false => fencode f rm flush o (.inf false)
  | .fin n m e =>
    if m = 0 then roundFin f rm flush o n 0 0 false
    else if n then (fqnan f, flInv)
    else
      let odd := e % 2 != 0
      let m1 := if odd then m * 2 else m
      let e1 := if odd then e - 1 else e
      let x := m1 * 2 ^ 160
      let r := isqrt x
      roundFin f rm flush o false r (e1 / 2 - 80) (decide (r * r ≠ x))

/-! ### The correctly rounded exponential of R227 -/

/-- ln 2 in units of 2^-p, by Σ 1/(k·2^k). -/
def ln2Go (p : Nat) : Nat → Nat → Nat
  | 0, acc => acc
  | k + 1, acc => ln2Go p k (acc + 2 ^ p / ((k + 1) * 2 ^ (k + 1)))

/-- Working precision of `expFix`: far beyond the 53 bits of the result. -/
def expPrec : Nat := 400

/-- ln 2 in units of 2^-expPrec. -/
def ln2Fix : Nat := ln2Go expPrec 400 0

/-- The Taylor sum of exp at x (units of 2^-expPrec, below 2). -/
def expTaylor (x : Nat) : Nat → Nat → Nat → Nat → Nat
  | 0, _, _, acc => acc
  | n + 1, k, t, acc => let t' := t * x / (2 ^ expPrec * k); expTaylor x n (k + 1) t' (acc + t')

/-- exp of a non-zero finite value as (m, e, sticky): never an exact dyadic, so sticky holds. -/
def expFin (neg : Bool) (m : Nat) (e : Int) : Nat × Int :=
  let ax : Nat := if 0 ≤ e then m * 2 ^ e.toNat * 2 ^ expPrec else m * 2 ^ expPrec / 2 ^ (-e).toNat
  let x : Int := if neg then -(ax : Int) else ax
  let k : Int := x / (ln2Fix : Int)
  let r : Nat := (x - k * ln2Fix).toNat
  (expTaylor r 130 1 (2 ^ expPrec) (2 ^ expPrec), k - expPrec)

/-- exp_64: the FP64 exponential correctly rounded under RNE (R227). -/
def exp64 (v : FVal) : Nat :=
  match v with
  | .nan _ => fqnan .fp64
  | .inf n => if n then 0 else finfBits .fp64 false
  | .fin neg m e =>
    if m = 0 then 0x3FF0000000000000
    else
      let mag := (flog2 m : Int) + e
      if mag ≥ 11 then (if neg then 0 else finfBits .fp64 false)
      else if mag < -70 then 0x3FF0000000000000
      else
        let r := expFin neg m e
        (roundFin .fp64 .rne false .ieee false r.1 r.2 true).1

/-! ### Memory images (R61) -/

/-- Packed bytes of `n` elements of `w` bits; sub-byte groups are padded with zeros. -/
def packedBytes (w n : Nat) : Nat :=
  if w = 6 then cdiv n 4 * 3 else if w = 4 then cdiv n 2 else n * (w / 8)

/-- Bits that element `i` of a packed vector begins at. -/
def elemBit (w i : Nat) : Nat := if w = 6 then i / 4 * 24 + 6 * (i % 4) else i * w

/-- Element `i` of a packed vector. -/
def getElem (w : Nat) (bs : List Byte) (i : Nat) : Nat :=
  if w < 8 then
    let bit := elemBit w i
    bitsOf (leNat ((bs.drop (bit / 8)).take 2)) (bit % 8 + w - 1) (bit % 8)
  else leNat ((bs.drop (i * (w / 8))).take (w / 8))

/-- The first `n` elements of a packed vector, read in order. -/
def getElems (w : Nat) : Nat → List Byte → List Nat
  | 0, _ => []
  | n + 1, bs =>
    if w < 8 then (List.range (n + 1)).map (getElem w bs)
    else leNat (bs.take (w / 8)) :: getElems w n (bs.drop (w / 8))

/-- Pack elements, padding the final group with zeros (R61). -/
def packElems (w : Nat) (xs : List Nat) : List Byte :=
  if w < 8 then
    let v := (xs.zipIdx.map (fun p => p.1 % 2 ^ w * 2 ^ elemBit w p.2)).foldl (· + ·) 0
    leBytes (packedBytes w xs.length) v
  else xs.flatMap (leBytes (w / 8))

end Sys2Proof.Machine
end

