-- ==== Sys2Proof/Machine/Parts.lean ====
section
/-! DEFINITION. The component structures of the package state: everything a core, an engine, a group table or a colophon
context holds. Each default is the reset value (the assumption log names those the spec does not give). -/
namespace Sys2Proof.Machine
open Sys2Proof

/-- Sticky flags, arm bits and first-event capture of one unit (R90–R96); `capCore` is the CAPTURE_CORE register of the
solver engines and NMUs (R267, R306). -/
structure FlagBlk where
  flags : BitVec 4 := 0
  arm : BitVec 4 := 3
  cap0 : Word := 0
  cap1 : Word := 0
  capCore : Nat := 0
  deriving DecidableEq, Repr

/-- One event of a flag-setting operation: output tile, k-block or group, element, and the flags it raises (R95). -/
structure FlagEv where
  tile : Nat
  kblk : Nat
  elem : Nat
  fl : Flags
  deriving DecidableEq, Repr

/-- The registers of the control core (R100): g1–g31, lanes of w0–w31 (lane j of wi at key 8i+j), svl, p1–p7, sum0–3. DESIGN CHOICE (log entry 11). -/
structure CcRegs where
  g : Tbl Word := []
  w : Tbl Word := []
  svl : Nat := 0
  p : BitVec 8 := 0
  sum : Tbl Word := []
  deriving DecidableEq, Repr

/-- The state of one waiter on its token counter (R129, R131): no wait, held since a TIME, or satisfied. -/
inductive WaitSt where
  | idle | held (since : Nat) | done
  deriving DecidableEq, Repr

/-- One queue entry (R126, R127, R152): the four command words after patching, whether it is a void entry, whether it
has a word 0, the offset of its PUSH and the iteration in which it was pushed. -/
structure Cmd where
  w0 : Word
  w1 : Word
  w2 : Word
  w3 : Word
  void : Bool := false
  bare : Bool := false
  off : Nat
  iter : Nat
  uid : Nat := 0
  deriving DecidableEq, Repr

/-- A launch record in a core's launch queue (R114, R117): its words, the ring that delivered it, its index in that ring,
and the TIME at which it became the head of the queue (R474). -/
structure LaunchRec where
  words : List Word
  ring : Nat
  idx : Nat
  at_ : Nat
  deriving DecidableEq, Repr

/-- The launch in progress on a core (R118–R122). -/
structure Run where
  ring : Nat := 0
  idx : Nat := 0
  slot : Nat := 0
  count : Nat := 0
  iter : Nat := 0
  pc : Nat := 0
  ninsn : Nat := 0
  ntmpl : Nat := 0
  stop : Option Nat := none
  finished : Bool := false
  group : Nat := 0
  rank : Nat := 0
  size : Nat := 0
  epoch : Nat := 0
  bind : Option (Nat × Nat) := none
  sel : Option Nat := none
  deriving DecidableEq, Repr

/-- Checksum and poison of one core-store tile (R273). -/
structure TileMeta where
  crc : Nat := 0
  poison : Bool := false
  deriving DecidableEq, Repr

/-- One element of C while it is reduced: its accumulator encoding, whether a block has made it NaN, and its (k-block, flags). -/
structure Acc where
  bits : Nat
  dead : Bool := false
  evs : List (Nat × Flags) := []
  deriving DecidableEq, Repr

/-- The contents of one galley slot that is RESERVED or FINISHED (R185): its 4,096 bytes, CRC-64 and poison bit. -/
structure GSlot where
  bytes : List Byte
  crc : Nat
  poison : Bool
  deriving DecidableEq, Repr

/-- An ME command in progress: writing galley slots (R187, R190), with the slots and elements of the block rows that have not entered, or
taking the segments of a bound all-gather (R193–R197), with the elements of C so far and the tiles verified. -/
structure MeJob where
  cmd : Cmd
  groups : List (List GSlot × List (Nat × Nat × Acc)) := []
  since : Nat := 0
  status : Nat := 0
  bound : Option Nat := none
  seg : Nat := 0
  taken : List Nat := []
  order : List Nat := []
  ended : Bool := false
  accs : List (List Acc) := []
  seen : List Nat := []
  deriving DecidableEq, Repr

/-- A VE command in progress: the galley slots it has taken so far (R191, R229). -/
structure VeJob where
  cmd : Cmd
  slots : List GSlot := []
  since : Nat := 0
  deriving DecidableEq, Repr

/-- The table buffer of the VE (R202, R222, R225). -/
structure Lut where
  tag : Option (Nat × Nat) := none
  poison : Bool := false
  bytes : List Byte := []
  deriving DecidableEq, Repr

/-- A value with the scale it is held at. -/
structure Sv where
  v : FVal
  s : Int
  deriving DecidableEq, Repr

/-- What a solve runs on: fixed point or the FP64 rehearsal, the opcode's sizes, τ, the scale table entries, deadline and
whether FLUSH is in force. -/
structure SEnv where
  fx : Bool
  n : Nat
  batch : Nat
  kl : Nat
  ku : Nat
  tau : Nat
  scales : Tbl Nat
  deadline : Nat
  flush : Bool
  deriving DecidableEq, Repr

/-- What a solve keeps as it runs: TIME and the coming checkpoint times, whether the deadline lapsed, the system being
solved, saturations and regularised pivots with their first place, flag events and tracked magnitudes. -/
structure Tr where
  now : Nat := 0
  times : List Nat := []
  lapsed : Bool := false
  sys : Nat := 0
  sat : Nat := 0
  satAt : Option (Nat × Nat) := none
  reg : Nat := 0
  regAt : Option (Nat × Nat) := none
  evs : List FlagEv := []
  maxes : Tbl FVal := []
  deriving DecidableEq, Repr

/-- An iterative solve between two reductions (R257–R260): which reduction it has entered (`ph`: 0 the first or a cycle's
true residual, 1 p·Ap, 2 r·r, 3 an inner step, 4 the scales of a joint RANGE), its data, its contributions, its own lapse
sample, and how it ended (true: deliver, false: abandon). Vectors are keyed by system and row; `xo` and `xf` are the FP64
bits of x as they would be delivered and the flags of that rounding. -/
structure IterSt where
  gm : Bool := false
  ph : Nat := 0
  maxit : Nat := 0
  restart : Nat := 0
  tol : Nat := 0
  a : Tbl Sv := []
  b : Tbl Sv := []
  x : Tbl Sv := []
  r : Tbl Sv := []
  p : Tbl Sv := []
  w : Tbl Sv := []
  xo : Tbl Nat := []
  xf : Tbl Flags := []
  basis : List (Tbl Sv) := []
  cols : List (List (List Sv)) := []
  beta : List Sv := []
  rr : List FVal := []
  bb : List FVal := []
  conv : List Bool := []
  stop : List Bool := []
  idle : List Bool := []
  brk : Bool := false
  iters : Nat := 0
  inner : Nat := 0
  out : List (List FVal) := []
  lapse : Bool := false
  late : Bool := false
  fin : Option Bool := none
  deriving DecidableEq, Repr

/-- A joint solve holding its engine while a reduction is under way (R260–R262): the core and its command, the solve, its
group and reduction instance, the conditions of its reads and the TIME of the reduction's take; `dw` are the words of its
solve descriptor as read, `seen` the tiles that it has verified (R276), and `got` a reduction that has returned while the engine may
start no new step (R450). -/
structure SolveJob where
  n : Nat
  k : Nat
  x : Cmd
  dw : List Nat
  seen : List Nat
  env : SEnv
  tr : Tr
  it : IterSt
  si : List Int
  jid : Nat
  inst : Nat
  cond : Nat
  since : Nat
  got : Option (List (List (List FVal)) × List RedSum × Bool) := none
  deriving DecidableEq, Repr

/-- A solver engine (R236, R237, R267, R470): its control block, the core it last served, whether it is FAILED, its V-step
and the joint solve it holds. -/
structure Engine where
  f : FlagBlk := {}
  last : Option Nat := none
  failed : Bool := false
  vstep : Nat := 3
  job : Option SolveJob := none
  deriving DecidableEq, Repr

/-- The snapshot control block and the progress of the generation (R484, R489, R496): COPIED parts as (stack, page), the
next line to stripe, stripe lines sent and failed, the confirmation, with a generation (24 bits) that was aborted before this package took it,
and the restore. -/
structure Snap where
  stepTag : Nat := 0
  state : Nat := 0
  last : Nat := 0
  gen : Nat := 0
  exclude : Nat := 15
  restoreGen : Nat := 0
  commitValid : Bool := false
  commitSlot : Nat := 0
  commitGen : Nat := 0
  commitTag : Nat := 0
  commitTime : Nat := 0
  localComplete : Bool := false
  localGen : Nat := 0
  rebuilt : Nat := 0
  lost : Nat := 0
  bases : Tbl Nat := []
  lens : Tbl Nat := []
  copied : List (Nat × Nat) := []
  takenAt : Nat := 0
  striped : Bool := false
  stripeFail : Bool := false
  abortSent : Bool := false
  decided : Option Nat := none
  early : Option Nat := none
  remote : Bool := false
  lines : Tbl (List Byte × Nat) := []
  deriving DecidableEq, Repr

/-- The DE report register (R331): captured under the rules of R95. -/
structure DeReport where
  status : Nat
  off : Nat
  iter : Nat
  cidx : Nat
  failed : Nat
  first : Nat
  deriving DecidableEq, Repr

/-- A segment read: offset in its range, bytes, and 0 good, 1 poisoned, 2 failed, 3 checksum. -/
structure Seg where
  off : Nat
  bytes : List Byte
  st : Nat
  deriving DecidableEq, Repr

/-- A descriptor in execution (R309, R318): its words with the offset and iteration of the PUSH, its index in a chain,
whether its writes have started, the source bytes held (offset, bytes, poisoned), the end condition so far, the failed
lines, the least offset of a failed line or bad byte, bytes written, the amax of an NMU conversion (R300), and the leaves of
tagged tiles (R328). -/
structure DeJob where
  x : Cmd
  cidx : Option Nat := none
  takenAt : Nat := 0
  writing : Bool := false
  got : List Seg := []
  cond : Nat := 0
  failed : List Nat := []
  first : Option Nat := none
  written : Nat := 0
  amax : Option Nat := none
  leaves : List (Nat × List Byte) := []
  deriving DecidableEq, Repr

/-- A chain in progress (R310–R312): its command, the place of the next entry, the entries counted so far, the end
condition, the entry read but not yet executed, and the tiles of its list verified so far with their conditions (R276). -/
structure ChainSt where
  x : Cmd
  loc : Bool
  at_ : Nat
  takenAt : Nat := 0
  count : Nat := 0
  cond : Nat := 0
  entry : Option Cmd := none
  seen : List (Nat × Nat) := []
  deriving DecidableEq, Repr

/-- A DE (R309–R331). -/
structure De where
  job : Option DeJob := none
  chain : Option ChainSt := none
  stop : Bool := false
  stopped : Bool := false
  last : Nat := 0
  rep : Option DeReport := none
  repKeep : DeReport := ⟨0, 0, 0, 0, 0, 0⟩
  deriving DecidableEq, Repr

/-- Who waits for an access to memory: a DE, a fabric request at its home, a hart, the CXL host, a core's collective, or nobody. -/
inductive Owner where
  | de (k : Nat) | home (fd : Nat) (f : Flit) | hart (h : Nat) | coll (k : Nat) | nobody
  deriving DecidableEq, Repr

/-- A write held by copy-on-write (R302) or by the load of a boot image (R556): the line, the bytes it writes, whether its
source is poisoned, and its owner; why it was held (`kind` 0 copy-on-write, 1 a boot image, 2 a stack that serves no access,
R293), its offset in its owner's destination and the offset that a failure reports (R325, R327), and whether it is the write-back
of a cached line (R361). An atomic's place among them has no bytes. -/
structure HeldWrite where
  line : Nat
  bytes : List (Option Byte)
  poison : Bool
  who : Owner
  kind : Nat := 0
  off : Nat := 0
  rep : Nat := 0
  back : Bool := false
  deriving DecidableEq, Repr

/-- An atomic that has reached its home NMU (R303): stack, address, AOP, operand, compare value, owner, the core whose
flags and colophon it raises, and the address as its issuer gave it. -/
structure AtomicOp where
  st : Nat
  addr : Nat
  op : Nat
  a : Nat
  cmp : Nat
  who : Owner
  core : Option Nat
  pa : Nat
  deriving DecidableEq, Repr

/-- What a fabric request was issued for; `gone` where nobody waits for it any more. -/
inductive ReqOwner where
  | deRead (k off : Nat) | deWrite (k off : Nat) | deAtomic (k : Nat) | hartLoad (h pa size cause : Nat) | hartStore (h pa : Nat)
  | hartAmo (h pa : Nat) | stripe | restore (k : Nat) (o : Nat) | hartFill (h pa key cause : Nat)
  | coll (k uid : Nat) | relay (id inst seg : Nat) | gone
  deriving DecidableEq, Repr

/-- An outstanding fabric request of an F-die (R354): its tag, the TIME of its first issue, the flit as issued, what it
is for and the retries so far. -/
structure Req where
  fd : Nat
  tag : Nat
  first : Nat
  f : Flit
  who : ReqOwner
  retries : Nat := 0
  deriving DecidableEq, Repr

/-- A port of the fabric (R333–R335, R342, R344): flits sent and not acknowledged, the times each was sent again, and the
LSEQ of a flit that failed and is awaited again; the LSEQ of the next flit to send and of the next one to receive; and by virtual
lane the credits in use at the peer's receiver, those to be returned to the peer, and those of disabled buffer banks withheld (R466). -/
structure Port where
  unacked : List Flit := []
  tries : List Nat := []
  bad : Option Nat := none
  txNext : Nat := 0
  rxNext : Nat := 0
  used : Tbl Nat := []
  owed : Tbl Nat := []
  lost : Tbl Nat := []
  deriving DecidableEq, Repr

/-- A flit that waits for credits (R344, R370): the F-die that holds it, the level of its route, since when, the flit, and the port whose
receive buffer it still holds. -/
structure OutFlit where
  fd : Nat
  lv : Nat
  since : Nat
  f : Flit
  inp : Option Nat := none
  deriving DecidableEq, Repr

/-- A request that waits at its home F-die (R357, R360, R362, R368, R369): the port whose buffer holds it, and whether it stands in
the queue of hot lines. -/
structure Ingress where
  fd : Nat
  port : Nat
  hot : Bool
  f : Flit
  deriving DecidableEq, Repr

/-- A replay-table entry (R356): the saved old value and status of an atomic, until its expiry. -/
structure Replay where
  fd : Nat
  src : Nat
  tag : Nat
  expiry : Nat
  reply : Option (Nat × Nat)
  deriving DecidableEq, Repr

/-- A line of the board coherence directory (R360, R361): its holders and whether one holds it exclusively, in the order
in which lines were granted. -/
structure DirLine where
  line : Nat
  excl : Bool
  holders : List Nat
  deriving DecidableEq, Repr

/-- A snoop under way (R361): its tag, the line and the agent, the line whose request waits for it (another one in a recall,
R362), and who waits for it. -/
structure Snoop where
  fd : Nat
  tag : Nat
  line : Nat
  ag : Nat
  waits : Nat
  who : Owner
  deriving DecidableEq, Repr

/-- A line tracked by a hot-line detector (R368): the TIMEs of its requests in the last 1 µs and, while hot, the TIME since
which it has been below the threshold. -/
structure HotLine where
  fd : Nat
  egress : Bool
  line : Nat
  times : List Nat := []
  hot : Bool := false
  since : Nat := 0
  deriving DecidableEq, Repr

/-- The sending side of the transport beyond the chassis (R371): the next SEQ, the flits not acknowledged with their SEQ and the
TIME they were last sent, and those that wait for room in the window. -/
structure SysTx where
  next : Nat := 0
  un : List (Nat × Nat × Flit) := []
  wait : List Flit := []
  deriving DecidableEq, Repr

/-- The receiving side (R372): the lowest SEQ not delivered, those delivered above it, and the TIME of the last flit. -/
structure SysRx where
  low : Nat := 0
  got : List Nat := []
  last : Nat := 0
  deriving DecidableEq, Repr

/-- A copy of a line in a cache of a hart's own (R533): its way, 16 + 16·hart + w, where w is 0–3 in the L1 instruction cache, 4–7 in the L1
data cache and 8–15 in the L2, and the 64-bit words of the copy in which an ECC error stands, uncorrectable and correctable. -/
structure HCopy where
  way : Nat
  bad : Nat := 0
  cor : Nat := 0
  deriving DecidableEq, Repr

/-- A line of the H-die caches (R533, R548): its bytes, modified or not, held exclusively or shared, the hart that last
modified it, the way that holds it (of its half of the shared cache, or 16 + 16·hart + way of a hart's own caches), the copies in the harts'
own caches, and the 64-bit words in which an ECC error stands, uncorrectable and correctable (R460, R533, R534). -/
structure HLine where
  bytes : List Byte := []
  dirty : Bool := false
  excl : Bool := false
  hart : Nat := 0
  way : Nat := 0
  near : List HCopy := []
  bad : Nat := 0
  cor : Nat := 0
  deriving DecidableEq, Repr


/-- A hart of the H-die (R29, R532, R556): its program counter, privilege mode (3 machine), integer and floating-point registers, and its
control and status registers, by number, where they differ from their values at reset. -/
structure Hart where
  pc : Nat := 0
  priv : Nat := 3
  x : Tbl Word := []
  f : Tbl Word := []
  csr : Tbl Nat := []
  deriving DecidableEq, Repr

/-- An abort record (R401, R407), with the operator and the values − 1 of its collective (R406). -/
structure AbortRec where
  id : Nat
  cause : Nat
  origin : Nat
  rop : Nat := 0
  nval : Nat := 0
  deriving DecidableEq, Repr

/-- An abort record accepted for an instance of a group's collectives or solver reductions (R401, R402). -/
structure HeldAbort where
  g : Nat
  inst : Nat
  solver : Bool
  ar : AbortRec
  deriving DecidableEq, Repr

/-- Flits of one child's set of partials (R385, R405): the child, its flits by index with their data, and once the last has
come the members covered and whether the set is poisoned. -/
structure HbKid where
  pkg : Nat
  parts : List (Nat × List Byte) := []
  last : Option Nat := none
  count : Nat := 0
  poison : Bool := false
  deriving DecidableEq, Repr

/-- The package's harebell node in one reduction (R385); `solver` for a joint solve's; `own` what the members of this package bring to a
CQ reduction, once they have all entered: items, whether one is bad, and their number. -/
structure HbNode where
  id : Nat
  inst : Nat
  rop : Nat
  nval : Nat
  kids : List HbKid := []
  own : Option (List Nat × Bool × Nat) := none
  sent : Bool := false
  solver : Bool := false
  deriving DecidableEq, Repr

/-- A segment of another package's member that this package passes on (R376, R397): its group, instance and operator, the receiver, its
index, its line writes, whether it holds poison, and whether one of its writes has failed. -/
structure SegRelay where
  id : Nat
  inst : Nat
  rop : Nat
  pkg : Nat
  seg : Nat
  lines : Nat
  poison : Bool
  lost : Bool := false
  deriving DecidableEq, Repr

/-- A segment to be passed on, until its bytes can be read (R283, R293, R361): its group, instance, operator, index, line writes and poison,
the core whose sequencer reads it, if any, where it lies (core store or not, address; none where that is not known), its bytes, and the
receivers. -/
structure RelayWait where
  id : Nat
  inst : Nat
  rop : Nat
  seg : Nat
  poison : Bool
  core : Option Nat
  place : Option (Bool × Nat)
  len : Nat
  dests : List Nat
  deriving DecidableEq, Repr

/-- Consecutive lines of staging that a package has written here and that no SEG_DONE has named yet (R396, R397). -/
structure Landing where
  src : Nat
  base : Nat
  lines : Nat
  deriving DecidableEq, Repr

/-- A segment on its way to a logical package: its operator, its index, its line writes, and whether it holds poison (R397). -/
structure SegOut where
  rop : Nat
  pkg : Nat
  seg : Nat
  lines : Nat
  poison : Bool
  deriving DecidableEq, Repr

/-- The collective queue of a core (R380, R407): its control block, and of the collective in progress the stage (0 idle,
1 waiting for staging, 2 entry, 3 data, 4 an entry round that mismatched and 5 a line write that failed, both awaiting the abort), the TIME of its take, the bytes reserved, the conditions met, its result (bytes,
whether poisoned) once known with its flags, segments received, those that hold poison and those whose SEG_DONE a reduction awaits, whether a line write failed (R397), the receive sizes
of an ALLTOALLV, the segments sent to other packages, the tiles verified with their conditions
(R276), whether the result has been written, the capacity read, and the groups and instances that an abort has ended here, of collectives
and of joint solves (R402). -/
structure CollCtl where
  flags : BitVec 4 := 0
  id : Nat := 0
  inst : Nat := 0
  stage : Nat := 0
  taken : Nat := 0
  reserved : Nat := 0
  waitFrom : Nat := 0
  cond : Nat := 0
  result : List (Nat × List Byte × Bool) := []
  known : Bool := false
  abort : Option AbortRec := none
  abortDone : Bool := false
  keep : AbortRec := ⟨0, 0, 0, 0, 0⟩
  abortTime : Nat := 0
  segs : List Nat := []
  bads : List Nat := []
  wants : List Nat := []
  sizes : List Nat := []
  lost : Bool := false
  sends : List SegOut := []
  seen : List (Nat × Nat) := []
  wrote : Bool := false
  fl : Nat := 0
  cap : Nat := 0
  lastAbort : List (Nat × Nat) := []
  lastSe : List (Nat × Nat) := []
  deriving DecidableEq, Repr

/-- One physical core (R36, R99, R100, R111, R123, R129, R133, R137, R138, R185, R202, R273, R278): everything the
spec keeps per core. DESIGN CHOICE (log entry 11). -/
structure Core where
  forme : List Host.Cell := []
  slots : Tbl Nat := []
  regs : CcRegs := {}
  atEnd : CcRegs := {}
  image : CcRegs := {}
  tokens : Tbl Nat := []
  waits : Tbl WaitSt := []
  ccWait : Option (Nat × Nat) := none
  log : List LogRec := []
  dropped : Nat := 0
  selHeld : Option Nat := none
  carry : Option Nat := none
  launchQ : List LaunchRec := []
  granted : Bool := false
  candSince : Option Nat := none
  run : Option Run := none
  blocked : Bool := false
  lastSlot : Nat := 0
  lastIter : Nat := 0
  launchSeq : Nat := 0
  ccF : FlagBlk := {}
  meF : FlagBlk := {}
  veF : FlagBlk := {}
  mq : List Cmd := []
  vq : List Cmd := []
  dq : List Cmd := []
  cq : List Cmd := []
  sq : List Cmd := []
  nextUid : Nat := 0
  store : List Host.Cell := []
  tiles : Tbl TileMeta := []
  amax : Word := 0
  masks : Tbl Nat := []
  vl : BitVec 13 := 0
  vcmds : Nat := 0
  lut : Lut := {}
  galley : List GSlot := []
  galleyRes : List GSlot := []
  galleyNext : Nat := 0
  meJob : Option MeJob := none
  veJob : Option VeJob := none
  seBusy : Bool := false
  boundUids : List Nat := []
  collCmd : Option Cmd := none
  collReady : List Nat := []
  de : De := {}
  coll : CollCtl := {}
  internal : Bool := false
  marked : Bool := false
  markedAt : Nat := 0
  pois : Tbl (List Nat) := []
  deriving DecidableEq, Repr

/-- What packages of a context send one another (R427, R428, R430): a leaf to its owner, how one ended, DRAINED, SEAL, a partial, or a
record; with the logical package it goes to and the context. -/
inductive ColBody where
  | leaf (m : LeafMsg) | leafEnd (cls off status : Nat) | drained | seal | part (p : Partial) | record (bytes : List Byte)
  deriving DecidableEq, Repr
/-- A message of a context, with the JOB_EPOCH that it carries (R366). -/
structure ColMsg where
  dst : Nat
  ctx : Nat
  epoch : Nat
  body : ColBody
  deriving DecidableEq, Repr

/-- A colophon context (R422, R424): its registers and, while OPEN or CLOSING, its accumulators, close progress and the leaves sent, by class
and offset, that have not ended. -/
structure Ctx where
  state : Nat := 0
  invocation : Nat := 0
  ownerBase : Nat := 0
  ownerCount : Nat := 1
  ownerShift : Nat := 32
  ownIndex : Nat := 0xFFFF
  record : List Byte := List.replicate 256 0
  scope : Nat := 0
  fingerprint : List Byte := []
  flags : Nat := 0
  skip : Nat := 0
  poison : Nat := 0
  reuse : Nat := 0
  pivot : Nat := 0
  members : List Nat := []
  prog : List (List Byte) := []
  states : List Nat := [0, 0, 0]
  sent : Nat := 0
  closeAt : Nat := 0
  localDone : Bool := false
  sealed : Bool := false
  awaits : List (Nat × Nat) := []
  settingsChanged : Bool := false
  leafCount : Nat := 0
  deriving DecidableEq, Repr

/-- An attachment entry (R436): the region it labels and the record copied from a context. -/
structure Attach where
  base : Word := 0
  len : Word := 0
  valid : Bool := false
  context : Nat := 0
  record : List Byte := List.replicate 256 0
  deriving DecidableEq, Repr

/-- One entry of the collective group table (R375). -/
structure CollGroup where
  members : Nat := 0
  valid : Bool := false
  leavesLog2 : Nat := 0
  total : Nat := 0
  localCount : Nat := 0
  rankBase : Nat := 0
  leafCount : Nat := 0
  leafBase : Nat := 0
  rootRank : Nat := 0
  childCount : Nat := 0
  parent : Nat := 0xFFFF
  ringNext : Nat := 0
  ringPrev : Nat := 0
  child : Tbl Nat := []
  instCq : Nat := 0
  instSe : Nat := 0
  deriving DecidableEq, Repr

/-- An error-log entry (R463). -/
structure ErrRec where
  time : Nat
  cls : Nat
  outcome : Nat
  unit : Nat
  detail : Nat
  seq : Nat
  deriving DecidableEq, Repr

/-- An event-calendar entry (R479). -/
structure CalRec where
  seq : Nat
  cycle : Nat
  time : Nat
  powerOn : Nat
  event : Nat
  tstate : Nat
  unit : Nat
  detail : Nat
  deriving DecidableEq, Repr

/-- Accumulators of a histogram monitor (R475, R476). -/
structure MonAcc where
  min : Nat := 2 ^ 64 - 1
  max : Nat := 0
  count : Nat := 0
  sum : Nat := 0
  bins : Tbl Nat := []
  deriving DecidableEq, Repr

/-- The outcome a proof pass has found (R465, R466): the unit, 1 TRANSIENT, 2 SPARED or 3 NO_SPARE, the calendar event (0 for none),
the unit's coordinate and the event's detail. -/
structure ProofEnd where
  unit : ProofUnit
  outcome : Nat
  event : Nat
  coord : Nat
  detail : Nat
  deriving DecidableEq, Repr

/-- A histogram monitor (R474–R476): its source and window, the accumulators, and the RESULT latched last. -/
structure Mon where
  source : Nat := 0
  window : Nat := 1000000
  acc : MonAcc := {}
  start : Nat := 0
  res : MonAcc := {}
  resStart : Nat := 0
  resEnd : Nat := 0
  deriving DecidableEq, Repr

/-- A power domain (R440, R451, R457): 0 OFF, 1 RETAIN, 2 ON; emergency with the TIME of its last step down and of the
last reading at which it was not yet cool; held issue; V-step, and one being settled (R443). -/
structure Dom where
  st : Nat := 2
  em : Bool := false
  held : Bool := false
  vstep : Nat := 3
  stepAt : Nat := 0
  coolFrom : Option Nat := none
  idleFrom : Nat := 0
  settling : Bool := false
  temp : Nat := 0
  power : Nat := 0
  wear : Nat := 0
  deriving DecidableEq, Repr

/-- One copy of the lifetime records in the H-die NVM (R477). DESIGN CHOICE (log entry 95). -/
structure Nvm where
  crc : Nat := 0
  seq : Nat := 0
  safe : Bool := true
  seconds : Nat := 0
  cycles : Nat := 0
  wear : Tbl Nat := []
  errs : Tbl Nat := []
  coreMap : Tbl (Option Nat) := []
  retired : Tbl Bool := []
  blocked : Tbl Bool := []
  spareUsed : Tbl Nat := []
  failed : List Nat := []
  banksOff : List Nat := []
  waysOff : Nat := 0
  cal : Tbl CalRec := []
  calSeq : Nat := 0
  deriving DecidableEq, Repr

/-- A table of numbers as bytes: each entry its key and its value. -/
def tblBytes {α : Type} (f : α → Nat) (t : Tbl α) : List Byte := t.flatMap (fun x => leBytes 8 x.1 ++ leBytes 8 (f x.2))

/-- The bytes of a copy that its CRC-64 covers; the spec gives the copy no layout (R477). DESIGN CHOICE (log entry 145). -/
def nvmBytes (r : Nvm) : List Byte :=
  [1] ++ leBytes 8 r.seq ++ leBytes 8 r.seconds ++ leBytes 8 r.cycles ++ tblBytes id r.wear ++ tblBytes id r.errs ++
  tblBytes (fun o => match o with | some p => p + 1 | none => 0) r.coreMap ++ tblBytes (fun b => if b then 1 else 0) r.retired ++
  tblBytes (fun b => if b then 1 else 0) r.blocked ++ tblBytes id r.spareUsed ++ r.failed.flatMap (leBytes 8) ++
  r.banksOff.flatMap (leBytes 8) ++ leBytes 256 r.waysOff ++ leBytes 8 r.calSeq ++
  r.cal.flatMap (fun x => leBytes 8 x.1 ++ leBytes 4 x.2.seq ++ leBytes 4 x.2.cycle ++ leBytes 8 x.2.time ++ leBytes 4 x.2.powerOn ++
    leBytes 1 x.2.event ++ leBytes 1 x.2.tstate ++ leBytes 4 x.2.unit ++ leBytes 4 x.2.detail)

/-- A copy with its CRC-64 (R274, R477). -/
def nvmSeal (r : Nvm) : Nvm := { r with crc := crc64 (nvmBytes r) }

/-- A copy is valid: its CRC-64 is that of its bytes (R477). -/
def nvmValid (r : Nvm) : Bool := r.crc == crc64 (nvmBytes r)

/-- A stored setup image (R504): the tables that it holds, and its geometry digest (16 bytes, little-endian number). -/
structure SetupImg where
  own : Nat
  levels : Nat
  trans : Tbl Nat
  groups : Tbl CollGroup
  digest : Nat
  deriving DecidableEq, Repr

/-- Who sent a Fovis PDU (R511, R513): mailbox m of the H-die (m) or of the CXL window (8 + m), or an address and port. -/
inductive Asker where
  | box (m : Nat) | net (addr port : Nat)
  deriving DecidableEq, Repr

/-- A request that the arbiter holds (R521, R522, R525): a PDU, or the write of an entry on a row of its own, by its key and value, with the
hart that writes it. -/
inductive FovisHeld where
  | pdu (who : Asker) (bytes : List Byte) | entry (k v : Nat) (hart : Option Nat)
  deriving DecidableEq, Repr

/-- What the field-network port has sent (R510, R511): an ICMPv6 message or the payload of a datagram, with its destination and ports, which
are 0 for ICMPv6; of a fragment the destination port is 2^16. -/
structure NetOut where
  dst : Nat
  port : Nat
  src : Nat
  bytes : List Byte
  deriving DecidableEq, Repr

/-- Fragments of a datagram being reassembled (R510): source, destination and identification, the bytes placed so far, the end of the last
fragment once it has come, the TIME of the first, and whether the set is abandoned. -/
structure Reasm where
  addr : Nat
  dst : Nat
  ident : Nat
  parts : List (Nat × List Byte)
  last : Option Nat
  since : Nat
  dead : Bool := false
  deriving DecidableEq, Repr

/-- A mailbox (R513): REQUEST bytes that are not zero, STATE, the reply of the last request, and the hart that submitted it. -/
structure Mbox where
  req : List Host.Cell := []
  st : Nat := 0
  resp : List Byte := []
  hart : Option Nat := none
  deriving DecidableEq, Repr

/-- A reply kept for a field-network source (R512). -/
structure CachedReply where
  addr : Nat
  port : Nat
  id : Nat
  since : Nat
  pdu : List Byte
  deriving DecidableEq, Repr

/-- A WRITE PDU whose reply waits for an action (R522): who asked, the PDU, and the statuses of the items served so far, newest first. -/
structure FovisPend where
  who : Asker
  pdu : List Byte
  done : List Nat
  deriving DecidableEq, Repr

/-- The bundle buffer (R527, R529): its owner, named length, bytes placed, TIME of the last operation, and the request of the
BUNDLE_APPLY that waits for verification; once it is being applied, the write that comes next. -/
structure BundleBuf where
  owner : Asker
  len : Nat
  bytes : List Host.Cell := []
  written : List (Nat × Nat) := []
  last : Nat
  applying : Option (List Byte) := none
  next : Option Nat := none
  deriving DecidableEq, Repr

/-- A request to the verifier-and-signer unit (R552). -/
inductive SigReq where
  | boot | bundle | table | attest (nonce : Nat) | sign (a : Nat)
  deriving DecidableEq, Repr

/-- A record taken by a ring and not yet completed (R117, R543): its index, TAG and status, the members still to receive it, those that
hold it and have not reached the boundary, the members that skipped it, and whether its completion entry is on its way to memory (R544). -/
structure RingRec where
  idx : Nat
  tag : Nat
  words : List Word
  status : Nat := 0
  todo : List Nat := []
  out : List Nat := []
  skipped : Nat := 0
  stored : Bool := false
  deriving DecidableEq, Repr

/-- A dispatch ring (R540): its block, state (0 DISABLED, 1 ACTIVE, 2 ERROR), whether the doorbell word is
still to be read, and the records in flight, oldest first. -/
structure Ring where
  base : Nat := 0
  cq : Nat := 0
  enable : Bool := false
  dbMem : Bool := false
  notEn : Bool := false
  notMsix : Bool := false
  target : Nat := 0
  size : Nat := 0
  db : Nat := 0
  producer : Nat := 0
  consumer : Nat := 0
  completed : Nat := 0
  st : Nat := 0
  waitDb : Bool := false
  recs : List RingRec := []
  deriving DecidableEq, Repr

/-- An HDM decoder (R547). -/
structure Hdm where
  base : Nat := 0
  size : Nat := 0
  ways : Nat := 1
  gran : Nat := 256
  dpa : Nat := 0
  committed : Bool := false
  error : Bool := false
  deriving DecidableEq, Repr

/-- The CXL endpoint domain (R545–R549): decoders, MSI-X table, pending bits and messages sent (address, data), BAR enables and the base that the host has given BAR0, SPDM session and
the IDE keys of the CXL.io and the CXL.cachemem stream, uncorrectable
internal errors logged, and the last answers to host memory and DOE requests. -/
structure Cxl where
  hdm : Tbl Hdm := []
  msix : Tbl Nat := []
  msixPend : Nat := 0
  msgs : List (Nat × Nat) := []
  bars : Nat := 0
  bar : Nat := 0
  session : Bool := false
  ideIo : Option Nat := none
  ideMem : Option Nat := none
  aer : Nat := 0
  resp : List Byte := []
  respPoison : Bool := false
  doe : List Byte := []
  deriving DecidableEq, Repr

/-- The trust unit (R550–R562): its queue, the boot image copied so far with the outcome of its checks (0 none
failed), whether it has been read, and the load range held, the running image; the bytes being signed, with
`bad` when they may not be signed; and the payload of a loaded table set (none for the built-in one). -/
structure Trust where
  queue : List SigReq := []
  bootHdr : List Byte := []
  bootDigest : Nat := 0
  bootPre : Nat := 0
  bootRead : Bool := false
  bootLo : Nat := 0
  bootHi : Nat := 0
  entry : Nat := 0
  load : Nat := 0
  imageVersion : Nat := 0
  body : List Byte := []
  bad : Bool := false
  tables : List Byte := []
  deriving DecidableEq, Repr

end Sys2Proof.Machine
end

