-- ==== Sys2Proof/Machine/State.lean ====
section
/-! DEFINITION. The state of the package: plain data holding everything the spec gives it, the queue of waiting commands,
and the state at reset. -/
namespace Sys2Proof.Machine
open Sys2Proof

/-- Why a step can stop with a fault. No meaning of this model faults: every access, skip, refusal and error of the
package is an effect the spec describes. -/
inductive Fault where
  /-- Raised by no meaning; safe. -/
  | none
  deriving DecidableEq, Repr

/-- Why a step has no meaning. -/
inductive Refusal where
  /-- A command whose meaning is not written yet: raised by its dispatch arm only; safe. -/
  | notModelled (mnemonic : String)
  deriving DecidableEq, Repr

/-- The package. DESIGN CHOICE (log entry 12). -/
structure State where
  /-- Commands waiting, oldest first. -/
  pending : List Instr
  /-- Power is on and reset is released (R567). -/
  up : Bool := true
  /-- VIN48 has risen above 42.0 V since it last stayed below 40.0 V; PKGRST_N was held low and has not risen (R566). -/
  vinOk : Bool := true
  rstLow : Bool := false
  /-- GRADE of the fuses (R1): 1 GZ-9A, 2 GZ-9B, 3 GZ-9S. -/
  grade : Nat := 1
  /-- TIME in units of 2^-32 ns (R454). -/
  timeFx : Nat := 0
  /-- Settings and counters of the object dictionary that differ from their defaults. -/
  dict : Tbl Nat := []
  /-- The imposition group table: MEMBERS as a bit set, VALID, SIZE (R115). -/
  grpMembers : Tbl Nat := []
  grpValid : Tbl Bool := []
  grpSize : Tbl Nat := []
  /-- Binding table bytes (R421). -/
  bindings : Tbl Nat := []
  /-- Colophon contexts (R422). -/
  ctxs : Tbl Ctx := []
  /-- The leaf table (R428): the digest held for a context, class and offset, key (2·context + class)·2^32 + offset; and the
  attachment table (R436). -/
  leaves : Tbl (List Byte) := []
  attached : Tbl Attach := []
  /-- Physical cores, key 1344·d + p. -/
  cores : Tbl Core := []
  /-- Core map (R38): physical core of each logical core, none when out of service (R473). -/
  coreMap : Tbl (Option Nat) := []
  /-- The collective group table (R375). -/
  collGroups : Tbl CollGroup := []
  /-- Solver engines, key 8d + e (R236), and the reductions taken by each member of each group, key 256·n + g (R381). -/
  engines : Tbl Engine := []
  seTaken : Tbl Nat := []
  /-- CQ collectives taken by each member of each group, key 256·n + g (R381); abort records held; harebell nodes. -/
  cqTaken : Tbl Nat := []
  collAborts : List HeldAbort := []
  hbNodes : List HbNode := []
  /-- Stack memory (R272, R284–R287): non-zero bytes by physical place ((32·stack + channel)·2^31 + 256·row + byte), poison
  markers by physical line, and latent codeword errors (base 4: 1 correctable, 2 uncorrectable). -/
  mem : List Host.Cell := []
  marks : Tbl Bool := []
  ecc : Tbl Nat := []
  /-- Latent interface faults by channel: kind (0 even group, 1 odd group, 2 both, 3 command lanes) and failing attempts to come. -/
  parity : Tbl (Nat × Nat) := []
  /-- Latent errors of the die-to-die links by link, kind (0 data, 3 command) and failing attempts to come (R460); and of the words of F-die
  and staging buffers, 1 correctable and 2 uncorrectable: key 5·port + lane, or 320 + member core for staging (R460). -/
  dieParity : Tbl (Nat × Nat) := []
  bufErr : Tbl Nat := []
  /-- Blocked rows (R469), key channel·2^23 + row; writes held by copy-on-write (R302); atomics at their NMUs (R303). -/
  blocked : Tbl Bool := []
  held : List HeldWrite := []
  atomics : List AtomicOp := []
  /-- NMU control blocks (R306). -/
  nmus : Tbl FlagBlk := []
  /-- Stack work under way and queued, by stack: 1 training, 2 power-up zeroing, 3 retrain, 4 clear (R283, R289, R293). -/
  stackWork : Tbl (List Nat) := []
  /-- Fabric (R333–R372): ports, requests outstanding and awaiting issue, next tag of each F-die and the TIMEs of its issues within
  REPLY_TIMEOUT (R354), flits without credits, the TIME to which their stall is counted (R370) and whether lane 3 has the next turn
  (R344), replies waiting for held writes, replay tables, requests waiting at their home, directory, snoops, hot lines, transport
  beyond the chassis. -/
  ports : Tbl Port := []
  reqs : List Req := []
  issueQ : List Req := []
  tagNext : Tbl Nat := []
  tagLog : List (Nat × Nat) := []
  outQ : List OutFlit := []
  stallAt : Nat := 0
  turn3 : Bool := false
  replies : List (Owner × Flit) := []
  replay : List Replay := []
  ingress : List Ingress := []
  dir : List DirLine := []
  snoops : List Snoop := []
  hot : List HotLine := []
  sysTx : Tbl SysTx := []
  sysRx : Tbl SysRx := []
  lastIssue : Nat := 0
  /-- Segments of collectives that this package passes on, those that wait to be read, what has landed in staging, and the opcodes of the
  instances that it only relays (R376, R397): group, instance, opcode. -/
  relays : List SegRelay := []
  relayQ : List RelayWait := []
  landed : List Landing := []
  relayOps : List (Nat × Nat × Nat) := []
  /-- Messages that this package has sent to others of its colophon contexts (R427, R430). -/
  colOut : List ColMsg := []
  /-- An EPOCH_ADVANCE waiting for outstanding requests (R502). -/
  epochAdv : Option Nat := none
  /-- Translation table, both F-die copies (R348). -/
  trans0 : Tbl Nat := []
  trans1 : Tbl Nat := []
  /-- The H-die caches, key PA / 128, and the count of free values taken from outside (host memory, host-modified lines). -/
  hcache : Tbl HLine := []
  freeCount : Nat := 0
  /-- Physical-address fills and answers of the harts (R537): data, fault. -/
  hresp : Tbl (Nat × Bool) := []
  /-- The harts' own registers (R29, R556), and their load reservations: line number + 1 (R536). -/
  harts : Tbl Hart := []
  hres : Tbl Nat := []
  /-- The H-die control block (R539): software and timer interrupts, the error interrupt 17, MTIMECMP (the complement, so that 0
  is its reset value), apertures, harts released, and NOTIFY_PENDING. -/
  msip : Nat := 0
  mtip : Nat := 0
  irq17 : Nat := 0
  mtimecmp : Tbl Nat := []
  apertures : Tbl Nat := []
  released : Nat := 0
  notify : Nat := 0
  /-- Snapshots (R484–R497). -/
  snap : Snap := {}
  /-- HDIE_ERROR (R537, R539): the record held (word 0 without VALID), the last released, and ERROR_ADDR. -/
  hdieErr : Option Nat := none
  hdieErrKeep : Nat := 0
  hdieErrAddr : Nat := 0
  /-- Power domains (R439). -/
  doms : Tbl Dom := []
  /-- The package-wide hold is engaged (R450). -/
  hold : Bool := false
  /-- The error log (R463), its count of entries written, and the proof passes pending with their log position. -/
  errLog : Tbl ErrRec := []
  errCount : Nat := 0
  proofs : List (ProofUnit × Nat) := []
  /-- Event calendar (R479): entries by index, entries ever made, and those not yet committed; the power cycle and the
  power-on seconds at reset release. -/
  cal : Tbl CalRec := []
  calSeq : Nat := 0
  calDone : Nat := 0
  powerCycle : Nat := 0
  powerOnBase : Nat := 0
  /-- TIME by which TIME has been stepped (R455), which is no power-on time, and the TIME of the last commit of counts (R477). -/
  stepped : Nat := 0
  countsAt : Nat := 0
  /-- The last P10 readings, at most 1 ms of them, newest first (R444). -/
  p10s : List Nat := []
  /-- TIME of the last 1 µs occupancy sample (R474). -/
  occAt : Nat := 0
  /-- Histogram monitors (R474–R476). -/
  mons : Tbl Mon := []
  /-- Spare rows already used, by unit key (R466). -/
  spareUsed : Tbl Nat := []
  /-- Latent faults of the hardware, brought about by the outside world: ME and solver arrays (1 transient, 2 lasting) and parity inside a
  core (R462). -/
  meFault : Tbl Nat := []
  seFault : Tbl Nat := []
  coreFault : Tbl Bool := []
  /-- Proof passes that have found their outcome and not yet ended (R465). -/
  proofDone : List ProofEnd := []
  /-- Physical cores that sparing has retired (R471), F-die buffer banks disabled (R466), error counts committed in
  earlier cycles, and the two copies of the lifetime records
  (R477). -/
  retired : Tbl Bool := []
  banksOff : List Nat := []
  errBase : Tbl Nat := []
  nvmA : Nvm := {}
  nvmB : Nvm := {}
  /-- Core stores are being zeroed (R279). -/
  zeroing : Bool := false
  /-- An over-temperature trip is latched (R571). -/
  tripped : Bool := false
  /-- The last reading (R444) in W, the TIME since which the hold is engaged, and launches admitted within ADMIT_SETTLE: their TIME
  and counted cost in 0.01 mW (R446). -/
  p10 : Nat := 0
  p1m : Nat := 0
  holdSince : Nat := 0
  admits : List (Nat × Nat) := []
  /-- Increment of TIME at an edge in units of 2^-32 ns (R454), and the TIME of the last 802.1AS time (R456). -/
  tick : Nat := 10 * 2 ^ 32
  lastSync : Nat := 0
  /-- Setup image slots and the one used more recently (R504, R506). -/
  setup0 : Option SetupImg := none
  setup1 : Option SetupImg := none
  setupNew : Nat := 1
  /-- Fovis (R509–R529): mailboxes, replies kept, frames sent on the field network (destination, port, bytes), what the arbiter holds in
  order of arrival, datagrams being reassembled, a WRITE waiting for its action, and the bundle buffer. -/
  mboxes : Tbl Mbox := []
  cached : List CachedReply := []
  sent : List NetOut := []
  /-- The UDP port in force (R530), the neighbours whose address is resolved, and whether the own address was found to be a duplicate (R510). -/
  netPort : Nat := 46512
  neigh : List Nat := []
  netDup : Bool := false
  rxq : List FovisHeld := []
  reasm : List Reasm := []
  fovisPend : Option FovisPend := none
  bundle : Option BundleBuf := none
  /-- Dispatch rings (R540). -/
  rings : Tbl Ring := []
  /-- The CXL endpoint (R545–R549) and the trust unit (R550–R562). -/
  cxl : Cxl := {}
  trust : Trust := {}
  deriving DecidableEq, Repr

/-- Right after reset release (R567): TIME 0; every stack and every port trains, core stores are being zeroed, and the lifetime
records are being read; everything else at its reset value, and no command waiting. DESIGN CHOICE (log entry 13, 95). -/
def State.reset : State :=
  { pending := [],
    dict := (List.range 16).map (fun i => (Config.kStackState + i, 1)) ++ (List.range 64).map (fun p => (Config.kPortState + p, 2 ^ 24)),
    stackWork := (List.range 16).map (fun i => (i, [1, 2])),
    zeroing := true,
    nvmA := nvmSeal {} }

end Sys2Proof.Machine
end

