-- ==== Sys2Proof/Machine/Ops.lean ====
section
/-! DEFINITION. The named operations over the state that every family shares: TIME, dictionary entries, cores and their
map, the forme log, colophon tallies, flags and captures, error log, token counters and queues, core-store tiles. -/
namespace Sys2Proof.Machine
open Sys2Proof Config

/-! ### TIME and the dictionary -/

/-- TIME in ns (R9, R454). -/
def timeNs (s : State) : Nat := s.timeFx / 2 ^ 32 % 2 ^ 64

/-- TIME has reached at least `t` ns; it never decreases (R454). DESIGN CHOICE (log entry 4, 20). -/
def atTime (s : State) (t : Nat) : State :=
  { s with timeFx := max s.timeFx (2 ^ 32 * t) }

/-- What no command changes but power, reset and a trip: the queue of waiting commands, the fuses, and whether the package is in
reset (R1, R566, R571). -/
def keep (s t : State) : State := { t with pending := s.pending, up := s.up, grade := s.grade, tripped := s.tripped }

/-- What a command does: `t`, and nothing while the package is in reset (R566). DEDUCED (log entry 6). DESIGN CHOICE (log entry 7). -/
def whenUp (s t : State) : Host.Outcome State Fault Refusal := .next (if s.up then keep s t else s)

/-- With no command waiting TIME goes on by one edge of its 100 MHz clock (R454); in reset it stands still. DESIGN CHOICE (log entry 3). -/
def idle (s : State) : State := if s.up then { s with timeFx := s.timeFx + s.tick } else s

/-- A dictionary value. -/
def dget (s : State) (k : Nat) : Nat := tblGet dictDflt s.dict k

/-- Set a dictionary value. -/
def dset (s : State) (k v : Nat) : State := { s with dict := tblSet dictDflt s.dict k v }

/-- Count on a 64-bit saturating counter (R98, R139 and the counter rules of every chapter). DESIGN CHOICE (log entry 148). -/
def dcount (s : State) (k n : Nat) : State := if n = 0 then s else dset s k (satAdd (2 ^ 64 - 1) (dget s k) n)

/-- The determinism lock (R411): the scope is FIXED or CANON. -/
def locked (s : State) : Bool := dget s kDeterminismScope != 0

/-- Numbers of the phases (R21). -/
abbrev phIdle : Nat := 0
/-- START (R21). -/
abbrev phStart : Nat := 1
/-- RUN (R21). -/
abbrev phRun : Nat := 2
/-- TEST (R21). -/
abbrev phTest : Nat := 3
/-- RECOVERY (R21). -/
abbrev phRecovery : Nat := 4
/-- TEARDOWN (R21). -/
abbrev phTeardown : Nat := 5

/-- The job phase (R21). -/
def phase (s : State) : Nat := dget s kJobPhase

/-- FLUSH is in force (R75). -/
def flushOn (s : State) : Bool := dget s kSubnormals == 1

/-- The rounding mode an RM code names (R68). -/
def rmCode : Nat → Rm
  | 2 => .rtz
  | 3 => .rdn
  | 4 => .rup
  | _ => .rne

/-- The rounding mode of a command: RM 0 is DEFAULT_ROUNDING (R68). -/
def rmOf (s : State) (rm : Nat) : Rm := if rm = 0 then rmCode (dget s kDefaultRounding) else rmCode rm

/-- RM values 5–7 are reserved (R68). -/
def rmOk (rm : Nat) : Bool := rm ≤ 4

/-! ### Cores -/

/-- Logical cores per A-die (R38). -/
def coresPerDie (s : State) : Nat := if s.grade = 2 then 1152 else 1280

/-- The package logical core number names a core (R39). -/
def coreNamed (s : State) (n : Nat) : Bool := n < 10240 && n % 1280 < coresPerDie s

/-- The core map at manufacturing test: logical core l on physical core l of its die. DESIGN CHOICE (log entry 14). -/
def coreMapDflt (n : Nat) : Option Nat := some (n % 1280)

/-- The key of the physical core that holds logical core `n`: none when it names no core or is out of service (R473). DESIGN CHOICE (log entry 14). -/
def keyOf (s : State) (n : Nat) : Option Nat :=
  if coreNamed s n then (tblGet coreMapDflt s.coreMap n).map (fun p => 1344 * (n / 1280) + p) else none

/-- Every physical core at reset. -/
def coreDflt : Nat → Core := fun _ => {}

/-- The physical core at key `k`. -/
def coreAt (s : State) (k : Nat) : Core := tblGet coreDflt s.cores k

/-- Put a physical core. -/
def putCore (s : State) (k : Nat) (c : Core) : State := { s with cores := tblSet coreDflt s.cores k c }

/-- Change a physical core. -/
def modCore (s : State) (k : Nat) (f : Core → Core) : State := putCore s k (f (coreAt s k))

/-- Solver engine, numbered 8d + g, that serves logical core `n` (R39). -/
def engineOf (s : State) (n : Nat) : Nat := 8 * (n / 1280) + 8 * (n % 1280) / coresPerDie s

/-- Physical coordinate of this package with DIE and UNIT zero (R43, R45). -/
def ownCoord (s : State) : Nat :=
  dget s kChassisNumber % 4096 * 2 ^ 20 + dget s kBoardNumber % 16 * 2 ^ 16 + dget s kPackagePosition % 4 * 2 ^ 14

/-- This package as a flit's DST or SRC (R342): bits [31:14] of its coordinate. -/
def ownPkg (s : State) : Nat := ownCoord s / 2 ^ 14

/-- Physical coordinate of unit `u` of die `d` (R43, R44). -/
def unitCoord (s : State) (d u : Nat) : Nat := ownCoord s + d * 2 ^ 11 + u

/-! ### Launch and colophon tallies (R424) -/

/-- Every colophon context at reset. -/
def ctxDflt : Nat → Ctx := fun _ => {}
/-- Colophon context `c`. -/
def ctxAt (s : State) (c : Nat) : Ctx := tblGet ctxDflt s.ctxs c
/-- Change colophon context `c`. -/
def modCtx (s : State) (c : Nat) (f : Ctx → Ctx) : State := { s with ctxs := tblMod ctxDflt s.ctxs c f }

/-- Contribute to the context a launch is bound to, while that invocation is OPEN or CLOSING (R424, R430). DEDUCED (log entry 85). -/
def contribute (s : State) (bind : Option (Nat × Nat)) (f : Ctx → Ctx) : State :=
  match bind with
  | none => s
  | some (c, inv) =>
    let x := ctxAt s c
    if (x.state = 1 || x.state = 2) && x.invocation = inv then modCtx s c f else s

/-- Largest 32-bit count (R424). -/
abbrev max32 : Nat := 2 ^ 32 - 1

/-- The binding of the launch running on a core. -/
def bindOf (c : Core) : Option (Nat × Nat) := match c.run with | some r => r.bind | none => none

/-- Skips count in the invocation's colophon (R3, R424). DEDUCED (log entry 26). -/
def tallySkip (s : State) (k : Nat) : State :=
  contribute s (bindOf (coreAt s k)) (fun x => { x with skip := satAdd max32 x.skip 1 })

/-- Units poisoned by a command count in the colophon (R424). -/
def tallyPoison (s : State) (k n : Nat) : State :=
  if n = 0 then s else contribute s (bindOf (coreAt s k)) (fun x => { x with poison := satAdd max32 x.poison n })

/-- Flags of engine class `cls` (0 CC, 1 ME, 2 VE, 3 solver engine, 4 NMU, 5 collective) OR-ed into the colophon. -/
def tallyFlags (s : State) (k cls : Nat) (f : Flags) : State :=
  if f = noFlags then s
  else contribute s (bindOf (coreAt s k)) (fun x => { x with flags := Nat.lor x.flags (flagsNat f * 16 ^ cls) })

/-- Insert a digest into a list in increasing order as big-endian integers, once (R426). -/
def insDigest (d : List Byte) : List (List Byte) → List (List Byte)
  | [] => [d]
  | h :: t => if d = h then h :: t else if beNat d < beNat h then d :: h :: t else h :: insDigest d t

/-- A program leaf of a bound launch: at most 1,024 distinct leaves are kept, a further one marks LOST (R424, R426). -/
def addProgLeaf (x : Ctx) (d : List Byte) : Ctx :=
  let l := insDigest d x.prog
  if l.length ≤ 1024 then { x with prog := l }
  else { x with states := x.states.set 0 (Nat.lor (x.states.getD 0 0) 4) }

/-! ### The forme log (R133–R135) -/

/-- Append an event to the forme log of physical core `k`, or count it in DROPPED (R135). -/
def logEvent (s : State) (k source code off iter : Nat) : State :=
  let c := coreAt s k
  let slot := match c.run with | some r => r.slot | none => c.lastSlot
  if c.log.length < 64 then
    putCore s k { c with log := c.log ++ [⟨c.launchSeq, slot, source, code, off, iter⟩] }
  else dcount (putCore s k { c with dropped := satAdd max32 c.dropped 1 }) kLogDroppedTotal 1

/-! Status codes (R16, R134). -/
abbrev stOk : Nat := 0x00
abbrev stIllegal : Nat := 0x01
abbrev stFused : Nat := 0x02
abbrev stDet : Nat := 0x03
abbrev stPhase : Nat := 0x04
abbrev stBounds : Nat := 0x05
abbrev stPartial : Nat := 0x06
abbrev stChecksum : Nat := 0x07
abbrev stPoison : Nat := 0x08
abbrev stCollTimeout : Nat := 0x09
abbrev stCollAbort : Nat := 0x0A
abbrev stEpochStale : Nat := 0x0B
abbrev stAtomicUnknown : Nat := 0x0C
abbrev stReuse : Nat := 0x0D
abbrev stPivot : Nat := 0x0E
abbrev stRangeSat : Nat := 0x0F
abbrev stDenied : Nat := 0x10
abbrev stSeal : Nat := 0x11
abbrev cdPatchRange : Nat := 0x81
abbrev cdQueueMismatch : Nat := 0x82
abbrev cdTokenOverflow : Nat := 0x83
abbrev cdTokenStall : Nat := 0x84
abbrev cdSelectInvalid : Nat := 0x85

/-- The place of a status in the order of R20: lower is reported first; OK and skips are last. -/
def endRank : Nat → Nat
  | 0x09 => 1
  | 0x0A => 2
  | 0x07 => 3
  | 0x08 => 4
  | 0x06 => 5
  | 0x0C => 6
  | 0x0D => 7
  | 0x0F => 8
  | 0x0E => 9
  | _ => 10

/-- Combine two end conditions (R20). -/
def worse (a b : Nat) : Nat := if endRank b < endRank a then b else a

/-! ### Flags and captures (R90–R97) -/

/-- The capture words of an event (R95). -/
def capW0 (fl : Flags) (slot iter off : Nat) : Word :=
  BitVec.ofNat 64 (2 ^ 63 + flagsNat fl * 2 ^ 56 + slot % 16 * 2 ^ 52 + iter % 2 ^ 32 * 2 ^ 20 + off % 2 ^ 16 * 2 ^ 4)
/-- Word 1 of a capture (R95). -/
def capW1 (tile kblk elem : Nat) : Word :=
  BitVec.ofNat 64 (tile % 2 ^ 16 * 2 ^ 48 + kblk % 2 ^ 16 * 2 ^ 32 + elem % 2 ^ 6)

/-- An event raises its flags, and is captured when it raises an armed flag while no capture is held (R95). -/
def raiseEv (b : FlagBlk) (slot iter off core : Nat) (e : FlagEv) : FlagBlk :=
  let fl := flagsNat e.fl
  let b' := { b with flags := b.flags ||| BitVec.ofNat 4 fl }
  if Nat.land fl b.arm.toNat != 0 && !b.cap0.getLsbD 63 then
    { b' with cap0 := capW0 e.fl slot iter off, cap1 := capW1 e.tile e.kblk e.elem, capCore := core }
  else b'

/-- All events of a command, in the order of R95. -/
def raiseAll (b : FlagBlk) (slot iter off core : Nat) (es : List FlagEv) : FlagBlk :=
  es.foldl (fun b e => raiseEv b slot iter off core e) b

/-- The OR of the flags of events. -/
def evFlags (es : List FlagEv) : Flags := es.foldl (fun f e => orFlags f e.fl) noFlags

/-- Slot of the running launch. -/
def slotOf (c : Core) : Nat := match c.run with | some r => r.slot | none => c.lastSlot

/-- Flag events of the CC (class 0), ME (1) or VE (2) of physical core `k`, with the offset and iteration of the command. -/
def coreFlags (s : State) (k cls off iter : Nat) (es : List FlagEv) : State :=
  let c := coreAt s k
  let up := fun b => raiseAll b (slotOf c) iter off 0 es
  let c' := match cls with
    | 0 => { c with ccF := up c.ccF }
    | 1 => { c with meF := up c.meF }
    | _ => { c with veF := up c.veF }
  tallyFlags (putCore s k c') k cls (evFlags es)

/-! ### The error log and proof passes (R462–R466) -/

/-- Errors at no unit. -/
def errDflt : Nat → ErrRec := fun _ => ⟨0, 0, 0, 0, 0, 0⟩

/-- Write an entry of the error log and count the error (R463, R464). -/
def errEntry (s : State) (cls unit detail outcome : Nat) : State :=
  let i := s.errCount
  let s1 := { s with errLog := tblSet errDflt s.errLog (i % 1024) ⟨timeNs s, cls, outcome, unit, detail, i % 2 ^ 32⟩,
                     errCount := i + 1 }
  let s2 := dcount s1 (kErrors + (cls - 1)) 1
  if 1024 ≤ i then dcount s2 kErrorLogOverwrites 1 else s2

/-- A detected error: logged PENDING and its proof pass made due, or JOINED to one already due (R464, R465). -/
def detect (s : State) (cls unit detail : Nat) (u : ProofUnit) : State :=
  if s.proofs.any (fun p => p.1 == u) then errEntry s cls unit detail 4
  else { errEntry s cls unit detail 0 with proofs := s.proofs ++ [(u, s.errCount)] }

/-- Set the OUTCOME of the entry written as number `i`, unless it has been overwritten (R464). -/
def errOutcome (s : State) (i outcome : Nat) : State :=
  let e := tblGet errDflt s.errLog (i % 1024)
  if i < s.errCount && s.errCount ≤ i + 1024 then
    { s with errLog := tblSet errDflt s.errLog (i % 1024) { e with outcome := outcome } }
  else s

/-! ### The event calendar and the monitors (R475, R479) -/

/-- The lifetime records change no more: an orderly shutdown has reached SAFE (R481). -/
def recordsSafe (s : State) : Bool := dget s kLifetimeState == 2

/-- Power-on seconds over the package's life: a step of TIME is none (R455), and after SAFE they stand as committed (R481). -/
def powerOnS (s : State) : Nat :=
  if recordsSafe s then max s.nvmA.seconds s.nvmB.seconds else s.powerOnBase + (timeNs s - s.stepped) / 1000000000

/-- Entries of the calendar at no event. -/
def calDflt : Nat → CalRec := fun _ => ⟨0, 0, 0, 0, 0, 0, 0, 0⟩

/-- Enter an event in the calendar (R479), but not after SAFE (R481). -/
def calEvent (s : State) (ev unit detail : Nat) : State :=
  if recordsSafe s then s
  else
    let r : CalRec := ⟨s.calSeq % 2 ^ 32, s.powerCycle, timeNs s, powerOnS s, ev, dget s kTimeState, unit, detail⟩
    { s with cal := tblSet calDflt s.cal (s.calSeq % 65536) r, calSeq := s.calSeq + 1 }

/-- Bin of a sample (R475). -/
def monBin (v : Nat) : Nat := if v = 0 then 0 else if v < 2 ^ 31 then flog2 v + 1 else 31

/-- Fold a sample into accumulators. -/
def monAdd (a : MonAcc) (v : Nat) : MonAcc :=
  { min := min a.min v, max := max a.max v, count := satAdd (2 ^ 64 - 1) a.count 1, sum := satAdd (2 ^ 64 - 1) a.sum v,
    bins := tblSet (fun _ => 0) a.bins (monBin v) (satAdd max32 (tblGet (fun _ => 0) a.bins (monBin v)) 1) }

/-- Windows that have ended by `now` are latched: RESULT holds the last of them (R475). -/
def monRoll (now : Nat) (x : Mon) : Mon :=
  let n := (now - x.start) / x.window
  if x.window = 0 || n = 0 then x
  else
    let e := x.start + n * x.window
    { x with res := if n = 1 then x.acc else {}, resStart := e - x.window, resEnd := e, acc := {}, start := e }

/-- The accumulators of a monitor after a sample at `now`, which belongs to the window that holds `now`; with WINDOW_NS at 0, RESULT
follows them (R475). -/
def monSampled (now : Nat) (x0 : Mon) (v : Nat) : Mon :=
  let x := monRoll now x0
  let a := monAdd x.acc v
  if x.window = 0 then { x with acc := a, res := a, resStart := x.start, resEnd := 0 } else { x with acc := a }

/-- A sample of source (kind, sub, unit), into every monitor that takes it. -/
def monSample (s : State) (kind sub unit v : Nat) : State :=
  { s with mons := s.mons.map (fun m =>
      if m.2.source = kind * 2 ^ 24 + sub * 2 ^ 16 + unit then (m.1, monSampled (timeNs s) m.2 v) else m) }

/-! ### Token counters and queues (R126–R131) -/

/-- Code of a waiter, in the serving order of R130. -/
def waiterCode : Waiter → Nat
  | .cc => 0
  | .me => 1
  | .ve => 2
  | .de => 3
  | .cq => 4
  | .se => 5

/-- Value of token counter `t`. -/
def tok (c : Core) (t : Nat) : Nat := tblGet (fun _ => 0) c.tokens t
/-- Set token counter `t`. -/
def setTok (c : Core) (t v : Nat) : Core := { c with tokens := tblSet (fun _ => 0) c.tokens t v }

/-- The queue of a unit. -/
def queueOf (c : Core) : QueueId → List Cmd
  | .mq => c.mq
  | .vq => c.vq
  | .dq => c.dq
  | .cq => c.cq
  | .sq => c.sq

/-- Replace a queue. -/
def setQueue (c : Core) (q : QueueId) (l : List Cmd) : Core :=
  match q with
  | .mq => { c with mq := l }
  | .vq => { c with vq := l }
  | .dq => { c with dq := l }
  | .cq => { c with cq := l }
  | .sq => { c with sq := l }

/-- Depth of a queue (R126). -/
def queueDepth : QueueId → Nat
  | .mq => 16
  | .vq => 16
  | .dq => 32
  | .cq => 8
  | .sq => 8

/-- The waiter that a queue's engine is. -/
def queueWaiter : QueueId → Waiter
  | .mq => .me
  | .vq => .ve
  | .dq => .de
  | .cq => .cq
  | .sq => .se

/-- Source code of a queue's engine in the forme log (R133). -/
def queueSource : QueueId → Nat
  | .mq => 1
  | .vq => 2
  | .dq => 3
  | .cq => 4
  | .sq => 5

/-- QCLASS, OPCODE and CTRL of word 0 (R151). -/
def w0Class (w : Word) : Nat := fld w 63 61
/-- OPCODE (R151). -/
def w0Op (w : Word) : Nat := fld w 60 54
/-- WAIT_T and WAIT_N (R151). -/
def w0Wait (w : Word) : Nat × Nat := (fld w 53 49, fld w 48 41)
/-- POST_T and POST_N (R151). -/
def w0Post (w : Word) : Nat × Nat := (fld w 40 36, fld w 35 28)

/-- What the head of a waiter's queue waits for: none without a head, a template or a wait count (R129, R152). -/
def headWait (c : Core) : Waiter → Option (Nat × Nat)
  | .cc => c.ccWait
  | w =>
    let q := match w with | .me => c.mq | .ve => c.vq | .de => c.dq | .cq => c.cq | _ => c.sq
    match q with
    | [] => none
    | x :: _ => if x.bare || (w0Wait x.w0).2 = 0 then none else some (w0Wait x.w0)

/-- The wait state of a waiter. -/
def waitOf (c : Core) (w : Waiter) : WaitSt := tblGet (fun _ => .idle) c.waits (waiterCode w)
/-- Set the wait state of a waiter. -/
def setWait (c : Core) (w : Waiter) (x : WaitSt) : Core :=
  { c with waits := tblSet (fun _ => .idle) c.waits (waiterCode w) x }

/-- One waiter meets its counter: it takes its count at once if the counter suffices, and is held otherwise (R129, R131); a stopped DE takes no wait (R322). DEDUCED (log entry 35). -/
def serve (t : Nat) (c : Core) (w : Waiter) : Core :=
  if w == .de && c.de.stop then c
  else match headWait c w with
  | none => setWait c w .idle
  | some (k, n) =>
    match waitOf c w with
    | .done => c
    | x =>
      if n ≤ tok c k then setWait (setTok c k (tok c k - n)) w .done
      else match x with
        | .held t0 => setWait c w (.held t0)
        | _ => setWait c w (.held t)

/-- Every waiter meets its counter, in the order of R130. DEDUCED (log entry 35). -/
def settle (t : Nat) (c : Core) : Core := [Waiter.cc, .me, .ve, .de, .cq, .se].foldl (serve t) c

/-- The head of a queue may be taken: its wait is satisfied, or it has none (R126, R152). -/
def headReady (c : Core) (q : QueueId) : Bool :=
  match headWait c (queueWaiter q) with
  | none => !(queueOf c q).isEmpty
  | some _ => waitOf c (queueWaiter q) == .done

/-- Take the head of a queue: its entry is free and the next command becomes the head (R126). -/
def takeHead (t : Nat) (c : Core) (q : QueueId) : Core :=
  settle t (setWait (setQueue c q (queueOf c q).tail) (queueWaiter q) .idle)

/-- A post of `cnt` to counter `t` by `source` (R129), and the waits it satisfies (R130). -/
def postTok (s : State) (k t cnt source off iter : Nat) : State :=
  if cnt = 0 then s
  else
    let c := coreAt s k
    let v := tok c t + cnt
    let s1 := if v > 65535 then logEvent s k source cdTokenOverflow off iter else s
    modCore s1 k (fun c => settle (timeNs s) (setTok c t (min v 65535)))

/-- The post of a command (R128, R152). -/
def postCmd (s : State) (k source : Nat) (x : Cmd) : State :=
  if x.bare then s else postTok s k (w0Post x.w0).1 (w0Post x.w0).2 source x.off x.iter

/-- The end of an engine command with a status: a status other than OK is logged, a skip counts in the colophon, and the
command posts (R18, R165, R424). DEDUCED (log entry 26). -/
def isSkip (st : Nat) : Bool := (1 ≤ st && st ≤ 5) || st == stEpochStale

/-- The dictionary takes a write now: the lifetime records are loaded and no write waits for its action (R522, R525). -/
def dictOpen (s : State) : Bool := dget s kLifetimeState != 0 && s.fovisPend.isNone && s.epochAdv.isNone && s.rxq.isEmpty

/-- A write of an entry on a row of its own: it acts, or the arbiter holds it (R522, R525). DEDUCED (log entry 107). -/
def dictWrite (k v : Nat) (act : State → State) (s : State) (hart : Option Nat := none) : State :=
  if dictOpen s then act s else { s with rxq := s.rxq ++ [.entry k v hart] }

/-- Insert a number into a strictly rising list. -/
def insNat : Nat → List Nat → List Nat
  | x, [] => [x]
  | x, y :: t => if x < y then x :: y :: t else if x = y then y :: t else y :: insNat x t

/-- The union of number lists as a strictly rising list. -/
def unionNat (xs ys : List Nat) : List Nat := xs.foldl (fun a x => insNat x a) ys

/-- Note the units that the command which engine `src` of core `k` executes has poisoned: tiles as 128·core + tile, lines as 2^64 + line. -/
def notePoison (s : State) (k src : Nat) (us : List Nat) : State :=
  if us.isEmpty then s else modCore s k (fun c => { c with pois := tblMod (fun _ => []) c.pois src (unionNat us) })

/-- The units that the command has poisoned count in the colophon, each once (R424). -/
def tallyUnits (s : State) (k src : Nat) : State :=
  let us := tblGet (fun _ => []) (coreAt s k).pois src
  if us.isEmpty then s
  else tallyPoison (modCore s k (fun c => { c with pois := tblSet (fun _ => []) c.pois src [] })) k us.length

/-- Retire a command: units poisoned, log, skip tally, post. -/
def retire (s0 : State) (k source : Nat) (x : Cmd) (st : Nat) : State :=
  let s := tallyUnits s0 k source
  let s1 := if st = 0 then s else logEvent s k source st x.off x.iter
  let s2 := if isSkip st then tallySkip s1 k else s1
  postCmd s2 k source x

/-! ### Core-store tiles (R273–R277) -/

/-- Tiles at reset: zero bytes, checksum 0, no poison (R279). -/
def tileDflt : Nat → TileMeta := fun _ => {}
/-- Metadata of tile `t`. -/
def tileAt (c : Core) (t : Nat) : TileMeta := tblGet tileDflt c.tiles t
/-- Change the metadata of tile `t`. -/
def modTile (c : Core) (t : Nat) (f : TileMeta → TileMeta) : Core := { c with tiles := tblMod tileDflt c.tiles t f }

/-- Bytes of the core store. -/
def storeRead (c : Core) (a n : Nat) : List Byte := memRead c.store a n

/-- CRC-64 of the 4,096 bytes of a tile as stored. -/
def tileCrcOf (c : Core) (t : Nat) : Nat :=
  crc64Cells (4096 * t + 4096) (4096 * t) 0 ((c.store.dropWhile (fun x => x.1 < 4096 * t)).takeWhile (fun x => x.1 < 4096 * t + 4096))

/-- Tiles that the range [a, a + n) touches. -/
def tilesOf (a n : Nat) : List Nat := if n = 0 then [] else (List.range ((a + n - 1) / 4096 + 1 - a / 4096)).map (· + a / 4096)

/-- XOR of two byte lists of one length. -/
def xorBytes : List Byte → List Byte → List Byte
  | x :: xs, y :: ys => (x ^^^ y) :: xorBytes xs ys
  | _, _ => []

/-- The checksum contribution of a difference at offset `o` of its tile (the CRC is linear, R275). -/
def diffCrc (o : Nat) (d : List Byte) : Nat := crc64Zeros (4096 - o - d.length) (crc64 d)

/-- Write bytes that lie within one tile, updating its checksum by difference (R275). -/
def writeInTile (c : Core) (a : Nat) (bs : List Byte) : Core :=
  let old := storeRead c a bs.length
  let c1 := modTile c (a / 4096) (fun m => { m with crc := Nat.xor m.crc (diffCrc (a % 4096) (xorBytes old bs)) })
  { c1 with store := memWrite c1.store a bs }

/-- Split a write at tile boundaries (structural in `fuel`, the number of tiles). -/
def writeGo : Nat → Core → Nat → List Byte → Core
  | 0, c, _, _ => c
  | f + 1, c, a, bs =>
    if bs.isEmpty then c
    else
      let n := 4096 - a % 4096
      writeGo f (writeInTile c a (bs.take n)) (a + n) (bs.drop n)

/-- A write of the core store by any unit but a whole-tile DE or NMU write (R275). -/
def storeWrite (c : Core) (a : Nat) (bs : List Byte) : Core := writeGo (bs.length / 4096 + 2) c a bs

/-- A whole-tile write by the DE or an NMU: the checksum is that of the new bytes (R275). -/
def storeWriteTile (c : Core) (t : Nat) (bs : List Byte) : Core :=
  let c1 := { c with store := memWrite c.store (4096 * t) bs }
  modTile c1 t (fun m => { m with crc := crc64 bs })

/-- Package-local address of offset `a` of the core-store window of logical core `n` (R40). -/
def windowAddr (n a : Nat) : Nat := 0x100000000000 + n * 0x100000 + a

/-- The logical core that a physical core holds: its die's logical core mapped to it, the physical number itself when
it holds none (for log addresses only). -/
def logicalOf (s : State) (k : Nat) : Nat :=
  match (s.coreMap.find? (fun x => x.2 == some (k % 1344) && x.1 / 1280 == k / 1344)).map (·.1) with
  | some n => n
  | none => 1280 * (k / 1344) + k % 1344

/-- A consumption verifies tile `t` and reads its poison bit (R276); a failure is counted, logged and makes the block's
proof pass due. -/
def verifyTile (s : State) (k t : Nat) : State × Nat :=
  let c := coreAt s k
  let m := tileAt c t
  if tileCrcOf c t = m.crc then (s, if m.poison then stPoison else stOk)
  else
    (detect (dcount s kTileChecksumFailures 1) 4 (unitCoord s (k / 1344) (k % 1344)) (windowAddr (logicalOf s k) (4096 * t))
      (.sram (16 * k + t / 8)), stChecksum)

/-- Verify tiles in order, combining their conditions (R20). -/
def verifyTiles (s : State) (k : Nat) (ts : List Nat) : State × Nat :=
  ts.foldl (fun (x : State × Nat) t => let r := verifyTile x.1 k t; (r.1, worse x.2 r.2)) (s, stOk)

/-- Indices 0 to n − 1 paired with a list. -/
def idx {α : Type} (l : List α) : List (Nat × α) := (List.range l.length).zip l

/-- The tiles of several ranges, each once, rising (R276: a command verifies a tile at its first read of it). -/
def tilesOfRanges (rs : List (Nat × Nat)) : List Nat := rs.foldl (fun a r => unionNat (tilesOf r.1 r.2) a) []

/-- Verify the tiles of ranges but those that the command has verified before (R276). -/
def verifyNew (s : State) (k : Nat) (seen : List Nat) (rs : List (Nat × Nat)) : State × Nat :=
  verifyTiles s k ((tilesOfRanges rs).filter (fun t => !seen.contains t))

/-- Set the poison bit of tiles. -/
def setPoison (c : Core) (ts : List Nat) : Core := ts.foldl (fun c t => modTile c t (fun m => { m with poison := true })) c

/-- The command of engine `src` poisons tiles of its core (R424). -/
def poisonTiles (s : State) (k src : Nat) (ts : List Nat) : State :=
  notePoison (modCore s k (fun c => setPoison c ts)) k src (ts.map (128 * k + ·))

/-- The command of engine `src` writes its output to the core store; after a CORE_INTERNAL error every tile written is poisoned (R468). -/
def cmdWrite (s : State) (k src a : Nat) (bs : List Byte) : State :=
  let s1 := modCore s k (fun c => storeWrite c a bs)
  if (coreAt s k).internal then poisonTiles s1 k src (tilesOf a bs.length) else s1

/-- A CC instruction writes the core store; after a CORE_INTERNAL error every tile written is poisoned, and counts once (R424, R468). -/
def engineWrites (s : State) (k : Nat) (ws : List (Nat × List Byte)) : State :=
  let s1 := modCore s k (fun c => ws.foldl (fun c w => storeWrite c w.1 w.2) c)
  if (coreAt s k).internal then
    let ts := tilesOfRanges (ws.map (fun w => (w.1, w.2.length)))
    tallyPoison (modCore s1 k (fun c => setPoison c ts)) k ts.length
  else s1

/-- One such write. -/
def engineWrite (s : State) (k a : Nat) (bs : List Byte) : State := engineWrites s k [(a, bs)]

/-- A range lies within the core store (R153). -/
def inStore (a n : Nat) : Bool := n = 0 || a + n ≤ 0x80000

end Sys2Proof.Machine
end

