-- ==== Sys2Proof/Machine/CcOps.lean ====
section
/-! DEFINITION. The control core's shared machinery: registers, formes, fetch, illegality (R150), predicates (R124),
iterations (R119), the FP64 scalar operations (R101), short vectors (R106), PUSH (R127) and token waits. -/
namespace Sys2Proof.Machine
open Sys2Proof Config

/-! ### Registers (R100) -/

/-- Read g; g0 reads zero. -/
def gGet (r : CcRegs) (i : Nat) : Word := if i = 0 then 0 else tblGet (fun _ => 0) r.g i
/-- Write g; writes of g0 are discarded. -/
def gSet (r : CcRegs) (i : Nat) (v : Word) : CcRegs := if i = 0 then r else { r with g := tblSet (fun _ => 0) r.g i v }
/-- Lane j of w. -/
def wGet (r : CcRegs) (i j : Nat) : Word := tblGet (fun _ => 0) r.w (8 * i + j)
/-- Write lane j of w. -/
def wSet (r : CcRegs) (i j : Nat) (v : Word) : CcRegs := { r with w := tblSet (fun _ => 0) r.w (8 * i + j) v }
/-- f is lane 0 of w. -/
def fGet (r : CcRegs) (i : Nat) : Word := wGet r i 0
/-- Write f: lanes 1–7 are unchanged. -/
def fSet (r : CcRegs) (i : Nat) (v : Word) : CcRegs := wSet r i 0 v
/-- Predicate p; p0 reads 1. -/
def pGet (r : CcRegs) (i : Nat) : Bool := i = 0 || r.p.getLsbD i
/-- Write p; writes of p0 are discarded. -/
def pSet (r : CcRegs) (i : Nat) (v : Bool) : CcRegs :=
  if i = 0 then r else { r with p := BitVec.ofNat 8 (setBits r.p.toNat i i (b2n v)) }
/-- Summary register. -/
def sumGet (r : CcRegs) (i : Nat) : Word := tblGet (fun _ => 0) r.sum i
/-- Write a summary register. -/
def sumSet (r : CcRegs) (i : Nat) (v : Word) : CcRegs := { r with sum := tblSet (fun _ => 0) r.sum i v }

/-! ### Formes (R110, R111) -/

/-- Byte offset in the forme store of the forme in slot `i`. -/
def slotBase (c : Core) (i : Nat) : Nat := tblGet (fun _ => 0) c.slots i % 1024 * 64
/-- VALID of slot `i`. -/
def slotValid (c : Core) (i : Nat) : Bool := bitOf (tblGet (fun _ => 0) c.slots i) 16
/-- 64-bit word of the forme store. -/
def formeWord (c : Core) (a : Nat) : Nat := leNat (memRead c.forme a 8)
/-- 32-bit instruction word of the forme store. -/
def formeInsn (c : Core) (a : Nat) : Nat := leNat (memRead c.forme a 4)
/-- Offset of the templates of a forme with `ninsn` instructions (R110). -/
def tmplOff (ninsn : Nat) : Nat := roundUp (0x40 + 4 * ninsn) 32
/-- Size of a forme. -/
def formeSize (ninsn ntmpl : Nat) : Nat := tmplOff ninsn + 32 * ntmpl
/-- Candidate field k of header word 1 (R110): VALID and slot. -/
def candField (w1 k : Nat) : Bool × Nat := (bitOf w1 (5 * k + 4), bitsOf w1 (5 * k + 3) (5 * k))

/-- Instructions executed in iteration `i` of a launch (R119, R136). -/
def insnLimit (r : Run) (i : Nat) : Nat :=
  match r.stop with
  | some n => if i + 1 = r.count then n else r.ninsn
  | none => r.ninsn

/-- Begin iteration `i` (R100, R119): g1 and svl are set; empty iterations finish at once. -/
def beginIter (c : Core) (r : Run) (i : Nat) : Core :=
  if r.ninsn = 0 then
    { c with regs := gSet { c.regs with svl := 8 } 1 (BitVec.ofNat 64 (r.count - 1)),
             run := some { r with iter := r.count - 1, pc := 0, finished := true } }
  else
    { c with regs := gSet { c.regs with svl := 8 } 1 (BitVec.ofNat 64 i),
             run := some { r with iter := i, pc := 0, finished := decide (insnLimit r i = 0) } }

/-- The CC goes on to the next instruction, or iteration, or finishes its last iteration (R119). -/
def ccNext (c : Core) : Core :=
  match c.run with
  | none => c
  | some r =>
    let c := { c with blocked := false }
    if r.pc + 1 < insnLimit r r.iter then { c with run := some { r with pc := r.pc + 1 } }
    else if r.iter + 1 < r.count then beginIter c r (r.iter + 1)
    else { c with run := some { r with pc := r.pc + 1, finished := true } }

/-! ### Instruction words (R140–R150) -/

/-- CLASS. -/
def iClass (w : Nat) : Nat := bitsOf w 27 26
/-- MINOR of class 11. -/
def iMinor (w : Nat) : Nat := bitsOf w 25 20
/-- SUB of class 01. -/
def iSub (w : Nat) : Nat := bitsOf w 25 23
/-- IOP of class 10. -/
def iIop (w : Nat) : Nat := bitsOf w 25 21
/-- D, A, B, RM, reserved and W of format TRI (R146). -/
def tD (w : Nat) : Nat := bitsOf w 19 15
/-- A. -/
def tA (w : Nat) : Nat := bitsOf w 14 10
/-- B. -/
def tB (w : Nat) : Nat := bitsOf w 9 5
/-- RM. -/
def tRm (w : Nat) : Nat := bitsOf w 4 2
/-- W. -/
def tW (w : Nat) : Bool := bitOf w 0

/-- A reserved IOP or MINOR (R145, R147). DESIGN CHOICE (log entry 33). -/
def iReserved (w : Nat) : Bool :=
  (iClass w == 2 && ((0x09 ≤ iIop w && iIop w ≤ 0x0B) || 0x10 ≤ iIop w)) || (iClass w == 3 && 0x39 ≤ iMinor w)

/-- Columns of R147 for TRI minors: D, A and B slots (0 register, 1 predicate, 2 reserved), whether RM is carried, and
whether W may be 1. -/
def triCols (m : Nat) : Nat × Nat × Nat × Bool × Bool :=
  if m ≤ 0x0D then (0, 0, 0, false, true)
  else if m ≤ 0x16 then (1, 0, 0, false, false)
  else if m ≤ 0x1B then (1, 0, 0, false, false)
  else if m ≤ 0x1E then (1, 1, 1, false, false)
  else if m = 0x1F then (1, 1, 2, false, false)
  else if m ≤ 0x23 then (0, 0, 0, true, true)
  else if m = 0x24 then (0, 0, 2, true, true)
  else if m ≤ 0x26 then (0, 0, 0, false, true)
  else if m ≤ 0x28 then (0, 0, 2, false, true)
  else if m = 0x29 then (0, 0, 0, true, true)
  else if m ≤ 0x2D then (0, 0, 2, false, false)
  else if m ≤ 0x2F then (0, 0, 0, false, false)
  else if m = 0x30 then (0, 0, 2, true, false)
  else if m = 0x31 then (0, 0, 2, false, false)
  else if m = 0x33 then (0, 0, 2, false, false)
  else (2, 0, 2, false, false)

/-- A slot breaks its column: an upper bit of a predicate slot, or a reserved slot that is not zero. -/
def slotBad (col v : Nat) : Bool := (col == 1 && 8 ≤ v) || (col == 2 && v != 0)

/-- A TRI word is illegal (R150). -/
def triBad (w : Nat) : Bool :=
  let m := iMinor w
  let (cd, ca, cb, rm, wok) := triCols m
  slotBad cd (tD w) || slotBad ca (tA w) || slotBad cb (tB w) || bitOf w 1 ||
  (if rm then !rmOk (tRm w) else tRm w != 0) || (tW w && !wok) ||
  (m == 0x29 && 4 ≤ tB w) || (m == 0x2C && 4 ≤ tA w) || (m == 0x33 && 9 ≤ tA w)

/-- The encoding of a word is illegal (R150). Values read from registers (SETSVL with SRC = 1, SETRPT) are judged when
the instruction executes. -/
def encIllegal (w : Nat) : Bool :=
  match iClass w with
  | 0 => false
  | 1 => iSub w ≤ 1 && !rmOk (bitsOf w 2 0)
  | 2 => iReserved w
  | _ =>
    let m := iMinor w
    if 0x39 ≤ m then true
    else if 0x0E ≤ m && m ≤ 0x10 then bitsOf w 3 0 != 0
    else if m = 0x34 then 5 ≤ bitsOf w 19 17
    else if m = 0x35 || m = 0x36 then bitsOf w 14 8 != 0
    else if m = 0x32 then
      bitsOf w 19 15 != 0 || bitsOf w 9 5 != 0 ||
      (if bitOf w 4 then bitsOf w 3 0 != 0 else bitsOf w 14 10 != 0 || 9 ≤ bitsOf w 3 0)
    else if m = 0x37 then bitsOf w 19 2 != 0
    else triBad w

/-- The predicate, after SENSE, is 1 (R141). -/
def predHolds (r : CcRegs) (w : Nat) : Bool := pGet r (bitsOf w 30 28) != bitOf w 31

/-- What an executing CC instruction sees: its core's key, the launch, its word and its offset in the forme. -/
structure CcX where
  n : Nat
  k : Nat
  r : Run
  w : Nat
  off : Nat
  deriving DecidableEq, Repr

/-- Change the registers of the executing core. -/
def ccRegs (x : CcX) (s : State) (f : CcRegs → CcRegs) : State :=
  modCore s x.k (fun c => { c with regs := f c.regs })

/-- The registers of the executing core. -/
def regsOf (x : CcX) (s : State) : CcRegs := (coreAt s x.k).regs

/-- An instruction is skipped with a status of R16: logged by the CC and counted in the colophon. -/
def ccSkip (x : CcX) (s : State) (code : Nat) : State := tallySkip (logEvent s x.k 0 code x.off x.r.iter) x.k

/-- The CC moves past the instruction. DEDUCED (log entry 126). -/
def ccPass (x : CcX) (s : State) : State := modCore s x.k ccNext
/-- The instruction is executed: the registers stand as the register image will hold them (R137), and the CC moves on. DEDUCED (log entry 126). -/
def ccDone (x : CcX) (s : State) : State := modCore s x.k (fun c => ccNext { c with atEnd := c.regs })

/-- A parity error inside a core is found as it works (R462, R468): it is logged, the core's proof pass is due, and every write of the
core is poisoned until its next boundary. DEDUCED (log entry 38). -/
def coreInternal (s : State) (k : Nat) : State :=
  if tblGet (fun _ => false) s.coreFault k then
    modCore (detect { s with coreFault := tblSet (fun _ => false) s.coreFault k false } 0x0A (unitCoord s (k / 1344) (k % 1344))
      (windowAddr (logicalOf s k) 0) (.core k)) k (fun c => { c with internal := true })
  else s

/-- What an instruction that is skipped does: it is logged and counted, and the CC moves past it without executing it (R14, R137).
DEDUCED (log entry 126). -/
def ccSkipped (x : CcX) (s : State) (code : Nat) : State × Bool := (ccPass x (ccSkip x s code), false)

/-- One CC instruction of logical core `n`, when the word at its place is one of `mine` (a reserved opcode is skipped by
whichever command meets it): illegal words are skipped and logged whatever their predicate; a false predicate has no
effect; otherwise `act` runs and says whether the CC moves on (R124, R150). DESIGN CHOICE (log entry 33). -/
def ccRow (n : Nat) (mine : Nat → Bool) (act : CcX → State → State × Bool) (s : State) : State :=
  match keyOf s n with
  | none => s
  | some k =>
    let c := coreAt s k
    match c.run with
    | none => s
    | some r =>
      if r.finished then s
      else
        let off := 0x40 + 4 * r.pc
        let w := formeInsn c (slotBase c r.slot + off)
        let x : CcX := ⟨n, k, r, w, off⟩
        if !(mine w || iReserved w) then s
        else
        let s := coreInternal s k
        if encIllegal w then ccPass x (ccSkip x s stIllegal)
        else if !predHolds c.regs w then ccPass x s
        else
          let o := act x s
          if o.2 then ccDone x o.1 else o.1

/-- A register instruction: it changes registers only. -/
def ccReg (n : Nat) (mine : Nat → Bool) (f : Nat → CcRegs → CcRegs) (s : State) : State :=
  ccRow n mine (fun x s => (ccRegs x s (f x.w), true)) s

/-- Class 11 words with a minor opcode and W bit as a row names them. -/
def isMinor (m : Nat) (w : Nat) : Bool := iClass w == 3 && iMinor w == m
/-- The scalar form of a minor that has a short-vector form. -/
def isScalar (m : Nat) (w : Nat) : Bool := isMinor m w && !tW w
/-- The short-vector form. -/
def isVector (m : Nat) (w : Nat) : Bool := isMinor m w && tW w

/-! ### Integer operations (R101) -/

/-- Signed view of a word. -/
def sInt (v : Word) : Int := v.toInt
/-- Shift count modulo 64. -/
def shCount (v : Word) : Nat := v.toNat % 64
/-- Logical shift left. -/
def opSll (a b : Word) : Word := a <<< shCount b
/-- Logical shift right. -/
def opSrl (a b : Word) : Word := a >>> shCount b
/-- Arithmetic shift right. -/
def opSra (a b : Word) : Word := a.sshiftRight (shCount b)
/-- High half of the unsigned product. -/
def opMulhu (a b : Word) : Word := BitVec.ofNat 64 (a.toNat * b.toNat / 2 ^ 64)
/-- Signed minimum. -/
def opMin (a b : Word) : Word := if sInt a ≤ sInt b then a else b
/-- Signed maximum. -/
def opMax (a b : Word) : Word := if sInt a ≤ sInt b then b else a
/-- Unsigned minimum. -/
def opMinu (a b : Word) : Word := if a.toNat ≤ b.toNat then a else b
/-- Unsigned maximum. -/
def opMaxu (a b : Word) : Word := if a.toNat ≤ b.toNat then b else a

/-- gD := gA op gB. -/
def triG (n m : Nat) (f : Word → Word → Word) (s : State) : State :=
  ccReg n (isScalar m) (fun w r => gSet r (tD w) (f (gGet r (tA w)) (gGet r (tB w)))) s

/-- Lanes 0 to svl − 1, the active lanes (R106). -/
def lanes (r : CcRegs) : List Nat := List.range (min r.svl 8)

/-- Active lanes of wD := op of the lanes of wA and wB. -/
def triW (n m : Nat) (f : Word → Word → Word) (s : State) : State :=
  ccReg n (isVector m) (fun w r =>
    (lanes r).foldl (fun q j => wSet q (tD w) j (f (wGet r (tA w) j) (wGet r (tB w) j))) r) s

/-- gD := gD op sign-extended IMM, class 10 (R145). -/
def immG (n iop : Nat) (f : Word → Word → Word) (s : State) : State :=
  ccReg n (fun w => iClass w == 2 && iIop w == iop)
    (fun w r => let d := bitsOf w 20 16
                gSet r d (f (gGet r d) ((BitVec.ofNat 16 (bitsOf w 15 0)).signExtend 64))) s

/-- Shift immediates (R146, R149). -/
def shiftG (n m : Nat) (f : Word → Word → Word) (s : State) : State :=
  ccReg n (isMinor m) (fun w r => gSet r (tD w) (f (gGet r (tA w)) (BitVec.ofNat 64 (bitsOf w 9 4)))) s

/-- pD := gA cmp gB. -/
def cmpG (n m : Nat) (f : Word → Word → Bool) (s : State) : State :=
  ccReg n (isMinor m) (fun w r => pSet r (tD w) (f (gGet r (tA w)) (gGet r (tB w)))) s

/-- pD := pA op pB. -/
def predOp (n m : Nat) (f : Bool → Bool → Bool) (s : State) : State :=
  ccReg n (isMinor m) (fun w r => pSet r (tD w) (f (pGet r (tA w)) (pGet r (tB w)))) s

/-! ### FP64 operations (R101, R108) -/

/-- Raise CC flags for lanes: (lane, flags), those without flags raising nothing. -/
def ccRaise (x : CcX) (s : State) (evs : List (Nat × Flags)) : State :=
  coreFlags s x.k 0 x.off x.r.iter
    ((evs.filter (fun e => e.2 != noFlags)).map (fun e => ⟨0, 0, e.1, elemFlags e.2⟩))

/-- Read an FP64 register value under SUBNORMALS (R75). -/
def rd64 (s : State) (w : Word) : FVal := fread (flushOn s) .fp64 w.toNat

/-- A binary FP64 operation: mode, flush, operands. -/
abbrev FpOp := Rm → Bool → FVal → FVal → Nat × Flags

/-- a + b, rounded once. -/
def fpAdd : FpOp := fun rm fl a b => sumRound .fp64 rm fl .ieee [.val a, .val b]
/-- a − b. -/
def fpSub : FpOp := fun rm fl a b => sumRound .fp64 rm fl .ieee [.val a, .val (fnegV b)]
/-- a × b. -/
def fpMul : FpOp := fun rm fl a b =>
  match mulRes a b with
  | .nan g => (fqnan .fp64, if g then flInv else noFlags)
  | .invalid => (fqnan .fp64, flInv)
  | .inf n => (finfBits .fp64 n, noFlags)
  | .fin n m e => roundFin .fp64 rm fl .ieee n m e false
/-- a / b (R90: x / 0 is an exact infinity). -/
def fpDiv : FpOp := fun rm fl a b => fdivRound .fp64 rm fl .ieee a b
/-- Square root. -/
def fpSqrt : FpOp := fun rm fl a _ => fsqrtRound .fp64 rm fl .ieee a
/-- Minimum of IEEE 754-2019. -/
def fpMin : FpOp := fun rm fl a b => fencode .fp64 rm fl .ieee (fminmax false a b)
/-- Maximum of IEEE 754-2019. -/
def fpMax : FpOp := fun rm fl a b => fencode .fp64 rm fl .ieee (fminmax true a b)
/-- a × b + c with one rounding; NaN operands decide before 0 × ∞ (R60). -/
def fpFma (rm : Rm) (fl : Bool) (a b c : FVal) : Nat × Flags :=
  if isNan a || isNan b || isNan c then (fqnan .fp64, if isSnan a || isSnan b || isSnan c then flInv else noFlags)
  else sumRound .fp64 rm fl .ieee [.prod a b, .val c]

/-- fD := fA op fB with the flags of one element. -/
def triF (n m : Nat) (f : FpOp) (s : State) : State :=
  ccRow n (isScalar m) (fun x s =>
    let r := regsOf x s
    let o := f (rmOf s (tRm x.w)) (flushOn s) (rd64 s (fGet r (tA x.w))) (rd64 s (fGet r (tB x.w)))
    (ccRaise x (ccRegs x s (fun r => fSet r (tD x.w) (BitVec.ofNat 64 o.1))) [(0, o.2)], true)) s

/-- Lanes of an FP result written to wD with their flags. -/
def putLanes (x : CcX) (s : State) (d : Nat) (os : List (Nat × (Nat × Flags))) : State :=
  ccRaise x (ccRegs x s (fun r => os.foldl (fun q o => wSet q d o.1 (BitVec.ofNat 64 o.2.1)) r)) (os.map (fun o => (o.1, o.2.2)))

/-- The short-vector form of a binary FP64 operation. -/
def triWF (n m : Nat) (f : FpOp) (s : State) : State :=
  ccRow n (isVector m) (fun x s =>
    let r := regsOf x s
    (putLanes x s (tD x.w) ((lanes r).map (fun j =>
      (j, f (rmOf s (tRm x.w)) (flushOn s) (rd64 s (wGet r (tA x.w) j)) (rd64 s (wGet r (tB x.w) j))))), true)) s

/-- A sign operation on bits (R59). -/
def signBits (m : Nat) (f : Word → Word) (n : Nat) (s : State) : State :=
  ccReg n (isScalar m) (fun w r => fSet r (tD w) (f (fGet r (tA w)))) s
/-- Its short-vector form. -/
def signBitsW (m : Nat) (f : Word → Word) (n : Nat) (s : State) : State :=
  ccReg n (isVector m) (fun w r => (lanes r).foldl (fun q j => wSet q (tD w) j (f (wGet r (tA w) j))) r) s
/-- Clear the sign. -/
def bitsAbs (v : Word) : Word := v &&& 0x7FFFFFFFFFFFFFFF#64
/-- Flip the sign. -/
def bitsNeg (v : Word) : Word := v ^^^ 0x8000000000000000#64

/-- FCVT by KIND (R148). -/
def fcvt (kind : Nat) (rm : Rm) (fl : Bool) (w : Word) : Nat × Flags :=
  match kind with
  | 0 => let o := toIntClamp rm (-(2 ^ 63)) (2 ^ 63 - 1) (fread fl .fp64 w.toNat); (ofSigned 64 o.1, o.2)
  | 1 => let o := toIntClamp rm 0 (2 ^ 64 - 1) (fread fl .fp64 w.toNat); (ofSigned 64 o.1, o.2)
  | 2 => let i := sInt w; roundFin .fp64 rm fl .ieee (i < 0) i.natAbs 0 false
  | _ => roundFin .fp64 rm fl .ieee false w.toNat 0 false

/-- Scalar FCVT rows: the row's KIND, or a reserved KIND. -/
def ccFcvt (n kind : Nat) (s : State) : State :=
  ccRow n (fun w => isScalar 0x29 w && (tB w == kind || 4 ≤ tB w)) (fun x s =>
    let o := fcvt kind (rmOf s (tRm x.w)) (flushOn s) (fGet (regsOf x s) (tA x.w))
    (ccRaise x (ccRegs x s (fun r => fSet r (tD x.w) (BitVec.ofNat 64 o.1))) [(0, o.2)], true)) s

/-- An FP compare: `quiet` raises invalid on signalling NaNs only (R101). -/
def cmpF (n m : Nat) (quiet un : Bool) (f : Ordering → Bool) (s : State) : State :=
  ccRow n (isMinor m) (fun x s =>
    let r := regsOf x s
    let a := rd64 s (fGet r (tA x.w))
    let b := rd64 s (fGet r (tB x.w))
    let nan := isNan a || isNan b
    let inv := if quiet then isSnan a || isSnan b else nan
    let v := if nan then un else f (fcmp a b)
    (ccRaise x (ccRegs x s (fun r => pSet r (tD x.w) v)) [(0, if inv then flInv else noFlags)], true)) s

/-- WREDADD and WREDMAX (R108). DEDUCED (log entry 23). -/
def wred (n m : Nat) (f : FpOp) (s : State) : State :=
  ccRow n (isMinor m) (fun x s =>
    let r := regsOf x s
    let rm := rmOf s (tRm x.w)
    let a := wGet r (tA x.w)
    if r.svl = 0 then (ccRegs x s (fun r => wSet r (tD x.w) 0 0), true)
    else if r.svl = 1 then (ccRegs x s (fun r => wSet r (tD x.w) 0 (a 0)), true)
    else
      let o := ((lanes r).drop 1).foldl (fun (p : Nat × Flags) j =>
        let q := f rm (flushOn s) (rd64 s (BitVec.ofNat 64 p.1)) (rd64 s (a j))
        (q.1, orFlags p.2 q.2)) ((a 0).toNat, noFlags)
      (ccRaise x (ccRegs x s (fun r => wSet r (tD x.w) 0 (BitVec.ofNat 64 o.1))) [(0, o.2)], true)) s

/-! ### Core-store access of the CC (R103–R107) -/

/-- Address of a class 01 memory word: gB plus the signed byte offset of R144, modulo 2^64. -/
def memAddr (r : CcRegs) (w : Nat) : Nat :=
  (gGet r (bitsOf w 17 13) + ((BitVec.ofNat 13 (bitsOf w 12 0)).signExtend 64 <<< 3)).toNat

/-- The access of `n` bytes at `a` passes the check of R103. -/
def ccAccessOk (a n : Nat) : Bool := a % n == 0 && a + n ≤ 0x80000

/-- A CC load reads 8 bytes at `a` given its tile's condition: the stored word, or `dflt` from a bad tile (R104). -/
def ccLoadWord (s : State) (k a cond : Nat) (dflt : Word) : Word :=
  if cond = 0 then BitVec.ofNat 64 (leNat (storeRead (coreAt s k) a 8)) else dflt

/-- Default quiet NaN of FP64. -/
def qnan64 : Word := 0x7FF8000000000000#64

/-- Log a bad tile met by a CC load. DEDUCED (log entry 25). -/
def ccLoadLog (x : CcX) (s : State) (cond : Nat) : State := if cond = 0 then s else logEvent s x.k 0 cond x.off x.r.iter

/-- Class 01 words with a SUB. -/
def isSub (b : Nat) (w : Nat) : Bool := iClass w == 1 && iSub w == b

/-- A scalar load. -/
def ccLoad (n sub : Nat) (dflt : Word) (put : CcRegs → Nat → Word → CcRegs) (s : State) : State :=
  ccRow n (isSub sub) (fun x s =>
    let a := memAddr (regsOf x s) x.w
    if !ccAccessOk a 8 then ccSkipped x s stBounds
    else
      let v := verifyTile s x.k (a / 4096)
      let s1 := ccLoadLog x v.1 v.2
      (ccRegs x s1 (fun r => put r (bitsOf x.w 22 18) (ccLoadWord s x.k a v.2 dflt)), true)) s

/-- A scalar store. -/
def ccStore (n sub : Nat) (get : CcRegs → Nat → Word) (s : State) : State :=
  ccRow n (isSub sub) (fun x s =>
    let r := regsOf x s
    let a := memAddr r x.w
    if !ccAccessOk a 8 then ccSkipped x s stBounds
    else (engineWrite s x.k a (leBytes 8 (get r (bitsOf x.w 22 18)).toNat), true)) s

/-- WLD. -/
def ccWld (n : Nat) (s : State) : State :=
  ccRow n (isSub 6) (fun x s =>
    let r := regsOf x s
    let a := memAddr r x.w
    if !ccAccessOk a 64 then ccSkipped x s stBounds
    else if r.svl = 0 then (s, true)
    else
      let v := verifyTile s x.k (a / 4096)
      let s1 := ccLoadLog x v.1 v.2
      (ccRegs x s1 (fun r => (lanes r).foldl (fun q j => wSet q (bitsOf x.w 22 18) j (ccLoadWord s x.k (a + 8 * j) v.2 qnan64)) r),
        true)) s

/-- WST. -/
def ccWst (n : Nat) (s : State) : State :=
  ccRow n (isSub 7) (fun x s =>
    let r := regsOf x s
    let a := memAddr r x.w
    if !ccAccessOk a 64 then ccSkipped x s stBounds
    else (engineWrites s x.k ((lanes r).map (fun j => (a + 8 * j, leBytes 8 (wGet r (bitsOf x.w 22 18) j).toNat))), true)) s

/-- Lane addresses of WGATHER and WSCATTER, computed without wrap (R107). -/
def laneAddrs (r : CcRegs) (w : Nat) : List (Nat × Nat) :=
  (lanes r).map (fun j => (j, (gGet r (tA w)).toNat + 8 * (wGet r (tB w) j).toNat))

/-- WGATHER: every address is checked first; each tile is verified once. DEDUCED (log entry 25). -/
def ccWgather (n : Nat) (s : State) : State :=
  ccRow n (isMinor 0x2E) (fun x s =>
    let r := regsOf x s
    let as_ := laneAddrs r x.w
    if as_.any (fun p => !ccAccessOk p.2 8) then ccSkipped x s stBounds
    else
      let ts := tilesOfRanges (as_.map (fun p => (p.2, 8)))
      let vs := ts.foldl (fun (p : State × List (Nat × Nat)) t =>
        let v := verifyTile p.1 x.k t; (v.1, p.2 ++ [(t, v.2)])) (s, [])
      let cond := fun a => ((vs.2.find? (fun p => p.1 == a / 4096)).map (·.2)).getD 0
      let s1 := ccLoadLog x vs.1 (vs.2.foldl (fun b p => worse b p.2) 0)
      (ccRegs x s1 (fun r => as_.foldl (fun q p => wSet q (tD x.w) p.1 (ccLoadWord s x.k p.2 (cond p.2) qnan64)) r), true)) s

/-- WSCATTER: lanes in increasing order, so the highest colliding lane stands. -/
def ccWscatter (n : Nat) (s : State) : State :=
  ccRow n (isMinor 0x2F) (fun x s =>
    let r := regsOf x s
    let as_ := laneAddrs r x.w
    if as_.any (fun p => !ccAccessOk p.2 8) then ccSkipped x s stBounds
    else (engineWrites s x.k (as_.map (fun p => (p.2, leBytes 8 (wGet r (tD x.w) p.1).toNat))), true)) s

/-! ### PUSH, POST, WAIT (R127, R129) -/

/-- The queue a code names (R151). -/
def queueCode : Nat → Option QueueId
  | 0 => some .mq
  | 1 => some .vq
  | 2 => some .dq
  | 3 => some .cq
  | 4 => some .sq
  | _ => none

/-- Patch field Pi of a queue (R164): word, high bit, low bit. -/
def patchField (q : QueueId) (i : Nat) : Nat × Nat × Nat :=
  match q, i with
  | .mq, 0 => (2, 63, 45)
  | .mq, 1 => (2, 44, 26)
  | .mq, 2 => (2, 25, 7)
  | .mq, _ => (1, 11, 0)
  | .vq, 0 => (3, 63, 0)
  | .vq, 1 => (2, 63, 45)
  | .vq, 2 => (2, 25, 7)
  | .vq, _ => (1, 63, 32)
  | .dq, 0 => (1, 63, 0)
  | .dq, 1 => (2, 63, 0)
  | .dq, 2 => (3, 63, 32)
  | .dq, _ => (3, 31, 0)
  | .cq, 0 => (1, 63, 0)
  | .cq, 1 => (2, 63, 0)
  | .cq, 2 => (3, 63, 32)
  | .cq, _ => (0, 15, 0)
  | .sq, 0 => (1, 63, 0)
  | .sq, 1 => (2, 44, 26)
  | .sq, 2 => (2, 25, 7)
  | .sq, _ => (3, 47, 32)

/-- Replace a field of a word. -/
def putField (w : Word) (hi lo v : Nat) : Word := BitVec.ofNat 64 (setBits w.toNat hi lo v)

/-- Apply one patch to the four words of a command. -/
def patchCmd (q : QueueId) (x : Cmd) (i : Nat) (v : Word) : Cmd :=
  match patchField q i with
  | (0, hi, lo) => { x with w0 := putField x.w0 hi lo v.toNat }
  | (1, hi, lo) => { x with w1 := putField x.w1 hi lo v.toNat }
  | (2, hi, lo) => { x with w2 := putField x.w2 hi lo v.toNat }
  | (_, hi, lo) => { x with w3 := putField x.w3 hi lo v.toNat }

/-- The value fits its patch field (R127). -/
def patchFits (q : QueueId) (i : Nat) (v : Word) : Bool :=
  let f := patchField q i
  v.toNat < 2 ^ (f.2.1 + 1 - f.2.2)

/-- Enqueue an entry in a queue of the core. -/
def enqueue (x : CcX) (s : State) (q : QueueId) (e : Cmd) : State :=
  modCore s x.k (fun c =>
    settle (timeNs s) (setQueue { c with nextUid := c.nextUid + 1 } q (queueOf c q ++ [{ e with uid := c.nextUid }])))

/-- A PUSH skipped by the CC: logged, counted, and a void entry placed (R127). DEDUCED (log entry 26). -/
def pushVoid (x : CcX) (s : State) (q : QueueId) (e : Cmd) (code : Nat) (bare : Bool) : State :=
  enqueue x (ccSkip x s code) q { e with void := true, bare := bare }

/-- PUSH to queue `q`, which has room. -/
def pushTo (x : CcX) (s : State) (q : QueueId) : State :=
  let c := coreAt s x.k
  let ti := bitsOf x.w 16 9
  let b := bitsOf x.w 8 4
  let mask := (List.range 4).filter (fun i => bitOf x.w i)
  let a := slotBase c x.r.slot + tmplOff x.r.ninsn + 32 * ti
  let word := fun i => BitVec.ofNat 64 (formeWord c (a + 8 * i))
  let e : Cmd := { w0 := word 0, w1 := word 1, w2 := word 2, w3 := word 3, off := x.off, iter := x.r.iter }
  if x.r.ntmpl ≤ ti then pushVoid x s q { e with w0 := 0, w1 := 0, w2 := 0, w3 := 0 } stIllegal true
  else if mask.any (fun i => 31 < b + i) then pushVoid x s q e stIllegal false
  else if queueCode (w0Class e.w0) != some q then pushVoid x s q e cdQueueMismatch false
  else if mask.any (fun i => !patchFits q i (gGet c.regs (b + i))) then pushVoid x s q e cdPatchRange false
  else enqueue x s q (mask.foldl (fun e i => patchCmd q e i (gGet c.regs (b + i))) e)

/-- PUSH: it blocks while the queue is full (R126). -/
def ccPush (n : Nat) (s : State) : State :=
  ccRow n (isMinor 0x34) (fun x s =>
    match queueCode (bitsOf x.w 19 17) with
    | none => (s, true)
    | some q =>
      if queueDepth q ≤ (queueOf (coreAt s x.k) q).length then
        (modCore s x.k (fun c => { c with blocked := true }), false)
      else (pushTo x s q, true)) s

/-- POST (R129, R149). -/
def ccPost (n : Nat) (s : State) : State :=
  ccRow n (isMinor 0x35) (fun x s => (postTok s x.k (tD x.w) (bitsOf x.w 7 0) 0 x.off x.r.iter, true)) s

/-- The wait of a WAIT has been satisfied or released. -/
def ccWaitDone (c : Core) : Bool := c.ccWait.isSome && waitOf c .cc == .done

/-- End the CC's wait. -/
def endCcWait (c : Core) : Core := setWait { c with ccWait := none, blocked := false } .cc .idle

/-- WAIT: it issues, is held while its counter is below its count, and completes (R129, R131). -/
def ccWaitStep (n : Nat) (s : State) : State :=
  ccRow n (isMinor 0x36) (fun x s =>
    let cnt := bitsOf x.w 7 0
    if cnt = 0 then (s, true)
    else
      let c := coreAt s x.k
      let c1 := if c.ccWait.isSome then c else settle (timeNs s) { c with ccWait := some (tD x.w, cnt) }
      if ccWaitDone c1 then (putCore s x.k (endCcWait c1), true)
      else (putCore s x.k { c1 with blocked := true }, false)) s

/-- Offset and iteration that the log gives a released wait: the CC's place, or those of the command at the head of the queue (R131, R135). -/
def stallPlace (c : Core) (u : Waiter) : Nat × Nat :=
  let head := fun (q : List Cmd) => match q with | x :: _ => (x.off, x.iter) | [] => (0, 0)
  match u with
  | .cc => (match c.run with | some r => (0x40 + 4 * r.pc, r.iter) | none => (0, 0))
  | .me => head c.mq
  | .ve => head c.vq
  | .de => head c.dq
  | .cq => head c.cq
  | .se => head c.sq

/-- Release of a wait that has been held for more than TOKEN_STALL_LIMIT (R131). -/
def stallRelease (n : Nat) (u : Waiter) (s : State) : State :=
  match keyOf s n with
  | none => s
  | some k =>
    let c := coreAt s k
    let limit := dget s kTokenStallLimit
    match waitOf c u, headWait c u with
    | .held t0, some (t, _) =>
      if limit != 0 && t0 + limit < timeNs s then
        let place := stallPlace c u
        let s1 := logEvent s k (waiterCode u) cdTokenStall place.1 place.2
        let s2 := modCore s1 k (fun c => settle (timeNs s) (setWait (setTok c t 0) u .done))
        dcount (tallySkip s2 k) kStallReleases 1
      else s
    | _, _ => s

/-! ### MOVS, SELECT, SETRPT, SETSVL -/

/-- Special register of number `i` (R109). -/
def special (x : CcX) (s : State) (i : Nat) : Nat :=
  match i with
  | 0 => x.n
  | 1 => x.n / 1280
  | 2 => x.r.group
  | 3 => x.r.rank
  | 4 => x.r.size
  | 5 => x.r.count
  | 6 => (coreAt s x.k).launchSeq
  | 7 => x.r.slot
  | _ => timeNs s

end Sys2Proof.Machine
end

