-- ==== Sys2Proof/Machine/Operands.lean ====
section
/-! DEFINITION. Operand forms of the engine commands: numeric descriptors (R53, R54), scale arrays (R79–R84), extents and
overlaps, block-scaled conversion (R82, R83), and the frame in which an engine runs the head of its queue (R152, R167). -/
namespace Sys2Proof.Machine
open Sys2Proof Config

/-- A consistent numeric descriptor: format, scaled or not, scale block size, NONSAT. -/
structure NumFmt where
  fmt : Fmt
  sc : Bool
  blk : Nat
  nonsat : Bool
  deriving DecidableEq, Repr

/-- Resolve a descriptor; none when R54 calls it inconsistent. `dst` permits OVF on E4M3 and E5M2. -/
def numFmt (s : State) (dst : Bool) (v : Nat) : Option NumFmt :=
  match fmtOfCode (bitsOf v 7 4) with
  | none => none
  | some f =>
    let sc := bitOf v 3
    let b := bitsOf v 2 1
    let ov := bitOf v 0
    if sc && !fmtScalable f then none
    else if !sc && fmtTinyKind f then none
    else if !sc && b != 0 then none
    else if b = 3 then none
    else if ov && !(dst && (f == .e4m3 || f == .e5m2)) then none
    else some ⟨f, sc, if b = 1 then 32 else if b = 2 then 16 else dget s kMxBlockDefault, ov⟩

/-- Width of an element in bits. -/
def nfW (f : NumFmt) : Nat := fmtWidth f.fmt
/-- Packed bytes of `n` elements (R61). -/
def nfBytes (f : NumFmt) (n : Nat) : Nat := packedBytes (fmtWidth f.fmt) n
/-- Value of an integer encoding. -/
def intVal (f : Fmt) (b : Nat) : FVal := let i := toSigned (fmtWidth f) b; .fin (i < 0) i.natAbs 0
/-- Value of an element encoding, unscaled (R56–R58, R75). -/
def elemVal (flush : Bool) (f : Fmt) (b : Nat) : FVal := if fmtIsInt f then intVal f b else fread flush f b
/-- Value under a scale byte (R79, R84). -/
def scaledVal (v : FVal) (e : Nat) : FVal := if e = 0xFF then .nan false else fscale ((e : Int) - 127) v

/-- Values of a vector of encodings with its scale bytes, `blk` elements a block. -/
def readVals (flush : Bool) (nf : NumFmt) (xs : List Nat) (scales : List Byte) : List FVal :=
  if nf.sc then
    (xs.zip (List.range xs.length)).map (fun p =>
      scaledVal (elemVal flush nf.fmt p.1) ((scales.getD (p.2 / nf.blk) 0).toNat))
  else xs.map (elemVal flush nf.fmt)

/-- Split a list in chunks of `k` (structural in `fuel`). -/
def chunksGo {α : Type} : Nat → Nat → List α → List (List α)
  | 0, _, _ => []
  | f + 1, k, l => if l.isEmpty then [] else l.take k :: chunksGo f k (l.drop k)
/-- Split a list in chunks of `k`. -/
def chunks {α : Type} (k : Nat) (l : List α) : List (List α) := chunksGo l.length k l

/-- ⌊log2⌋ of a finite non-zero magnitude. -/
def flog2V : FVal → Int
  | .fin _ m e => (flog2 m : Int) + e
  | _ => 0

/-- Largest of magnitudes (finite ones only). -/
def maxMag (vs : List FVal) : FVal :=
  vs.foldl (fun a v => match v with | .fin _ m e => fmaxV a (.fin false m e) | _ => a) (.fin false 0 0)

/-- Scale byte of a block (R82). DEDUCED (log entry 55). -/
def blockScale (f : Fmt) (vs : List FVal) : Nat :=
  let amax := maxMag vs
  if vs.any isNan || (f != .e5m2 && vs.any isInf) then 0xFF
  else if isZero amax then 0
  else
    let x := flog2V amax - (fmtEmax f : Int)
    ((max (-127) (min 127 x)) + 127).toNat

/-- An element of a block with its scale chosen: encoding and flags (R82, R83). -/
def scaledElem (nf : NumFmt) (rm : Rm) (vs : List FVal) (e : Nat) (v : FVal) : Nat × Flags :=
  if e = 0xFF then (0, if isSnan v || (isInf v && nf.fmt != .e5m2) then flInv else noFlags)
  else
    let clamped := flog2V (maxMag vs) - (fmtEmax nf.fmt : Int) > 127
    let o : Ovf := if clamped then ovfOf nf.fmt nf.nonsat else .satQuiet
    match v with
    | .inf n => (finfBits nf.fmt n, noFlags)
    | _ => fencode nf.fmt rm false o (fscale (127 - (e : Int)) v)

/-- Two ranges share a byte. -/
def ovl (a b : Nat × Nat) : Bool := overlap a.1 a.2 b.1 b.2

/-! ### The frame of an engine command -/

/-- An engine command being executed: core number, key, queue and the command. -/
structure Ex where
  n : Nat
  k : Nat
  q : QueueId
  x : Cmd
  deriving DecidableEq, Repr

/-- The engine takes the head of its queue: wait satisfied, engine free, and the head is one of `mine` or carries a
reserved opcode (R152, R167). Void entries and NOOPs have rows of their own. DESIGN CHOICE (log entry 34). -/
def engineRow (n : Nat) (q : QueueId) (mine : Cmd → Bool) (busy : State → Nat → Core → Bool) (run : Ex → State → State)
    (s : State) : State :=
  match keyOf s n with
  | none => s
  | some k =>
    let c := coreAt s k
    match queueOf c q with
    | [] => s
    | x :: _ =>
      if !headReady c q || x.void || busy s k c || !mine x then s
      else run ⟨n, k, q, x⟩ (putCore s k (takeHead (timeNs s) c q))

/-- Retire an engine command with a status. -/
def exEnd (e : Ex) (s : State) (st : Nat) : State := retire s e.k (queueSource e.q) e.x st

/-- End condition of a command that writes, after a CORE_INTERNAL error (R468). DEDUCED (log entry 38). -/
def internalCond (s : State) (k st : Nat) : Nat := if (coreAt s k).internal then worse st stPoison else st

/-- Domain `d` at reset: ON at V-step 3 (R457, R567). -/
def domDflt : Nat → Dom := fun _ => {}
/-- Power domain `d` (R439). -/
def domAt (s : State) (d : Nat) : Dom := tblGet domDflt s.doms d
/-- Change a power domain. -/
def modDom (s : State) (d : Nat) (f : Dom → Dom) : State := { s with doms := tblMod domDflt s.doms d f }
/-- Cluster domain of a physical core (R37, R439). -/
def clusterOf (k : Nat) : Nat := 42 * (k / 1344) + k % 1344 / 32

/-- RETAIN_DELAY of the cluster of a core starts anew (R441). -/
def restCluster (s : State) (k : Nat) : State := modDom s (clusterOf k) (fun d => { d with idleFrom := timeNs s })

/-- Set a V-step; a change is counted and settles (R443). -/
def setVstep (s : State) (d v : Nat) : State :=
  if (domAt s d).vstep = v then s
  else dcount (modDom s d (fun x => { x with vstep := v, settling := true })) kVstepChanges 1

/-- The ME and the VE start no new work while issue is held (R450, R451). -/
def heldEngine (s : State) (k : Nat) : Bool := s.hold || (domAt s (clusterOf k)).held

/-- First skip code of a list of checks (R19): each a condition and its code, in the order of R19. -/
def firstSkip : List (Bool × Nat) → Option Nat
  | [] => none
  | (b, code) :: t => if b then some code else firstSkip t

end Sys2Proof.Machine
end

