-- ==== Sys2Proof/Machine/Colophon.lean ====
section
/-! DEFINITION. Determinism scope and colophons (R411–R437): settings image and fingerprint, the leaf table, data digests,
records, and the rows that open, close and attach them. -/
namespace Sys2Proof.Machine
open Sys2Proof Config

/-- The settings image (R419). -/
def settingsImage (s : State) : List Byte :=
  [1, BitVec.ofNat 8 (dget s kNumericSteppingClass), BitVec.ofNat 8 (dget s kDefaultRounding), BitVec.ofNat 8 (dget s kSubnormals),
   BitVec.ofNat 8 (dget s kMxBlockDefault), BitVec.ofNat 8 (dget s kMatrixMode), 0, 0] ++
  leBytes 4 (dget s kTableSetRevision) ++ leBytes 4 (dget s kLeafCount)

/-- The settings fingerprint (R420). -/
def fingerprint (s : State) : List Byte := (sha384 (settingsImage s)).take 16

/-- A forme runs on some core. -/
def formeRuns (s : State) : Bool := s.cores.any (fun c => c.2.run.isSome)

/-- RWI entries count their units as idle in IDLE, and in START while no forme runs (R98). -/
def rwiIdle (s : State) : Bool := phase s == phIdle || (phase s == phStart && !formeRuns s)

/-! ### The leaf table (R427, R428) -/

/-- Key of a leaf. -/
def leafKey (c cls o : Nat) : Nat := (2 * c + cls) * 2 ^ 32 + o
/-- No leaf is held where none is listed. -/
def leafDflt : Nat → List Byte := fun _ => []
/-- Leaves the table holds at most: 64 bytes each (R428). DESIGN CHOICE (log entry 83). -/
def leafRoom (s : State) : Nat := dget s kLeafTableSize / 64

/-- Discard the leaves of a context. -/
def dropLeaves (s : State) (c : Nat) : State := { s with leaves := s.leaves.filter (fun x => x.1 / 2 ^ 33 != c) }

/-- Mark a class of a context: bits 1 CONFLICT, 2 POISONED, 4 LOST. -/
def markClass (s : State) (c cls m : Nat) : State :=
  modCtx s c (fun x => { x with states := x.states.set (cls + 1) (Nat.lor (x.states.getD (cls + 1) 0) m) })

/-- The context accepts leaves: OPEN or CLOSING and not sealed (R428). -/
def takesLeaves (x : Ctx) : Bool := (x.state == 1 || x.state == 2) && !x.sealed

/-- Position of the package that owns an offset (R427). -/
def ownerOf (x : Ctx) (o : Nat) : Nat := min (o / 2 ^ x.ownerShift) (x.ownerCount - 1)

/-- An owner enters a leaf (R428); false when it refuses it. DESIGN CHOICE (log entry 83). DEDUCED (log entry 84). -/
def leafEnter (s : State) (c cls o : Nat) (d : List Byte) (poisoned : Bool) : State × Bool :=
  if !takesLeaves (ctxAt s c) then (dcount s kLeavesLost 1, false)
  else
    let s1 := if poisoned then markClass s c cls 2 else s
    let k := leafKey c cls o
    let old := tblGet leafDflt s1.leaves k
    if old = [] then
      if leafRoom s1 ≤ s1.leaves.length then (dcount (markClass s1 c cls 4) kLeavesLost 1, true)
      else (dcount { s1 with leaves := tblSet leafDflt s1.leaves k d } kLeavesEntered 1, true)
    else if old = d then (s1, true)
    else
      let keep := if beNat d < beNat old then d else old
      (dcount (markClass { s1 with leaves := tblSet leafDflt s1.leaves k keep } c cls 1) kLeafConflicts 1, true)

/-- Send a message of context `c` to the package at a position of it. No flit carries it in this model's fabric. DEDUCED (log entry 84). -/
def colSend (s : State) (c pos : Nat) (b : ColBody) : State :=
  { s with colOut := s.colOut ++ [⟨(ctxAt s c).ownerBase + pos, c, dget s kJobEpoch, b⟩] }

/-- Send a message of context `c` to every other package of it. -/
def colSendAll (s : State) (c : Nat) (b : ColBody) : State :=
  let x := ctxAt s c
  ((List.range x.ownerCount).filter (· != x.ownIndex)).foldl (fun s i => colSend s c i b) s

/-- A leaf of a bound launch goes to its owner (R427): into the own leaf table, or in a message whose end is awaited; one whose owner
cannot be reached is lost at once. DEDUCED (log entry 84). -/
def handLeaf (s : State) (bind : Option (Nat × Nat)) (cls o : Nat) (d : List Byte) (poisoned reach : Bool) : State :=
  match bind with
  | none => s
  | some (c, inv) =>
    let x := ctxAt s c
    if !((x.state = 1 || x.state = 2) && x.invocation = inv) then s
    else if ownerOf x o = x.ownIndex then
      let r := leafEnter s c cls o d poisoned
      if r.2 then r.1 else markClass r.1 c cls 4
    else
      let s1 := dcount (modCtx s c (fun x => { x with sent := x.sent + 1 })) kLeavesSent 1
      if reach then
        colSend (modCtx s1 c (fun x => { x with awaits := x.awaits ++ [(cls, o)] })) c (ownerOf x o)
          (.leaf ⟨dget s kOwnLogicalId, cls, o, d, poisoned, none, dget s kJobEpoch⟩)
      else markClass s1 c cls 4

/-- Leaf of a tile of tagged data (R301). -/
def dataLeaf (o : Nat) (bs : List Byte) : List Byte := sha384 (leBytes 8 o ++ leBytes 4 bs.length ++ bs)

/-! ### Digests (R426, R429) -/

/-- One level of the tree: neighbours join, a lone node passes up. -/
def treeUp : List (Nat × List Byte) → List (Nat × List Byte)
  | [] => []
  | [(i, x)] => [(i / 2, x)]
  | (i, x) :: (j, y) :: t =>
    if i / 2 = j / 2 then (i / 2, sha384 (1 :: (x ++ y))) :: treeUp t else (i / 2, x) :: treeUp ((j, y) :: t)

/-- `n` levels of the tree. -/
def treeLevels : Nat → List (Nat × List Byte) → List (Nat × List Byte)
  | 0, l => l
  | n + 1, l => treeLevels n (treeUp l)

/-- 48 zero bytes. -/
def zeroDigest : List Byte := List.replicate 48 0

/-- Value of a tree with its nodes at height `h` given: node(0, 32). -/
def treeRoot (h : Nat) (l : List (Nat × List Byte)) : List Byte :=
  match treeLevels (32 - h) l with
  | (_, d) :: _ => d
  | [] => zeroDigest

/-- Values of the positions that this package owns (R430). -/
def ownNodes (s : State) (c cls : Nat) : List (Nat × List Byte) :=
  let x := ctxAt s c
  let ls := (s.leaves.filter (fun l => l.1 / 2 ^ 32 == 2 * c + cls)).map (fun l => (l.1 % 2 ^ 32, l.2))
  (treeLevels x.ownerShift ls).filter (fun p => min p.1 (x.ownerCount - 1) == x.ownIndex)

/-- Insert a node by its position. -/
def insNode (p : Nat × List Byte) : List (Nat × List Byte) → List (Nat × List Byte)
  | [] => [p]
  | q :: t => if p.1 < q.1 then p :: q :: t else if p.1 = q.1 then q :: t else q :: insNode p t

/-- The program digest (R426). -/
def programDigest (ls : List (List Byte)) : List Byte :=
  if ls.isEmpty then zeroDigest else sha384 (2 :: (leBytes 4 ls.length ++ ls.flatten))

/-! ### Records (R430–R434) -/

/-- A package's own partial (R430). -/
def ownPartial (s : State) (c : Nat) : Partial :=
  let x := ctxAt s c
  { index := x.ownIndex, scope := x.scope, fingerprint := x.fingerprint, invocation := x.invocation,
    settingsChanged := x.settingsChanged, flags := x.flags,
    counts := [x.skip, x.poison, x.reuse, x.pivot, x.members.length], states := x.states, progLeaves := x.prog,
    nodes := (ownNodes s c 0).map (fun p => (0, p.1, p.2)) ++ (ownNodes s c 1).map (fun p => (1, p.1, p.2)) }

/-- What a record carries. -/
structure RecIn where
  scope : Nat
  complete : Bool
  mismatch : Bool
  changed : Bool
  lone : Bool
  invocation : Nat
  fingerprint : List Byte
  prog : List Byte
  weights : List Byte
  inputs : List Byte
  flags : Nat
  counts : List Nat
  leaves : Nat
  packages : Nat
  context : Nat
  progLeaves : Nat
  states : List Nat
  at_ : Nat

/-- The 256 bytes of a record (R434). -/
def recBytes (r : RecIn) : List Byte :=
  let w0 := 2 ^ 56 + r.scope * 2 ^ 48 + b2n r.complete * 2 ^ 47 + b2n r.mismatch * 2 ^ 46 + b2n r.changed * 2 ^ 45 +
    b2n r.lone * 2 ^ 44 + r.invocation % 2 ^ 32
  let cn := fun i => r.counts.getD i 0
  let st := fun i => r.states.getD i 0
  let body := leBytes 8 w0 ++ r.fingerprint ++ r.prog ++ r.weights ++ r.inputs ++ leBytes 8 (r.flags % 2 ^ 24) ++
    leBytes 8 (cn 0 * 2 ^ 32 + cn 1) ++ leBytes 8 (cn 2 * 2 ^ 32 + cn 3) ++ leBytes 8 (cn 4 * 2 ^ 32 + r.leaves) ++
    leBytes 8 (r.packages % 65536 * 2 ^ 48 + r.context * 2 ^ 32 + r.progLeaves) ++ leBytes 8 (st 2 * 2 ^ 16 + st 1 * 2 ^ 8 + st 0) ++
    leBytes 8 r.at_ ++ List.replicate 24 0
  body ++ leBytes 8 (crc64 body)

/-- Add counts with saturation. -/
def addCounts : List Nat → List Nat → List Nat
  | a :: as, b :: bs => satAdd max32 a b :: addCounts as bs
  | as, [] => as
  | [], bs => bs

/-- OR lists. -/
def orList : List Nat → List Nat → List Nat
  | a :: as, b :: bs => Nat.lor a b :: orList as bs
  | as, [] => as
  | [], bs => bs

/-- The root combines partials with its own (R430–R432). DEDUCED (log entry 85). -/
def combineParts (s : State) (c : Nat) (own : Partial) (parts : List Partial) (complete : Bool) : List Byte :=
  let x := ctxAt s c
  let all := own :: parts
  let prog := parts.foldl (fun a p => p.progLeaves.foldl (fun a d => insDigest d a) a) own.progLeaves
  let nodes := fun cls => all.foldl (fun a p =>
    (p.nodes.filter (fun n => n.1 == cls && min n.2.1 (x.ownerCount - 1) == p.index)).foldl (fun a n => insNode (n.2.1, n.2.2) a) a) []
  let st := parts.foldl (fun a p => orList a p.states) own.states
  let st := if complete then st else (st.set 1 (Nat.lor (st.getD 1 0) 4)).set 2 (Nat.lor (st.getD 2 0) 4)
  recBytes {
    scope := own.scope, complete := complete,
    mismatch := parts.any (fun p => p.scope != own.scope || p.fingerprint != own.fingerprint || p.invocation != own.invocation),
    changed := all.any (·.settingsChanged), lone := false, invocation := own.invocation, fingerprint := own.fingerprint,
    prog := programDigest prog, weights := treeRoot x.ownerShift (nodes 0), inputs := treeRoot x.ownerShift (nodes 1),
    flags := all.foldl (fun a p => Nat.lor a p.flags) 0, counts := parts.foldl (fun a p => addCounts a p.counts) own.counts,
    leaves := x.leafCount, packages := all.length, context := c, progLeaves := prog.length, states := st, at_ := timeNs s }

/-- Write a record and close the context. DEDUCED (log entry 85). -/
def closeWith (s : State) (c : Nat) (rec : List Byte) (mine complete : Bool) : State :=
  let s1 := modCtx s c (fun x => { x with state := 3, record := rec })
  if mine then dcount (dcount s1 kInvocationsClosed 1) kClosesIncomplete (b2n (!complete)) else s1

/-! ### Rows -/

/-- DETERMINISM_SCOPE_WRITE: applied while cores are idle and no context is OPEN or CLOSING (R98, R412). -/
def execDeterminismScopeWrite (v : Nat) (s : State) : Host.Outcome State Fault Refusal :=
  whenUp s (dictWrite kDeterminismScope v (fun s =>
    if 2 < v || !rwiIdle s || s.ctxs.any (fun x => x.2.state == 1 || x.2.state == 2) then s else dset s kDeterminismScope v) s)

/-- OPEN of context `c` is accepted (R423). -/
def ctxOpenOk (s : State) (c : Nat) : Bool :=
  let x := ctxAt s c
  let own := dget s kOwnLogicalId
  (x.state = 0 || x.state = 3) && x.ownerBase + x.ownerCount ≤ 16384 && x.ownerShift ≤ 32 && x.ownerBase ≤ own && own < x.ownerBase + x.ownerCount

/-- OPEN of context `c` (R423). -/
def ctxOpen (s : State) (c : Nat) : State :=
  modCtx (dropLeaves s c) c (fun x => { x with
    state := 1, invocation := (x.invocation + 1) % 2 ^ 32, ownIndex := dget s kOwnLogicalId - x.ownerBase, scope := dget s kDeterminismScope,
    fingerprint := fingerprint s, flags := 0, skip := 0, poison := 0, reuse := 0, pivot := 0, members := [], prog := [],
    states := [0, 0, 0], sent := 0, closeAt := 0, localDone := false, sealed := false, awaits := [],
    settingsChanged := false, leafCount := 0 })

/-- CLOSE of context `c` (R430, R432). -/
def ctxClose (s : State) (c : Nat) : State :=
  if (ctxAt s c).state = 1 then
    modCtx s c (fun x => { x with
      state := 2, closeAt := timeNs s, settingsChanged := fingerprint s != x.fingerprint, fingerprint := fingerprint s,
      leafCount := dget s kLeafCount })
  else s

/-- Return a context to IDLE without a record: ABANDON (R423), or a transition to RECOVERY (R433). -/
def ctxDiscard (s : State) (c : Nat) : State :=
  dcount (modCtx (dropLeaves s c) c (fun x => { x with
    state := 0, flags := 0, skip := 0, poison := 0, reuse := 0, pivot := 0, members := [], prog := [], states := [0, 0, 0],
    sent := 0, localDone := false, sealed := false, awaits := [] })) kContextsAbandoned 1

/-- CONTEXT_CLOSE (R430). -/
def execContextClose (c : Nat) (s : State) : Host.Outcome State Fault Refusal := whenUp s (if c < 16 then ctxClose s c else s)

/-- Some core still runs a launch bound to the invocation. -/
def boundRuns (s : State) (c inv : Nat) : Bool := s.cores.any (fun k => bindOf k.2 == some (c, inv))

/-- The package is drained: its bound launches have reached their boundaries and every leaf it sent has ended (R430). -/
def ctxDrained (s : State) (c : Nat) : Bool := !boundRuns s c (ctxAt s c).invocation && (ctxAt s c).awaits.isEmpty

/-- CONTEXT_DRAINED: the package is drained, and one that is not the root sends DRAINED to it (R430). -/
def execContextDrained (c : Nat) (s : State) : Host.Outcome State Fault Refusal :=
  let x := ctxAt s c
  whenUp s (if c < 16 ∧ x.state = 2 ∧ ctxDrained s c ∧ !x.localDone then
      let t := modCtx s c (fun x => { x with localDone := true })
      if x.ownIndex = 0 then t else colSend t c 0 .drained
    else s)

/-- CONTEXT_SEAL: the root holds DRAINED of every package, and sends SEAL to each; or SEAL arrives from the root, and the package sends its
partial (R430). -/
def execContextSeal (c : Nat) (drained : List Nat) (s : State) : Host.Outcome State Fault Refusal :=
  let x := ctxAt s c
  whenUp s (if c < 16 ∧ x.state = 2 ∧ x.localDone ∧ !x.sealed then
      let t := modCtx s c (fun x => { x with sealed := true })
      if x.ownIndex ≠ 0 then colSend t c 0 (.part (ownPartial s c))
      else if (List.range x.ownerCount).all (fun i => i == 0 || drained.contains i) then colSendAll t c .seal
      else s
    else s)

/-- The root writes its record, and sends it to every other package (R430). -/
def rootRecord (s : State) (c : Nat) (parts : List Partial) (full : Bool) : State :=
  let b := combineParts s c (ownPartial s c) parts full
  colSendAll (closeWith s c b true full) c (.record b)

/-- Every other package's partial is among `parts`, each once. -/
def partsFull (x : Ctx) (parts : List Partial) : Bool :=
  parts.length + 1 == x.ownerCount && (List.range x.ownerCount).all (fun i => i == 0 || parts.any (fun p => p.index == i))

/-- CONTEXT_RECORD_FORM: the root combines all partials (R430). -/
def execContextRecordForm (c : Nat) (parts : List Partial) (s : State) : Host.Outcome State Fault Refusal :=
  let x := ctxAt s c
  whenUp s (if c < 16 ∧ x.state = 2 ∧ x.ownIndex = 0 ∧ x.sealed ∧ partsFull x parts then
      rootRecord s c parts true
    else s)

/-- CONTEXT_RECORD_RECEIVE: a package writes the root's record; one that arrives when none is awaited is discarded
(R430, R431). -/
def execContextRecordReceive (c : Nat) (rec : List Byte) (s : State) : Host.Outcome State Fault Refusal :=
  let x := ctxAt s c
  whenUp s (if c < 16 ∧ x.state = 2 ∧ x.ownIndex ≠ 0 ∧ rec.length = 256 then closeWith s c rec false true else s)

/-- CLOSE_ROOT_TIMEOUT: after CLOSE_TIMEOUT the root proceeds with what it holds (R431). -/
def execCloseRootTimeout (c at_ : Nat) (parts : List Partial) (s0 : State) : Host.Outcome State Fault Refusal :=
  let s := atTime s0 at_
  let x := ctxAt s c
  whenUp s0 (if c < 16 ∧ x.state = 2 ∧ x.ownIndex = 0 ∧ x.closeAt + dget s kCloseTimeout ≤ timeNs s then
      rootRecord s c parts (x.sealed && partsFull x parts)
    else s)

/-- The record that a package writes from its own partial: alone, with zero digests, and every class LOST (R431). -/
def loneRecord (s : State) (c : Nat) : List Byte :=
  let p := ownPartial s c
  recBytes {
    scope := p.scope, complete := false, mismatch := false, changed := p.settingsChanged,
    lone := true, invocation := p.invocation, fingerprint := p.fingerprint, prog := zeroDigest, weights := zeroDigest,
    inputs := zeroDigest, flags := p.flags, counts := p.counts, leaves := (ctxAt s c).leafCount, packages := 1, context := c,
    progLeaves := p.progLeaves.length, states := orList p.states [4, 4, 4], at_ := timeNs s }

/-- CLOSE_PACKAGE_TIMEOUT: after twice CLOSE_TIMEOUT without a record, a package writes one from its own partial (R431). -/
def execClosePackageTimeout (c at_ : Nat) (s0 : State) : Host.Outcome State Fault Refusal :=
  let s := atTime s0 at_
  let x := ctxAt s c
  whenUp s0 (if c < 16 ∧ x.state = 2 ∧ x.closeAt + 2 * dget s kCloseTimeout ≤ timeNs s then
      closeWith s c (loneRecord s c) true false
    else s)

/-- A leaf that this package sent ends with a status: other than OK it marks the class LOST (R427, R428). -/
def leafEnds (s : State) (c cls o st : Nat) : State :=
  if (ctxAt s c).awaits.contains (cls, o) then
    let t := modCtx s c (fun x => { x with awaits := x.awaits.erase (cls, o) })
    if st = stOk then t else markClass t c cls 4
  else s

/-- A leaf that another package sends: an owner enters it, or refuses it, one that it does not own too, and how it ended goes back
(R427, R428). DEDUCED (log entry 84). -/
def leafArrives (s : State) (c : Nat) (l : LeafMsg) : State :=
  let r := if ownerOf (ctxAt s c) l.off = (ctxAt s c).ownIndex then leafEnter s c l.cls l.off l.digest l.poisoned
    else (dcount s kLeavesLost 1, false)
  { r.1 with colOut := r.1.colOut ++ [⟨l.src, c, l.epoch, .leafEnd l.cls l.off (if r.2 then stOk else stBounds)⟩] }

/-- An attachment entry. -/
def attachAt (s : State) (a : Nat) : Attach := tblGet (fun _ => {}) s.attached a
/-- Change an attachment entry. -/
def modAttach (s : State) (a : Nat) (f : Attach → Attach) : State := { s with attached := tblMod (fun _ => {}) s.attached a f }

/-- A write of word 0x010 of an attachment entry under a mask (R436). -/
def attachWrite (s : State) (a v m : Nat) : State :=
  let x := attachAt s a
  let c := if Nat.land m 15 = 15 then v % 16 else x.context
  let y := { x with context := c }
  if bitOf (Nat.land v m) 8 then
    if (ctxAt s c).state = 3 then modAttach s a (fun _ => { y with valid := true, record := (ctxAt s c).record })
    else modAttach s a (fun _ => { y with valid := false })
  else modAttach s a (fun _ => y)

/-- ATTACH: a write of an attachment entry's command word (R436). -/
def execAttach (a : Nat) (v : Word) (s : State) : Host.Outcome State Fault Refusal :=
  whenUp s (if a < 4096 then attachWrite s a v.toNat (2 ^ 64 - 1) else s)

end Sys2Proof.Machine
end

