-- ==== Sys2Proof/Machine/Me.lean ====
section
/-! DEFINITION. The matrix engine and the galley (chapter 05): MMA, MEWMA, gather windows, slots and stall releases. -/
namespace Sys2Proof.Machine
open Sys2Proof Config

/-! ### Proof passes within a command (R465–R467) -/

/-- Spare rows used so far of a unit. -/
def spareOf (s : State) (u : Nat) : Nat := tblGet (fun _ => 0) s.spareUsed u
/-- Key of the spare-row count of an ME array, a solver array, a core-store array, and a stack bank. -/
def spareMe (k : Nat) : Nat := 8 * k
/-- Solver arrays. -/
def spareSe (e : Nat) : Nat := 8 * e + 1
/-- Core-store SRAM arrays: 16 a core. -/
def spareSram (k m : Nat) : Nat := 8 * (16 * k + m) + 2
/-- F-die SRAM arrays. -/
def spareFdie (f : Nat) : Nat := 8 * f + 3
/-- Stack banks, by stack and bank of the row. DEDUCED (log entry 59). -/
def spareBank (b : Nat) : Nat := 8 * b + 4

/-- Count a proof pass by its outcome: 1 TRANSIENT, 2 SPARED, 3 NO_SPARE (R465). -/
def countPass (s : State) (outcome : Nat) : State :=
  dcount (dcount s kProofPasses 1)
    (if outcome = 1 then kProofTransient else if outcome = 2 then kProofSpared else kProofNoSpare) 1

/-- A residue failure of an array within a command: its fault code is 1 + 2·row for a transient and 2 + 2·row for a
lasting one; `cap` spare rows exist. Answers the outcome, 0 for no failure (R467). DEDUCED (log entry 86). -/
def arrayPass (s : State) (fault cls unit spare cap : Nat) : State × Nat :=
  if fault = 0 then (s, 0)
  else
    let row := (fault - 1) / 2
    let out := if fault % 2 = 1 then 1 else if spareOf s spare < cap then 2 else 3
    let s1 := countPass (errEntry s cls unit row out) out
    let s2 := if out = 2 then { s1 with spareUsed := tblSet (fun _ => 0) s1.spareUsed spare (spareOf s1 spare + 1) } else s1
    let s3 := if out = 2 then calEvent s2 7 unit row else s2
    (s3, out)

/-- The ME array's pass: TRANSIENT and SPARED leave the array good; NO_SPARE marks the core for sparing. -/
def mePass (s : State) (k : Nat) : State × Nat :=
  let r := arrayPass s (tblGet (fun _ => 0) s.meFault k) 8 (unitCoord s (k / 1344) (k % 1344)) (spareMe k) 1
  if r.2 = 0 then r
  else if r.2 = 3 then (modCore r.1 k (fun c => { c with marked := true, markedAt := timeNs r.1 }), 3)
  else ({ r.1 with meFault := tblSet (fun _ => 0) r.1.meFault k 0 }, r.2)

/-! ### Command fields and checks (R154, R155, R168, R172–R175, R183, R186) -/

/-- Fields of an MQ command. -/
structure MeF where
  a : NumFmt
  b : NumFmt
  c : NumFmt
  rm : Nat
  acc : Bool
  m : Nat
  n : Nat
  k : Nat
  gal : Bool
  gwin : Nat
  aA : Nat
  bA : Nat
  cA : Nat
  saA : Nat
  sbA : Nat
  deriving DecidableEq, Repr

/-- Read the fields; none when a descriptor is inconsistent (R54). -/
def meFields (s : State) (x : Cmd) : Option MeF :=
  match numFmt s false (fld x.w0 27 20), numFmt s false (fld x.w0 19 12), numFmt s true (fld x.w0 11 4) with
  | some a, some b, some c =>
    some ⟨a, b, c, fld x.w0 3 1, x.w0.getLsbD 0, fld x.w1 63 48, fld x.w1 47 32, fld x.w1 31 16, x.w1.getLsbD 15,
      fld x.w1 11 0, fld x.w2 63 45, fld x.w2 44 26, fld x.w2 25 7, fld x.w3 63 45, fld x.w3 44 26⟩
  | _, _, _ => none

/-- Row pitch (R172). -/
def pitch (f : NumFmt) (cols : Nat) : Nat := roundUp (nfBytes f cols) 8

/-- Legal descriptor combinations of an MMA (R168). -/
def mmaCombo (f : MeF) : Bool :=
  let half := fun (g : Fmt) => g == .bf16 || g == .fp16
  let eight := fun (g : Fmt) => g == .e4m3 || g == .e5m2 || g == .e2m3 || g == .e3m2
  let a := f.a.fmt; let b := f.b.fmt; let c := f.c.fmt
  (a == .fp64 && b == .fp64 && c == .fp64) || (a == .fp32 && b == .fp32 && c == .fp32) ||
  (half a && half b && c == .fp32) || (eight a && eight b && c == .fp32) ||
  (a == .int8 && b == .int8 && c == .int32 && f.rm == 0) || (a == .e2m1 && b == .e2m1 && c == .fp32)

/-- Legal descriptor combinations of a MEWMA (R183). -/
def mewmaCombo (f : MeF) : Bool :=
  let half := fun (g : Fmt) => g == .bf16 || g == .fp16
  let a := f.a.fmt; let b := f.b.fmt; let c := f.c.fmt
  !f.a.sc && !f.b.sc && ((a == b && b == c && fmtWide a) || (half a && half b && c == .fp32))

/-- The result descriptor carries no scale, block or overflow field (R168). -/
def plainC (x : Cmd) : Bool := fld x.w0 7 4 == 0

/-- Bytes of the rows of an operand, inter-row bytes included (R172, R175). DEDUCED (log entry 29). -/
def matBytes (f : NumFmt) (rows cols : Nat) : Nat := rows * pitch f cols

/-- Extents (address, bytes) of A, B, SA, SB. -/
def meSrcs (f : MeF) (ew : Bool) : List (Nat × Nat) :=
  if f.m = 0 || f.n = 0 then []
  else if ew then [(f.aA, matBytes f.a f.m f.n), (f.bA, matBytes f.b f.m f.n)]
  else [(f.aA, matBytes f.a f.m f.k), (f.bA, matBytes f.b f.k f.n)] ++
    (if f.a.sc then [(f.saA, f.m * cdiv f.k f.a.blk)] else []) ++
    (if f.b.sc then [(f.sbA, f.n * cdiv f.k f.b.blk)] else [])

/-- Extent of C in the core store, none into the galley. -/
def meDst (f : MeF) : List (Nat × Nat) :=
  if f.gal || f.m = 0 || f.n = 0 then [] else [(f.cA, matBytes f.c f.m f.n)]

/-- Bytes of a row of the result in the galley (R186). -/
def galRow (f : MeF) : Nat := f.n * (nfW f.c / 8)

/-- The galley conditions of R186; N = 0 breaks the power of two. DESIGN CHOICE (log entry 129). -/
def galBad (f : MeF) : Bool :=
  f.gal && (f.acc || f.cA != 0 || f.gwin != 0 || !([64, 128, 256, 512, 1024, 2048, 4096].contains (galRow f)))

/-- SKIPPED_ILLEGAL conditions of an ME command other than its window (R154, R166, R175, R186). -/
def meIllegal (x : Cmd) (ew : Bool) : Option MeF → Bool
  | none => true
  | some f =>
    fld x.w1 14 12 != 0 || fld x.w2 6 0 != 0 || fld x.w3 25 0 != 0 || !rmOk f.rm || !plainC x ||
    [f.aA, f.bA, f.cA, f.saA, f.sbA].any (fun a => a % 64 != 0) ||
    (!f.a.sc && f.saA != 0) || (!f.b.sc && f.sbA != 0) ||
    (if ew then !mewmaCombo f || f.k != 0 || f.gwin != 0 || f.saA != 0 || f.sbA != 0 else !mmaCombo f) ||
    galBad f ||
    (meDst f).any (fun d => (meSrcs f ew).any (fun r =>
      ovl d r && !(ew && d.1 == r.1 &&
        ((r.1 == f.aA && f.a.fmt == f.c.fmt) || (r.1 == f.bA && f.b.fmt == f.c.fmt)))))

/-- FP64 on GZ-9S (R55). -/
def meFused (s : State) (f : MeF) : Bool :=
  s.grade == 3 && (f.a.fmt == .fp64 || f.b.fmt == .fp64 || f.c.fmt == .fp64)

/-! ### Arithmetic (R85–R89, R179–R183) -/

/-- a × b + c rounded once in a format (R60, R88). -/
def fmaIn (f : Fmt) (rm : Rm) (fl : Bool) (a b c : FVal) : Nat × Flags :=
  if isNan a || isNan b || isNan c then (fqnan f, if isSnan a || isSnan b || isSnan c then flInv else noFlags)
  else sumRound f rm fl .ieee [.prod a b, .val c]

/-- Note the outcome of a block or step. -/
def accStep (f : Fmt) (a : Acc) (kb : Nat) (o : Nat × Flags) : Acc :=
  { bits := o.1, dead := isNan (fdecode f o.1), evs := if o.2 = noFlags then a.evs else a.evs ++ [(kb, o.2)] }

/-- A dot block of floating-point terms in FAST mode (R86, R87). -/
def fastBlock (f : Fmt) (rm : Rm) (fl : Bool) (a : Acc) (kb : Nat) (ps : List (FVal × FVal)) : Acc :=
  if a.dead then a
  else accStep f a kb (sumRound f rm fl .ieee (.val (fread fl f a.bits) :: ps.map (fun p => .prod p.1 p.2)))

/-- The steps of STRICT mode over one group of 16 k (R88). -/
def strictBlock (f : Fmt) (rm : Rm) (fl : Bool) (a : Acc) (kb : Nat) (ps : List (FVal × FVal)) : Acc :=
  ps.foldl (fun a p => accStep f a kb (fmaIn f rm fl p.1 p.2 (fread fl f a.bits))) a

/-- An INT8 block: the exact sum of accumulator and products, bounded to INT32 (R73, R180). -/
def intBlock (a : Acc) (kb : Nat) (ps : List (FVal × FVal)) : Acc :=
  let iv := fun (v : FVal) => match v with | .fin n m _ => smant n m | _ => 0
  let t := toSigned 32 a.bits + ps.foldl (fun t p => t + iv p.1 * iv p.2) 0
  if t < -(2 ^ 31) then { a with bits := ofSigned 32 (-(2 ^ 31)), evs := a.evs ++ [(kb, flOvf)] }
  else if t > 2 ^ 31 - 1 then { a with bits := ofSigned 32 (2 ^ 31 - 1), evs := a.evs ++ [(kb, flOvf)] }
  else { a with bits := ofSigned 32 t }

/-- The least of some numbers, 0 of none. -/
def leastNat (l : List Nat) : Nat := l.foldl min (l.headD 0)

/-- The flags an element raises over a whole command (R89) and the least k-block that meets an armed bit, whatever the order in time (R95,
R196). -/
def elemEvent (arm : Nat) (tile elem : Nat) (a : Acc) : List FlagEv :=
  let all := a.evs.foldl (fun f e => orFlags f e.2) noFlags
  if all = noFlags then []
  else
    let tot := elemFlags all
    let of := fun (m : Nat) => a.evs.filter (fun e => Nat.land (Nat.land (flagsNat e.2) (flagsNat tot)) m != 0)
    let es := if (of arm).isEmpty then of 15 else of arm
    [⟨tile, leastNat (es.map (·.1)), elem, tot⟩]

/-- Insert an event in the order of R95: output tile, k-block, element. -/
def insEv (e : FlagEv) : List FlagEv → List FlagEv
  | [] => [e]
  | h :: t =>
    if e.tile < h.tile || (e.tile == h.tile && (e.kblk < h.kblk || (e.kblk == h.kblk && e.elem < h.elem))) then e :: h :: t
    else h :: insEv e t
/-- Events in the order of R95. -/
def sortEvs (es : List FlagEv) : List FlagEv := es.foldl (fun a e => insEv e a) []

/-- The rows of an operand as element encodings. -/
def matRows (c : Core) (f : NumFmt) (a rows cols : Nat) : List (List Nat) :=
  (List.range rows).map (fun r => getElems (nfW f) cols (storeRead c (a + r * pitch f cols) (nfBytes f cols)))

/-- Column j of a matrix held by rows. -/
def colOf {α : Type} (d : α) (rs : List (List α)) (j : Nat) : List α := rs.map (fun r => r.getD j d)

/-- The initial elements of C (R179). -/
def initAccs (c : Core) (f : MeF) : List (List Acc) :=
  (if f.acc then matRows c f.c f.cA f.m f.n else List.replicate f.m (List.replicate f.n 0)).map (fun r => r.map (fun b => { bits := b }))

/-- The elements of C, row by row, after some dot blocks in the order given. -/
def mmaFrom (s : State) (c : Core) (f : MeF) (blocks : List Nat) (init : List (List Acc)) : List (List Acc) :=
  let fl := flushOn s
  let rm := rmOf s f.rm
  let strict := dget s kMatrixMode == 1
  let sa := cdiv f.k f.a.blk
  let sb := cdiv f.k f.b.blk
  let as_ := ((matRows c f.a f.aA f.m f.k).zip (List.range f.m)).map (fun p =>
    chunks 16 (readVals fl f.a p.1 (if f.a.sc then storeRead c (f.saA + p.2 * sa) sa else [])))
  let brows := matRows c f.b f.bA f.k f.n
  let bs := (List.range f.n).map (fun j =>
    chunks 16 (readVals fl f.b (colOf 0 brows j) (if f.b.sc then storeRead c (f.sbA + j * sb) sb else [])))
  (as_.zip init).map (fun ai =>
    (bs.zip ai.2).map (fun bi =>
      blocks.foldl (fun (acc : Acc) kb =>
        let ps := (ai.1.getD kb []).zip (bi.1.getD kb [])
        if f.c.fmt == .int32 then intBlock acc kb ps
        else if strict then strictBlock f.c.fmt rm fl acc kb ps
        else fastBlock f.c.fmt rm fl acc kb ps) bi.2))

/-- The elements of an MMA whose dot blocks are all taken. -/
def mmaElems (s : State) (c : Core) (f : MeF) (blocks : List Nat) : List (List Acc) := mmaFrom s c f blocks (initAccs c f)

/-- The elements of a MEWMA (R183). -/
def mewmaElems (s : State) (c : Core) (f : MeF) : List (List Acc) :=
  let fl := flushOn s
  let rm := rmOf s f.rm
  let init := if f.acc then matRows c f.c f.cA f.m f.n else List.replicate f.m (List.replicate f.n 0)
  ((matRows c f.a f.aA f.m f.n).zip ((matRows c f.b f.bA f.m f.n).zip init)).map (fun r =>
    (r.1.zip (r.2.1.zip r.2.2)).map (fun e =>
      accStep f.c.fmt { bits := 0 } 0
        (fmaIn f.c.fmt rm fl (fread fl f.a.fmt e.1) (fread fl f.b.fmt e.2.1) (fread fl f.c.fmt e.2.2))))

/-- The elements placed by output block: tile, element, accumulator (R174). -/
def mePlaced (f : MeF) (es : List (List Acc)) : List (Nat × Nat × Acc) :=
  let bw := cdiv f.n 8
  (es.zip (List.range es.length)).flatMap (fun r =>
    (r.1.zip (List.range r.1.length)).map (fun e => (r.2 / 8 * bw + e.2 / 8, r.2 % 8 * 8 + e.2 % 8, e.1)))

/-- The flag events of elements in the order of R95, under the armed bits as they are when the flags are raised (R95, R182). -/
def meEvents (arm : Nat) (es : List (Nat × Nat × Acc)) : List FlagEv := sortEvs (es.flatMap (fun e => elemEvent arm e.1 e.2.1 e.2.2))

/-! ### Results to the core store and the galley -/

/-- Write the rows of C, leaving the bytes between rows (R172). -/
def writeC (s : State) (k : Nat) (f : MeF) (es : List (List Acc)) : State :=
  (es.zip (List.range es.length)).foldl (fun s r =>
    cmdWrite s k 1 (f.cA + r.2 * pitch f.c f.n) (packElems (nfW f.c) (r.1.map (·.bits)))) s

/-- The slot contents of a galley result: row-major without padding, 4,096 bytes a slot, zeros beyond the last row. -/
def galSlots (f : MeF) (es : List (List Acc)) (poison : Bool) : List GSlot :=
  let bs := es.flatMap (fun r => packElems (nfW f.c) (r.map (·.bits)))
  (chunks 4096 bs).map (fun ch =>
    let b := ch ++ List.replicate (4096 - ch.length) 0
    ⟨b, crc64 b, poison⟩)

/-- Slots reserved together with the elements of their block rows: the slots of one block row, or the one slot that holds several (R187). -/
def galGroups (f : MeF) (sl : List GSlot) (es : List (Nat × Nat × Acc)) : List (List GSlot × List (Nat × Nat × Acc)) :=
  let r := 4096 / galRow f
  let gs := chunks (if r < 8 then 8 / r else 1) sl
  gs.zipIdx.map (fun p => (p.1, es.filter (fun e => e.1 / cdiv f.n 8 / (max 8 r / 8) == p.2)))

/-- Enough slots are FREE for the block row that comes next (R185, R187). -/
def galFits (c : Core) (gs : List (List GSlot × List (Nat × Nat × Acc))) : Bool :=
  match gs with
  | [] => true
  | g :: _ => c.galley.length + c.galleyRes.length + g.1.length ≤ 8

/-- The RESERVED slots are written and become FINISHED, behind those published before (R185, R187). -/
def galPublish (c : Core) : Core := { c with galley := c.galley ++ c.galleyRes, galleyRes := [] }

/-- Block rows enter while enough slots are FREE: each reserves its slots, and those reserved before are published; a block row that finds too few
waits until every earlier pass has left the array (R187). DEDUCED (log entry 123). -/
def galGo (k : Nat) (x : Cmd) : List (List GSlot × List (Nat × Nat × Acc)) → State → List (List GSlot × List (Nat × Nat × Acc)) × State
  | [], s => ([], s)
  | g :: t, s =>
    let s1 := modCore s k galPublish
    if galFits (coreAt s1 k) (g :: t) then
      let s2 := modCore s1 k (fun c => { c with galleyRes := g.1, galleyNext := (c.galleyNext + g.1.length) % 8 })
      galGo k x t (coreFlags (tallyPoison s2 k (g.1.filter (·.poison)).length) k 1 x.off x.iter (meEvents (coreAt s2 k).meF.arm.toNat g.2))
    else (g :: t, s1)

/-- End an ME command. -/
def meEnd (k : Nat) (s : State) (x : Cmd) (st : Nat) : State :=
  retire (modCore s k (fun c => { c with meJob := none })) k 1 x st

/-- A galley result goes on: block rows enter as far as slots allow, and a command whose block rows have all entered ends when its last slots
are published (R187). DEDUCED (log entry 123). -/
def galRun (k : Nat) (s : State) (x : Cmd) (gs : List (List GSlot × List (Nat × Nat × Acc))) (st : Nat) : State :=
  match gs with
  | [] => meEnd k (modCore s k galPublish) x st
  | _ =>
    let r := galGo k x gs s
    modCore r.2 k (fun c => { c with meJob := some { cmd := x, groups := r.1, since := timeNs s, status := st } })

/-- Compute and deliver an ME command that has passed its checks. `forced` is the POISON of R197. -/
def meCompute (k : Nat) (s : State) (x : Cmd) (f : MeF) (ew : Bool) (blocks : List Nat) (forced : Bool) : State :=
  if f.m = 0 || f.n = 0 then meEnd k s x stOk
  else
    let v := verifyTiles s k (tilesOfRanges (meSrcs f ew ++ (if f.acc then meDst f else [])))
    let p := mePass v.1 k
    let c := coreAt p.1 k
    let es := if ew then mewmaElems p.1 c f else mmaElems p.1 c f blocks
    let st0 := if forced then worse v.2 stPoison else v.2
    let st1 := if p.2 = 3 then worse st0 stPoison else st0
    let es1 := mePlaced f es
    if f.gal then
      let st2 := internalCond p.1 k st1
      galRun k p.1 x (galGroups f (galSlots f es (st2 != 0)) es1) st2
    else
      let s1 := coreFlags p.1 k 1 x.off x.iter (meEvents c.meF.arm.toNat es1)
      let keep := !ew && f.k = 0 && f.acc
      let s2 := if keep then s1 else writeC s1 k f es
      let st2 := if keep then st1 else internalCond s2 k st1
      let s3 := if st1 = 0 then s2 else poisonTiles s2 k 1 (tilesOfRanges (meDst f))
      meEnd k s3 x st2

/-! ### Gather windows (R193–R197) -/

/-- ALLGATHERs of the core that have not retired, oldest first: the one running, then those queued. -/
def gathers (c : Core) : List Cmd :=
  (c.collCmd.toList ++ c.cq.filter (fun x => !x.void)).filter (fun x => w0Op x.w0 == 3)

/-- The ALLGATHER an MMA binds to (R193). -/
def gatherFor (c : Core) (gwin : Nat) : Option Cmd :=
  (gathers c).find? (fun x => !c.boundUids.contains x.uid && fld x.w0 11 0 == gwin)

/-- A collective group (R375). -/
def collGroup (s : State) (g : Nat) : CollGroup := tblGet (fun _ => {}) s.collGroups g

/-- The conditions of R194 on the bound all-gather; with N = 0, where B has no pitch, they do not hold. DESIGN CHOICE (log entry 129). -/
def windowBad (s : State) (f : MeF) (g : Cmd) : Bool :=
  let len := fld g.w3 63 32
  let p := pitch f.b f.n
  let r := if p = 0 then 0 else len / p
  !g.w3.getLsbD 0 || g.w2.toNat != f.bA || f.gal || p == 0 || len % p != 0 ||
  r % 16 != 0 || (f.b.sc && f.b.blk == 32 && r % 32 != 0) ||
  r * (collGroup s (fld g.w0 15 8)).total < f.k

/-- Segments the MMA needs: those below K. -/
def segsNeeded (k r : Nat) : Nat := if r = 0 then 0 else cdiv k r

/-- Dot blocks of a segment. -/
def segBlocks (k r j : Nat) : List Nat := (List.range (r / 16)).map (· + r / 16 * j) |>.filter (fun b => 16 * b < k)

/-- The next segment to take, in the order of R195: increasing under the lock, in the order of readiness in OPEN; all
are ready once the all-gather has ended (R197). -/
def nextSeg (s : State) (j : MeJob) (need : Nat) : Option Nat :=
  let left := (List.range need).filter (fun g => !j.taken.contains g)
  match left with
  | [] => none
  | g :: _ =>
    if locked s then (if j.ended || j.order.contains g then some g else none)
    else
      match j.order.find? (fun q => left.contains q) with
      | some q => some q
      | none => if j.ended then some g else none

/-- A segment of the all-gather `uid` of a core has become ready (R195). -/
def gatherReady (c : Core) (uid seg : Nat) : Core :=
  { c with collReady := c.collReady ++ [seg],
           meJob := c.meJob.map (fun j => if j.bound = some uid then { j with order := j.order ++ [seg] } else j) }

/-- The all-gather `uid` has ended: what is left is ready at once; after a skip the MMA ends POISON (R197). -/
def gatherEnded (c : Core) (uid : Nat) (skipped : Bool) : Core :=
  { c with meJob := c.meJob.map (fun j =>
      if j.bound = some uid then { j with ended := true, status := if skipped then worse j.status stPoison else j.status } else j) }

/-- The bytes of B that segment `g` covers, and with the first segment A, the scales and C as ACC names it. -/
def segRanges (f : MeF) (r g : Nat) (first : Bool) : List (Nat × Nat) :=
  let pb := pitch f.b f.n
  let b := (f.bA + g * r * pb, (min f.k (g * r + r) - g * r) * pb)
  if first then b :: (meSrcs f false).eraseIdx 1 ++ (if f.acc then meDst f else []) else [b]

/-- The elements of C between segments: the accumulators that C in the core store holds (R196), with what each element has met so far. DEDUCED (log entry 124). -/
def backAccs (c : Core) (f : MeF) (as_ : List (List Acc)) : List (List Acc) :=
  (as_.zip (matRows c f.c f.cA f.m f.n)).map (fun r => (r.1.zip r.2).map (fun p => { p.1 with bits := p.2 }))

/-- The passes of one segment: what it reads first is verified, as is what it reads again and has been poisoned since (R197), its dot blocks
are taken, and C holds the partial accumulators (R195, R196). DEDUCED (log entry 124). -/
def gatherSeg (k : Nat) (s : State) (j : MeJob) (f : MeF) (g : Nat) : State :=
  let first := j.taken.isEmpty
  let ts := (tilesOfRanges (segRanges f j.seg g first)).filter (fun t => !j.seen.contains t || (j.status = 0 && (tileAt (coreAt s k) t).poison))
  let v := verifyTiles s k ts
  let p := mePass v.1 k
  let c := coreAt p.1 k
  let es := mmaFrom p.1 c f (segBlocks f.k j.seg g) (if first then initAccs c f else backAccs c f j.accs)
  modCore (writeC p.1 k f es) k (fun c => { c with meJob := some { j with
    taken := j.taken ++ [g], accs := es, seen := j.seen ++ ts, status := internalCond s k (worse (worse j.status v.2) (if p.2 = 3 then stPoison else 0)) } })

/-- A bound MMA whose segments are all taken ends: its flags are raised, and on a condition every tile of C is poisoned (R176, R196, R197). -/
def gatherEnd (k : Nat) (s : State) (j : MeJob) (f : MeF) : State :=
  let s1 := coreFlags s k 1 j.cmd.off j.cmd.iter (meEvents (coreAt s k).meF.arm.toNat (mePlaced f j.accs))
  let s2 := if j.status = 0 then s1 else poisonTiles s1 k 1 (tilesOfRanges (meDst f))
  meEnd k s2 j.cmd (internalCond s2 k j.status)

/-- Take ready segments while there are any, and end when all are taken (R196). -/
def gatherGo : Nat → Nat → State → State
  | 0, _, s => s
  | fuel + 1, k, s =>
    let c := coreAt s k
    match c.meJob with
    | none => s
    | some j =>
      if j.bound.isNone then s
      else
        match meFields s j.cmd with
        | none => s
        | some f =>
          let need := segsNeeded f.k j.seg
          if j.taken.length = need then
            (if need = 0 then meCompute k s j.cmd f false [] (j.status != 0) else gatherEnd k s j f)
          else
            match nextSeg s j need with
            | none => s
            | some g => gatherGo fuel k (gatherSeg k s j f g)

/-- An MMA or MEWMA that the ME takes from MQ. -/
def meRun (ew : Bool) (e : Ex) (s : State) : State :=
  let ff := meFields s e.x
  let gwin := if w0Op e.x.w0 = 1 then fld e.x.w1 11 0 else 0
  let g := if !ew && gwin != 0 then gatherFor (coreAt s e.k) gwin else none
  let s1 :=
    if ew || gwin = 0 then s
    else match g with
      | some x => dcount (modCore s e.k (fun c => { c with boundUids := c.boundUids ++ [x.uid] })) kGatherBindings 1
      | none => dcount s kGatherUnbound 1
  let release := fun (s : State) =>
    match g with
    | some x => modCore s e.k (fun c => { c with boundUids := c.boundUids.filter (· != x.uid) })
    | none => s
  match ff with
  | none => exEnd e (release s1) stIllegal
  | some f =>
    let wbad := match g with | some x => windowBad s f x | none => false
    match firstSkip [(w0Op e.x.w0 != (if ew then 2 else 1), stIllegal), (meIllegal e.x ew ff || wbad, stIllegal),
        (meFused s f, stFused), ((meSrcs f ew ++ meDst f).any (fun r => !inStore r.1 r.2), stBounds)] with
    | some code => exEnd e (release s1) code
    | none =>
      let s2 := dcount s1 kMeCommands 1
      match g with
      | some x =>
        let r := fld x.w3 63 32 / pitch f.b f.n
        if f.m = 0 || f.n = 0 then meEnd e.k s2 e.x stOk
        else
          let order := if (coreAt s e.k).collCmd.map (·.uid) = some x.uid then unionNat (coreAt s e.k).collReady [] else []
          let job : MeJob := { cmd := e.x, bound := some x.uid, seg := r, order := order }
          gatherGo (segsNeeded f.k r + 1) e.k (modCore s2 e.k (fun c => { c with meJob := some job }))
      | none => meCompute e.k s2 e.x f ew (List.range (cdiv f.k 16)) false

/-- The ME is working on a command or held (R450). -/
def meBusy (s : State) (k : Nat) (c : Core) : Bool := c.meJob.isSome || heldEngine s k

/-- An MQ opcode that is reserved (R155). -/
def meReserved (x : Cmd) : Bool := 3 ≤ w0Op x.w0

/-- MMA: C := A × B in FAST or STRICT mode (R155, R168–R182). -/
def execMma (n : Nat) (s : State) : Host.Outcome State Fault Refusal :=
  whenUp s (engineRow n .mq (fun x => w0Op x.w0 == 1 || meReserved x) meBusy (meRun false) s)

/-- MEWMA: C := A ⊙ B + C element-wise (R155, R183). -/
def execMewma (n : Nat) (s : State) : Host.Outcome State Fault Refusal :=
  whenUp s (engineRow n .mq (fun x => w0Op x.w0 == 2 || meReserved x) meBusy (meRun true) s)

/-- A bound MMA takes its next ready segment, unless issue is held (R195, R196, R450, R451). -/
def execGatherSegmentTake (n : Nat) (s : State) : Host.Outcome State Fault Refusal :=
  whenUp s (match keyOf s n with
    | none => s
    | some k => if heldEngine s k then s else gatherGo 65537 k s)

/-- A command that writes galley slots goes on: block rows enter as far as FREE slots allow, or its last slots are published (R187);
no pass enters while issue is held, and one that has entered runs to its end (R450, R451). -/
def execGalleySlotReserve (n : Nat) (s : State) : Host.Outcome State Fault Refusal :=
  whenUp s (match keyOf s n with
    | none => s
    | some k =>
      match (coreAt s k).meJob with
      | none => s
      | some j =>
        if j.bound.isSome || (!j.groups.isEmpty && (heldEngine s k || !galFits (coreAt s k) j.groups)) then s else galRun k s j.cmd j.groups j.status)

/-- The wait for a FREE slot has outlasted TOKEN_STALL_LIMIT: the command ends PARTIAL (R190). -/
def execGalleyStallRelease (n at_ : Nat) (s0 : State) : Host.Outcome State Fault Refusal :=
  whenUp s0 (let s := atTime s0 at_
    match keyOf s n with
    | none => s
    | some k =>
      match (coreAt s k).meJob with
      | none => s
      | some j =>
        let limit := dget s kTokenStallLimit
        if j.bound.isSome || limit = 0 || timeNs s ≤ j.since + limit || galFits (coreAt s k) j.groups then s
        else meEnd k (dcount (tallySkip (modCore s k (fun c => { c with galleyRes := [] })) k) kGalleyStallReleases 1) j.cmd
          (worse j.status stPartial))

end Sys2Proof.Machine
end

