-- ==== Sys2Proof/Machine/SolverOps.lean ====
section
/-! DEFINITION. Fixed-point arithmetic of the solver engines (R64–R67, R241–R256): exact sums and quotients rounded once into
FX72 or, in a RANGE's rehearsal, FP64 operations; and the direct solves written once over both. -/
namespace Sys2Proof.Machine
open Sys2Proof Config

/-- Zero. -/
def sv0 : Sv := ⟨.fin false 0 0, 0⟩
/-- One. -/
def sv1 : Sv := ⟨.fin false 1 0, 1⟩

/-- The classes of R242: 0 SI, 1 SW, 2 SL, 3 SV. -/
abbrev cSI : Nat := 0
/-- Working values. -/
abbrev cSW : Nat := 1
/-- Lower factors. -/
abbrev cSL : Nat := 2
/-- Vectors. -/
abbrev cSV : Nat := 3

/-- A computation that keeps a `Tr`. -/
abbrev SM (α : Type) : Type := StateM Tr α

/-- Scale blocks per system (R242). -/
def nBlocks (e : SEnv) : Nat := cdiv e.n 32

/-- Scale of a class for a row of a system (R242). -/
def scaleOf (e : SEnv) (q row cls : Nat) : Int :=
  toSigned 16 (tblGet (fun _ => 0) e.scales (q * nBlocks e + row / 32) / 2 ^ (16 * cls))

/-- e(m) of R251: ⌊log₂ m⌋ + 1, 0 for 0. -/
def eOf (v : FVal) : Int := if isFin v && !isZero v then flog2V v + 1 else 0
where isFin (v : FVal) : Bool := !isNan v && !isInf v

/-- Raise flags at a row of the current system (`dot` 0), or at an iteration's dot products (`dot` 1), R267. DEDUCED (log entry 122). -/
def raiseEl (dot row : Nat) (f : Flags) : SM Unit :=
  modify (fun t => if f = noFlags then t else { t with evs := t.evs ++ [⟨t.sys, row, dot, f⟩] })
/-- Raise flags at a row of the current system. -/
def raiseAt (row : Nat) (f : Flags) : SM Unit := raiseEl 0 row f

/-- The lesser of two places, in system order and then row order. -/
def firstAt (a : Option (Nat × Nat)) (p : Nat × Nat) : Option (Nat × Nat) :=
  match a with
  | none => some p
  | some q => if p.1 < q.1 || (p.1 == q.1 && p.2 < q.2) then some p else some q

/-- Count a saturation of a row, or of a dot product (R247, R248). -/
def satAtEl (dot row : Nat) : SM Unit := do
  modify (fun t => { t with sat := t.sat + 1, satAt := firstAt t.satAt (t.sys, row) })
  raiseEl dot row flOvf
/-- Count a saturation of a row. -/
def satAtRow (row : Nat) : SM Unit := satAtEl 0 row

/-- Track a magnitude of a class in the rehearsal (R251). -/
def track (e : SEnv) (cls row : Nat) (v : FVal) : SM Unit :=
  modify (fun t =>
    match v with
    | .fin _ m x =>
      let d : Nat → FVal := fun _ => .fin false 0 0
      let k := 4 * (t.sys * nBlocks e + row / 32) + cls
      { t with maxes := tblSet d t.maxes k (fmaxV (tblGet d t.maxes k) (.fin false m x)) }
    | _ => t)

/-- Round a to the nearest multiple of b, ties to even. -/
def rneDiv (a b : Nat) : Nat × Bool :=
  let q := a / b
  let r := a % b
  if r = 0 then (q, false) else if 2 * r < b then (q, true) else if b < 2 * r then (q + 1, true) else (q + q % 2, true)

/-- A result before it is rounded: an exact value, a quotient, or a square root (R248, R249). -/
inductive Pre where
  | val (v : FVal) | quo (a b : FVal) | root (v : FVal)
  deriving DecidableEq, Repr

/-- The signed integer nearest to a result in units of 2^g, ties to even; a quotient by zero lies beyond every bound. -/
def gridOf (g : Int) : Pre → Int × Bool
  | .val (.fin n m e) => let r := roundGrid .rne n m e g false; (smant n r.1, r.2)
  | .quo (.fin n a e) (.fin k b f) =>
    if a = 0 then (0, false)
    else if b = 0 then (smant (n != k) (2 ^ 72), true)
    else
      let x := e - f - g
      let r := if x ≥ 0 then rneDiv (a * 2 ^ x.toNat) b else rneDiv a (b * 2 ^ (-x).toNat)
      (smant (n != k) r.1, r.2)
  | .root (.fin _ a e) =>
    let x := e - 2 * g
    if x ≥ 0 then
      let v := a * 2 ^ x.toNat
      let r := isqrt v
      (((if (2 * r + 1) * (2 * r + 1) < 4 * v then r + 1 else r : Nat) : Int), r * r != v)
    else
      let y := 2 ^ (-x).toNat
      let r := isqrt (a / y)
      let c := compare ((2 * r + 1) * (2 * r + 1) * y) (4 * a)
      (((if c == .lt then r + 1 else if c == .eq then r + r % 2 else r : Nat) : Int), r * r * y != a)
  | .val (.inf n) => (smant n (2 ^ 72), false)
  | _ => (0, false)

/-- The FP64 rounding of a result (R67, R249); an exact zero, and a quotient of one by any pivot, gives +0 (R250, R256). -/
def outOf (fl : Bool) : Pre → Nat × Flags
  | .val (.fin _ 0 _) => (0, noFlags)
  | .quo (.fin _ 0 _) (.fin _ _ _) => (0, noFlags)
  | .val v => fencode .fp64 .rne fl .ieee v
  | .quo a b => fdivRound .fp64 .rne fl .ieee a b
  | .root v => fsqrtRound .fp64 .rne fl .ieee v

/-- Store a result at the scale of its destination: rounded once into FX72 with saturation, or once into FP64 in the
rehearsal. Beside the stored value stand the FP64 output bits, made from the exact value, and the flags of their rounding,
which are raised where the value is output (R248). -/
def putOut (e : SEnv) (cls row : Nat) (x : Pre) : SM (Sv × Nat × Flags) := do
  if e.fx then
    let s := scaleOf e (← get).sys row cls
    let r := gridOf (s - 71) x
    let hi : Int := 2 ^ 71 - 1
    let lo : Int := -(2 ^ 71)
    let sat := r.1 < lo || hi < r.1
    let m := if r.1 < lo then lo else if hi < r.1 then hi else r.1
    let v : FVal := .fin (m < 0) m.natAbs (s - 71)
    if sat then satAtRow row
    raiseAt row (if r.2 then flInx else noFlags)
    return (⟨v, s⟩, outOf e.flush (if sat then .val v else x))
  else
    let o := outOf e.flush x
    let v := fread e.flush .fp64 o.1
    track e cls row v
    return (⟨v, 0⟩, o.1, noFlags)

/-- Store a result that is output if `out` holds (R248). -/
def put (e : SEnv) (cls row : Nat) (x : Pre) (out : Bool) : SM (Sv × Nat) := do
  let r ← putOut e cls row x
  raiseAt row (if out then r.2.2 else noFlags)
  return (r.1, r.2.1)

/-- Convert an FP64 input at the scale of its class (R65, R247). `cls` says where the rehearsal tracks it. -/
def input (e : SEnv) (cls tcls row bits : Nat) : SM Sv := do
  let v := fread e.flush .fp64 bits
  if e.fx then
    let s := scaleOf e (← get).sys row cls
    match v with
    | .nan _ => do raiseAt row flInv; return ⟨.fin false 0 0, s⟩
    | .inf n => do
      raiseAt row flInv
      return ⟨.fin n (if n then 2 ^ 71 else 2 ^ 71 - 1) (s - 71), s⟩
    | _ => do let r ← put e cls row (.val v) false; return r.1
  else
    if isNan v || isInf v then raiseAt row flInv
    track e tcls row v
    return ⟨v, 0⟩

/-- Clamp an exact sum of products to the FX192 range at accumulator scale t (R66). -/
def fx192 (dot row : Nat) (t : Int) (v : FVal) : SM FVal := do
  let g := t - 142
  match v with
  | .fin n m x =>
    let lim : FVal := .fin false 1 (191 + g)
    if (if n then fltV lim (.fin false m x) else !fltV (.fin false m x) lim) then do
      satAtEl dot row
      return (if n then .fin true 1 (191 + g) else .fin false (2 ^ 191 - 1) g)
    else return v
  | _ => return v

/-- Least product scale of pairs. DEDUCED (log entry 31). -/
def leastScale : List (Sv × Sv) → Option Int
  | [] => none
  | p :: t => match leastScale t with
    | none => some (p.1.s + p.2.s)
    | some x => some (min x (p.1.s + p.2.s))

/-- FP64 step of the rehearsal. -/
def r64e (e : SEnv) (r : Nat × Flags) : FVal := fread e.flush .fp64 r.1

/-- init − Σ a·b (or init + Σ), exact in FX192; in the rehearsal each operation is rounded, in order (R248, R251). DEDUCED (log entry 31). -/
def sumProd (e : SEnv) (row : Nat) (init : Option Sv) (minus : Bool) (ps : List (Sv × Sv)) : SM FVal := do
  if e.fx then
    let sg := fun (v : FVal) => if minus then fnegV v else v
    let r := sumVal (exactSum .rne (init.toList.map (fun x => .val x.v) ++ ps.map (fun p => .prod (sg p.1.v) p.2.v)))
    let r := match r with | .fin _ 0 _ => FVal.fin false 0 0 | x => x
    match leastScale ps with
    | none => return r
    | some t => fx192 0 row t r
  else
    let mul := fun (p : Sv × Sv) => r64e e (fpMulR p.1.v p.2.v e.flush)
    match init, ps with
    | some x, ps => return ps.foldl (fun a p => r64e e (add a (if minus then fnegV (mul p) else mul p) e.flush)) x.v
    | none, [] => return .fin false 0 0
    | none, p :: t =>
      return t.foldl (fun a p => r64e e (add a (if minus then fnegV (mul p) else mul p) e.flush))
        (if minus then fnegV (mul p) else mul p)
where
  add (a b : FVal) (fl : Bool) : Nat × Flags := sumRound .fp64 .rne fl .ieee [.val a, .val b]
  fpMulR (a b : FVal) (fl : Bool) : Nat × Flags :=
    match mulRes a b with
    | .nan _ => (fqnan .fp64, noFlags)
    | .invalid => (fqnan .fp64, flInv)
    | .inf n => (finfBits .fp64 n, noFlags)
    | .fin n m x => roundFin .fp64 .rne fl .ieee n m x false

/-- A product of the rehearsal, rounded once (R251). DEDUCED (log entry 32). -/
def mul64 (e : SEnv) (a b : FVal) : FVal := r64e e (sumProd.fpMulR a b e.flush)

/-- A member's part of a dot product: exact; in the rehearsal each product is rounded to FP64 and the sum is harebell's
exact FP64 sum (R252, R257, R387). -/
def dotPart (e : SEnv) (ps : List (Sv × Sv)) : FVal :=
  sumVal (exactSum .rne (if e.fx then ps.map (fun p => .prod p.1.v p.2.v)
    else ps.map (fun p => .val (mul64 e p.1.v p.2.v))))

/-- ⌊log₂⌋ of the magnitude of a result; none for zero and for what is not finite. -/
def flog2Pre : Pre → Option Int
  | .val (.fin _ m x) => if m = 0 then none else some ((flog2 m : Int) + x)
  | .quo (.fin _ a x) (.fin _ b y) =>
    if a = 0 || b = 0 then none
    else
      let d : Int := (flog2 a : Int) - (flog2 b : Int)
      let lt := if d ≥ 0 then decide (a < b * 2 ^ d.toNat) else decide (a * 2 ^ (-d).toNat < b)
      some (d + x - y - (if lt then 1 else 0))
  | .root (.fin _ m x) => if m = 0 then none else some (((flog2 m : Int) + x) / 2)
  | _ => none

/-- The range of scales the engine sets (R250). DEDUCED (log entry 42). -/
def clampScale (s : Int) : Int := max (-1024) (min 1023 s)

/-- A scalar of an iteration: rounded once to FX72 at its self-scale e(|value|) + 1 (R250, R257), or into FP64. -/
def scalar (e : SEnv) (row : Nat) (x : Pre) : SM Sv := do
  if e.fx then
    match x with
    | .val (.nan _) => do raiseEl 1 row flInv; return sv0
    | .val (.inf n) => do
      raiseEl 1 row flInv
      return ⟨.fin n (if n then 2 ^ 71 else 2 ^ 71 - 1) (1023 - 71), 1023⟩
    | _ =>
      let s0 := clampScale ((match flog2Pre x with | some l => l + 1 | none => 0) + 1)
      let r := gridOf (s0 - 71) x
      let hi : Int := 2 ^ 71 - 1
      let lo : Int := -(2 ^ 71)
      if r.1 < lo || hi < r.1 then satAtEl 1 row
      raiseEl 1 row (if r.2 then flInx else noFlags)
      let m := if r.1 < lo then lo else if hi < r.1 then hi else r.1
      return ⟨.fin (m < 0) m.natAbs (s0 - 71), s0⟩
  else return ⟨fread e.flush .fp64 (outOf e.flush x).1, 0⟩

/-- τ of the pivot's block (R255). -/
def tauOf (e : SEnv) (q row : Nat) : FVal := .fin false 1 (scaleOf e q row cSI - e.tau)

/-- Regularise a pivot (R255): `p` its value as held, `d` the value compared. The value that replaces it is held in the
working class (R242, R251). -/
def pivot (e : SEnv) (row : Nat) (chol : Bool) (p : Sv) (d : FVal) : SM (Sv × Bool) := do
  let t ← get
  let tau := tauOf e t.sys row
  let small := if chol then fltV d tau else fltV (fabsV d) tau
  if isNan d || !small then return (p, false)
  else
    if chol && signOf d && !isZero d then raiseAt row flInv
    modify (fun t => { t with reg := t.reg + 1, regAt := firstAt t.regAt (t.sys, row) })
    if e.fx then pure () else track e cSW row tau
    let neg := !chol && signOf d && !isZero d
    return (⟨if neg then fnegV tau else tau, p.s⟩, true)

/-- Store and regularise a computed pivot (R254, R255): CHOL and LDLT (`exact`) compare the exact value, the others the
value as stored. What is replaced is not stored, and raises no flag of its rounding. DEDUCED (log entry 152). -/
def pivotOf (e : SEnv) (row : Nat) (chol exact : Bool) (d : FVal) : SM (Sv × Bool) := do
  let t0 ← get
  let ps ← put e cSW row (.val d) false
  let t1 ← get
  set t0
  let p ← pivot e row chol ps.1 (if exact then d else ps.1.v)
  if p.2 then return p
  else
    set t1
    return p

/-- A deadline checkpoint (R263): TIME moves to the next sampled time and is compared with DEADLINE. DEDUCED (log entry 47). -/
def checkpoint (e : SEnv) : SM Unit :=
  modify (fun t =>
    let now := match t.times with | x :: _ => max t.now x | [] => t.now
    { t with now := now, times := t.times.tail, lapsed := t.lapsed || (e.deadline != 0 && e.deadline ≤ now) })

/-- Do `x` unless the deadline has lapsed. DEDUCED (log entry 47). -/
def unlessLapsed {α : Type} (d : α) (x : SM α) : SM α := do
  if (← get).lapsed then return d else x

/-- Rows 0 to n − 1. -/
abbrev rowsUp (n : Nat) : List Nat := List.range n
/-- Rows n − 1 down to 0. -/
abbrev rowsDown (n : Nat) : List Nat := (List.range n).reverse

/-- A vector or matrix being built, by index. -/
abbrev Vec := Tbl Sv
/-- Element of a vector; zero when not set. -/
def vget (v : Vec) (i : Nat) : Sv := tblGet (fun _ => sv0) v i
/-- Set an element. -/
def vset (v : Vec) (i : Nat) (x : Sv) : Vec := tblSet (fun _ => sv0) v i x

/-- Solutions as they are written: FP64 bits by row. -/
abbrev Outs := List (Nat × Nat)

/-- TRIDIAG for the current system: Thomas algorithm (R254). `a`, `b`, `c`, `d` give the FP64 bits of row i. -/
def tridiagSys (e : SEnv) (a b c d : Nat → Nat) : SM Outs := do
  let fwd ← (rowsUp e.n).foldlM (fun (st : Vec × Vec × Nat × Vec) i => do
    let (cs, ds, _, _) := st
    let av ← if i = 0 then pure sv0 else input e cSI cSW i (a i)
    let bv ← input e cSI cSW i (b i)
    let cv ← if i + 1 = e.n then pure sv0 else input e cSI cSW i (c i)
    let dv ← input e cSV cSV i (d i)
    let p0 ← sumProd e i (some bv) true (if i = 0 then [] else [(av, vget cs (i - 1))])
    let pv ← pivotOf e i false false p0
    let cq ← if i + 1 = e.n then pure (sv0, 0) else put e cSL i (.quo cv.v pv.1.v) false
    let num ← sumProd e i (some dv) true (if i = 0 then [] else [(av, vget ds (i - 1))])
    let dq ← put e cSV i (.quo num pv.1.v) (decide (i + 1 = e.n))
    return (vset cs i cq.1, vset ds i dq.1, dq.2, ([] : Vec))) (([] : Vec), ([] : Vec), 0, ([] : Vec))
  let (cs, ds, last, _) := fwd
  if e.n = 0 then return []
  else
    let back ← (rowsDown (e.n - 1)).foldlM (fun (st : Sv × Outs) i => do
      let num ← sumProd e i (some (vget ds i)) true [(vget cs i, st.1)]
      let x ← put e cSV i (.val num) true
      return (x.1, (i, x.2) :: st.2)) (vget ds (e.n - 1), [(e.n - 1, last)])
    return back.2

/-- Factors: matrix entries by i·n + j, pivots by row, exchanged rows by step. -/
structure Facts where
  l : Vec
  u : Vec
  d : Vec
  piv : List Nat
  deriving DecidableEq, Repr

/-- Swap the rows k and r of a matrix held by i·n + j. DEDUCED (log entry 44). -/
def swapRows (n k r : Nat) (m : Vec) : Vec :=
  if k = r then m
  else (List.range n).foldl (fun m j =>
    let x := vget m (k * n + j); let y := vget m (r * n + j)
    vset (vset m (k * n + j) y) (r * n + j) x) m

/-- LU with partial pivoting, exact sums, one rounding per stored value (R254); BANDED is the same without exchanges and
within the band. -/
def luFactor (e : SEnv) (panels exchange : Bool) (a0 : Vec) (inB : Nat → Nat → Bool) : SM Facts := do
  let n := e.n
  let r ← (rowsUp n).foldlM (fun (st : Vec × Vec × Vec × Vec × List Nat) k => do
    let (a, l, u, d, pv) := st
    if panels && k % 32 = 0 then checkpoint e
    unlessLapsed st do
      let col ← ((rowsUp n).filter (fun i => k ≤ i && inB i k)).mapM (fun i => do
        let v ← sumProd e i (some (vget a (i * n + k))) true
          (((rowsUp k).filter (fun m => inB i m && inB m k)).map (fun m => (vget l (i * n + m), vget u (m * n + k))))
        return (i, v))
      let best := if exchange then
          (col.foldl (fun (b : Option (Nat × FVal)) c =>
            match b with
            | none => some c
            | some x => if fltV (fabsV x.2) (fabsV c.2) then some c else some x) none).map (·.1)
        else none
      let rr := best.getD k
      let a := if exchange then swapRows n k rr a else a
      let l := if exchange then swapRows n k rr l else l
      let val := fun i => ((col.find? (fun c => c.1 == (if i = k then rr else if i = rr then k else i))).map (·.2)).getD (.fin false 0 0)
      let p ← pivotOf e k false false (val k)
      let l2 ← ((rowsUp n).filter (fun i => k < i && inB i k)).foldlM (fun (l : Vec) i => do
        let q ← put e cSL i (.quo (val i) p.1.v) false
        return vset l (i * n + k) q.1) l
      let u2 ← ((rowsUp n).filter (fun j => k < j && inB k j)).foldlM (fun (u : Vec) j => do
        let v ← sumProd e k (some (vget a (k * n + j))) true
          (((rowsUp k).filter (fun m => inB k m && inB m j)).map (fun m => (vget l2 (k * n + m), vget u (m * n + j))))
        let q ← put e cSW k (.val v) false
        return vset u (k * n + j) q.1) (vset u (k * n + k) p.1)
      return (a, l2, u2, vset d k p.1, pv ++ [rr])) (a0, [], [], [], [])
  return ⟨r.2.1, r.2.2.1, r.2.2.2.1, r.2.2.2.2⟩

/-- CHOL (`ldl` false) and LDLT (R254). For CHOL the pivot is held as L's diagonal. DEDUCED (log entry 32). -/
def cholFactor (e : SEnv) (ldl : Bool) (a : Vec) : SM Facts := do
  let n := e.n
  let r ← (rowsUp n).foldlM (fun (st : Vec × Vec) k => do
    let (l, d) := st
    if k % 32 = 0 then checkpoint e
    unlessLapsed st do
      let lk := fun i m => vget l (i * n + m)
      let wt := fun m (x : Sv) => if ldl then scaleBy e x (vget d m) else x
      let dv ← sumProd e k (some (vget a (k * n + k))) true ((rowsUp k).map (fun m => (wt m (lk k m), lk k m)))
      let p ← pivotOf e k (!ldl) true dv
      let diag ← if ldl then pure p.1 else Functor.map (·.1) (put e cSL k (.root (if p.2 then p.1.v else dv)) false)
      let l1 := if ldl then l else vset l (k * n + k) diag
      let l2 ← ((rowsUp n).filter (fun i => k < i)).foldlM (fun (q : Vec) i => do
        let v ← sumProd e i (some (vget a (i * n + k))) true ((rowsUp k).map (fun m => (wt m (lk i m), lk k m)))
        let x ← put e cSL i (.quo v diag.v) false
        return vset q (i * n + k) x.1) l1
      return (l2, vset d k diag)) ([], [])
  return ⟨r.1, [], r.2, []⟩
where
  scaleBy (e : SEnv) (x y : Sv) : Sv :=
    if e.fx then
      match mulRes x.v y.v with
      | .fin n m g => ⟨.fin n m g, x.s + y.s⟩
      | .inf n => ⟨.inf n, 0⟩
      | _ => ⟨.nan false, 0⟩
    else ⟨mul64 e x.v y.v, 0⟩

/-- Forward and backward substitution over factors (R254, R249). `kind`: 0 LU, 1 CHOL, 2 LDLT. -/
def substitute (e : SEnv) (kind : Nat) (f : Facts) (b0 : Vec) (inB : Nat → Nat → Bool) : SM Outs := do
  let n := e.n
  let b := (f.piv.zip (List.range f.piv.length)).foldl (fun (b : Vec) p =>
    let x := vget b p.2; let y := vget b p.1
    vset (vset b p.2 y) p.1 x) b0
  let y ← (rowsUp n).foldlM (fun (y : Vec) k => do
    let v ← sumProd e k (some (vget b k)) true (((rowsUp k).filter (inB k)).map (fun m => (vget f.l (k * n + m), vget y m)))
    let q ← put e cSV k (if kind = 1 then .quo v (vget f.d k).v else .val v) false
    return vset y k q.1) []
  let z ← if kind = 2 then
      (rowsUp n).foldlM (fun (z : Vec) k => do
        let q ← put e cSV k (.quo (vget y k).v (vget f.d k).v) false
        return vset z k q.1) []
    else pure y
  let r ← (rowsDown n).foldlM (fun (st : Vec × Outs) k => do
    let up := fun m => if kind = 0 then vget f.u (k * n + m) else vget f.l (m * n + k)
    let v ← sumProd e k (some (vget z k)) true
      (((rowsUp n).filter (fun m => k < m && inB k m)).map (fun m => (up m, vget st.1 m)))
    let q ← put e cSV k (if kind = 2 then .val v else .quo v (vget f.d k).v) true
    return (vset st.1 k q.1, (k, q.2) :: st.2)) ([], [])
  return r.2

end Sys2Proof.Machine
end

