-- ==== Sys2Proof/Machine/Solver.lean ====
section
/-! DEFINITION. The solver engines (R236–R270): iterative solves, range analysis, command checks, deadlines and reuses,
reports, and the SQ rows. -/
namespace Sys2Proof.Machine
open Sys2Proof Config

/-! ### Iterative solves (R257–R260) -/

/-- Work on system `q`. -/
def atSys (q : Nat) : SM Unit := modify (fun t => { t with sys := q })

/-- Pairs of row `i` of system `q`'s operator with a vector (R243). -/
def bandPairs (e : SEnv) (a v : Vec) (q i : Nat) : List (Sv × Sv) :=
  let w := e.kl + e.ku + 1
  ((List.range w).filter (fun j => e.kl ≤ i + j && i + j < e.n + e.kl)).map (fun j =>
    (vget a ((q * e.n + i) * w + j), vget v (q * e.n + (i + j - e.kl))))

/-- Do something for every row of every system that is `on`. -/
def forRows {α : Type} (e : SEnv) (on : Nat → Bool) (x : α) (f : α → Nat → Nat → SM α) : SM α :=
  (List.range e.batch).foldlM (fun x q => do
    if on q then do
      atSys q
      (rowsUp e.n).foldlM (fun x i => f x q i) x
    else return x) x

/-- Dot product parts of two vectors in every system. DEDUCED (log entry 41). -/
def dots (e : SEnv) (u v : Vec) : List FVal :=
  (List.range e.batch).map (fun q => dotPart e ((rowsUp e.n).map (fun i => (vget u (q * e.n + i), vget v (q * e.n + i)))))

/-- A list element. -/
def bAt (l : List Bool) (q : Nat) : Bool := l.getD q false
/-- A value of a list. -/
def fAt (l : List FVal) (q : Nat) : FVal := l.getD q (.fin false 0 0)

/-- A system still being updated. -/
def live (t : IterSt) (q : Nat) : Bool := !bAt t.conv q && !bAt t.stop q

/-- ‖r‖² ≤ 2^(−2 TOL)‖b‖² (R257). -/
def meets (t : IterSt) (rr bb : FVal) : Bool :=
  !isNan rr && !isNan bb && !fltV (fscale (-(2 * t.tol : Nat)) bb) rr

/-- b − A x of the systems that are `on`. -/
def residuals (e : SEnv) (t : IterSt) (on : Nat → Bool) : SM Vec :=
  forRows e on t.r (fun r q i => do
    let v ← sumProd e i (some (vget t.b (q * e.n + i))) true (bandPairs e t.a t.x q i)
    let y ← put e cSV i (.val v) false
    return vset r (q * e.n + i) y.1)

/-- A v. -/
def applyA (e : SEnv) (t : IterSt) (v : Vec) : SM Vec :=
  forRows e (live t) [] (fun w q i => do
    let s ← sumProd e i none false (bandPairs e t.a v q i)
    let y ← put e cSV i (.val s) false
    return vset w (q * e.n + i) y.1)

/-- Sample the deadline as a reduction is entered (R263, R265). DEDUCED (log entry 47). -/
def sampleLapse (e : SEnv) (t : IterSt) : SM IterSt := do
  let old := (← get).lapsed
  checkpoint e
  let l := (← get).lapsed
  modify (fun x => { x with lapsed := old })
  return { t with lapse := l }

/-- Enter a CG iteration (R258). DEDUCED (log entry 39). -/
def cgStart (e : SEnv) (t : IterSt) : SM IterSt := do
  let w ← applyA e t t.p
  return { t with ph := 1, w := w, out := (dots e t.p w).map (fun d => [d]), lapse := false }

/-- Enter a GMRES inner step (R259). DEDUCED (log entry 39). -/
def gmStep (e : SEnv) (t : IterSt) : SM IterSt := do
  let v := t.basis.getD t.inner []
  let w ← applyA e t v
  let cs := (t.basis ++ [w]).map (fun u => dots e u w)
  sampleLapse e { t with ph := 3, w := w, out := (List.range e.batch).map (fun q => cs.map (fun c => fAt c q)) }

/-- Begin a GMRES cycle of every system still being updated: v₀ = r / ‖r‖ (R257, R259). -/
def gmStart (e : SEnv) (t : IterSt) : SM IterSt := do
  let bs ← (List.range e.batch).foldlM (fun (l : List Sv) q => do
    atSys q
    let s ← if live t q then scalar e t.iters (.root (fAt t.rr q)) else pure sv0
    return l ++ [s]) []
  let v ← forRows e (live t) [] (fun w q i => do
    let y ← put e cSV i (.quo (vget t.r (q * e.n + i)).v (bs.getD q sv0).v) false
    return vset w (q * e.n + i) y.1)
  gmStep e { t with beta := bs, basis := [v], cols := [], inner := 0, idle := t.conv.map (fun _ => false) }

/-- FP64 operations of the least-squares problem of a cycle, with the flags that they raise (R90, R259, R268). -/
abbrev GM (α : Type) : Type := StateM Flags α
/-- The value of one FP64 operation; its flags join. DEDUCED (log entry 41). -/
def g64 (fl : Bool) (r : Nat × Flags) : GM FVal := do
  modify (orFlags · r.2)
  return fread fl .fp64 r.1
/-- Product. -/
def gMul (fl : Bool) (a b : FVal) : GM FVal := g64 fl (sumProd.fpMulR a b fl)
/-- Sum. -/
def gAdd (fl : Bool) (a b : FVal) : GM FVal := g64 fl (sumRound .fp64 .rne fl .ieee [.val a, .val b])
/-- Quotient. -/
def gDiv (fl : Bool) (a b : FVal) : GM FVal := g64 fl (fdivRound .fp64 .rne fl .ieee a b)
/-- Square root. -/
def gSqrt (fl : Bool) (a : FVal) : GM FVal := g64 fl (fsqrtRound .fp64 .rne fl .ieee a)

/-- a·b + c·d, each operation rounded. -/
def gPair (fl : Bool) (a b c d : FVal) : GM FVal := do gAdd fl (← gMul fl a b) (← gMul fl c d)

/-- Rotate (a, b) by (c, s). -/
def givRot (fl : Bool) (cs : FVal × FVal) (a b : FVal) : GM (FVal × FVal) := do
  let x ← gPair fl cs.1 a cs.2 b
  let y ← gPair fl cs.1 b (fnegV cs.2) a
  return (x, y)

/-- One column of the Hessenberg matrix: rotations so far, triangular columns, right side. -/
def givColumn (fl : Bool) (st : List (FVal × FVal) × List (List FVal) × List FVal) (col : List FVal) :
    GM (List (FVal × FVal) × List (List FVal) × List FVal) := do
  let (rots, rs, g) := st
  let k := rots.length
  let c ← (rots.zip (List.range k)).foldlM (fun (c : List FVal) p => do
    let r ← givRot fl p.1 (fAt c p.2) (fAt c (p.2 + 1))
    return (c.set p.2 r.1).set (p.2 + 1) r.2) col
  let h ← gSqrt fl (← gPair fl (fAt c k) (fAt c k) (fAt c (k + 1)) (fAt c (k + 1)))
  let cs := (← gDiv fl (fAt c k) h, ← gDiv fl (fAt c (k + 1)) h)
  let gk := fAt g k
  let u ← gMul fl cs.1 gk
  let v ← gMul fl cs.2 gk
  return (rots ++ [cs], rs ++ [(c.take k) ++ [h]], (g.set k u) ++ [fnegV v])

/-- The coefficients of a cycle's least-squares problem (R259). -/
def givSolve (fl : Bool) (beta : FVal) (cols : List (List FVal)) : GM (List FVal) := do
  let (_, rs, g) ← cols.foldlM (givColumn fl) ([], [], [beta])
  (List.range cols.length).reverse.foldlM (fun (y : List FVal) k => do
    let num ← (List.range y.length).foldlM (fun a i => do
      gAdd fl a (fnegV (← gMul fl (fAt (rs.getD (k + 1 + i) []) k) (fAt y i)))) (fAt g k)
    return (← gDiv fl num (fAt (rs.getD k []) k)) :: y) []

/-- FP64 of a scalar. -/
def sv64 (fl : Bool) (x : Sv) : GM FVal := g64 fl (outOf fl (.val x.v))

/-- Run FP64 work of iteration `it` of the current system: its flags are raised there, but for the rehearsal's (R251, R268). -/
def raiseG {α : Type} (e : SEnv) (it : Nat) (x : GM α) : SM α := do
  let r := x.run noFlags
  raiseEl 1 it (if e.fx then r.2 else noFlags)
  return r.1

/-- Element `k` of the iterate: its stored value, and its output bits with the flags of their rounding (R248). -/
def setX (t : IterSt) (k : Nat) (y : Sv × Nat × Flags) : IterSt :=
  { t with x := vset t.x k y.1, xo := tblSet (fun _ => 0) t.xo k y.2.1, xf := tblSet (fun _ => noFlags) t.xf k y.2.2 }

/-- The flags of the output rounding of the iterates that are delivered (R67, R248). -/
def raiseOuts (e : SEnv) (t : IterSt) : SM Unit :=
  forRows e (fun _ => true) () (fun _ q i => raiseAt i (tblGet (fun _ => noFlags) t.xf (q * e.n + i)))

/-- End a GMRES cycle: x += Σ y v, and the true residual enters a reduction (R257, R259). -/
def gmEnd (e : SEnv) (t : IterSt) : SM IterSt := do
  let ys ← (List.range e.batch).foldlM (fun (l : List (List Sv)) q => do
    if live t q then
      atSys q
      let cols := (t.cols.map (fun c => c.getD q [])).filter (fun c => !c.isEmpty)
      let y ← raiseG e t.iters (do
        let b ← sv64 e.flush (t.beta.getD q sv0)
        let cs ← cols.mapM (fun c => c.mapM (sv64 e.flush))
        givSolve e.flush b cs)
      let s ← y.mapM (fun v => scalar e t.iters (.val v))
      return l ++ [s]
    else return l ++ [[]]) []
  let t ← forRows e (live t) t (fun t q i => do
    let k := q * e.n + i
    let v ← sumProd e i (some (vget t.x k)) false (((ys.getD q []).zip t.basis).map (fun p => (p.1, vget p.2 k)))
    let y ← putOut e cSV i (.val v)
    return setX t k y)
  let r ← residuals e t (live t)
  let t := { t with r := r }
  return { t with ph := 0, out := (List.range e.batch).map (fun q => [fAt (dots e t.b t.b) q, fAt (dots e r r) q]), lapse := false }

/-- The first reduction: b·b and r·r (R257). -/
def iterStart (e : SEnv) (t : IterSt) : SM IterSt := do
  let none' := (List.range e.batch).map (fun _ => false)
  let r ← residuals e { t with conv := none', stop := none' } (fun _ => true)
  return { t with r := r, p := r, conv := none', stop := none', ph := 0,
                  out := (List.range e.batch).map (fun q => [fAt (dots e t.b t.b) q, fAt (dots e r r) q]) }

/-- Every system meets its tolerance. -/
def allConv (t : IterSt) : Bool := t.conv.all id

/-- After a convergence decision: end, abandon or go on (R257, R264). DEDUCED (log entry 40). -/
def iterNext (e : SEnv) (t : IterSt) (go : SEnv → IterSt → SM IterSt) : SM IterSt := do
  if allConv t then return { t with fin := some true }
  else if t.late then return { t with fin := some false }
  else if t.maxit ≤ t.iters then return { t with fin := some true }
  else go e t

/-- The reduction returns the global sums `s` of each system, and whether the lapse count is not zero. -/
def iterReturn (e : SEnv) (t : IterSt) (s : List (List FVal)) (lapse : Bool) : SM IterSt := do
  let at' := fun q k => fAt (s.getD q []) k
  match t.ph with
  | 0 =>
    let bb := (List.range e.batch).map (fun q => at' q 0)
    let rr := (List.range e.batch).map (fun q => if live t q then at' q 1 else fAt t.rr q)
    let t := { t with bb := bb, rr := rr }
    let t := { t with conv := (List.range e.batch).map (fun q => bAt t.conv q || meets t (fAt rr q) (fAt bb q)) }
    iterNext e t (fun e t => if t.gm then (if t.restart = 0 then return { t with fin := some true } else gmStart e t) else cgStart e t)
  | 1 =>
    let bad := fun q => live t q && !isNan (at' q 0) && !fltV (.fin false 0 0) (at' q 0)
    let t ← (List.range e.batch).foldlM (fun (t : IterSt) q => do
      if bad q then
        atSys q
        raiseEl 1 t.iters flInv
        return { t with brk := true, stop := t.stop.set q true }
      else return t) t
    let al ← (List.range e.batch).foldlM (fun (l : List Sv) q => do
      if live t q then
        atSys q
        let a ← scalar e t.iters (.quo (fAt t.rr q) (at' q 0))
        return l ++ [a]
      else return l ++ [sv0]) []
    let t ← forRows e (live t) t (fun t q i => do
      let k := q * e.n + i
      let a := al.getD q sv0
      let xv ← sumProd e i (some (vget t.x k)) false [(a, vget t.p k)]
      let x ← putOut e cSV i (.val xv)
      let rv ← sumProd e i (some (vget t.r k)) true [(a, vget t.w k)]
      let r ← put e cSV i (.val rv) false
      return { setX t k x with r := vset t.r k r.1 })
    sampleLapse e { t with ph := 2, out := (dots e t.r t.r).map (fun d => [d]) }
  | 2 =>
    let old := t.rr
    let rr := (List.range e.batch).map (fun q => if live t q then at' q 0 else fAt old q)
    let was := live t
    let t := { t with rr := rr, iters := t.iters + 1, late := lapse }
    let t := { t with conv := (List.range e.batch).map (fun q => bAt t.conv q || (was q && meets t (fAt rr q) (fAt t.bb q))) }
    iterNext e t (fun e t => do
      let be ← (List.range e.batch).foldlM (fun (l : List Sv) q => do
        if live t q then
          atSys q
          let a ← scalar e t.iters (.quo (fAt rr q) (fAt old q))
          return l ++ [a]
        else return l ++ [sv0]) []
      let p ← forRows e (live t) t.p (fun p q i => do
        let k := q * e.n + i
        let v ← sumProd e i (some (vget t.r k)) false [(be.getD q sv0, vget p k)]
        let y ← put e cSV i (.val v) false
        return vset p k y.1)
      cgStart e { t with p := p })
  | _ =>
    let j := t.inner
    let on := fun q => live t q && !bAt t.idle q
    let cols ← (List.range e.batch).foldlM (fun (l : List (List Sv)) q => do
      if on q then
        atSys q
        let hs ← (List.range (j + 1)).mapM (fun i => scalar e t.iters (.val (at' q i)))
        let n2 := if e.fx then
            sumVal (exactSum .rne (.val (at' q (j + 1)) :: (List.range (j + 1)).map (fun i => .prod (fnegV (at' q i)) (at' q i))))
          else ((List.range (j + 1)).foldlM (fun a i => do gAdd e.flush a (fnegV (← gMul e.flush (at' q i) (at' q i)))) (at' q (j + 1))
            |>.run noFlags).1
        let h ← if isNan n2 || fltV (.fin false 0 0) n2 then scalar e t.iters (.root n2) else pure sv0
        return l ++ [hs ++ [h]]
      else return l ++ [[]]) []
    let idle := (List.range e.batch).map (fun q => bAt t.idle q || (on q && isZero ((cols.getD q []).getD (j + 1) sv0).v))
    let v ← forRows e (fun q => live t q && !bAt idle q) [] (fun w q i => do
      let k := q * e.n + i
      let c := cols.getD q []
      let n ← sumProd e i (some (vget t.w k)) true ((c.zip t.basis).map (fun p => (p.1, vget p.2 k)))
      let y ← put e cSV i (.quo n (c.getD (j + 1) sv0).v) false
      return vset w k y.1)
    let t := { t with cols := t.cols ++ [cols], basis := t.basis ++ [v], idle := idle, inner := j + 1, iters := t.iters + 1, late := lapse }
    if lapse || t.restart ≤ t.inner || t.maxit ≤ t.iters || (List.range e.batch).all (fun q => !live t q || bAt idle q) then gmEnd e t
    else gmStep e t

/-- Global sums of a reduction: the contributions of every member, range-checked in fixed point and rounded in the rehearsal, where a
local solve rounds under RNE and a joint one as harebell's root does (R66, R251, R252, R260, R387). DEDUCED (log entry 43). -/
def combine (e : SEnv) (rm : Rm) (it : Nat) (parts : List (List (List FVal))) : SM (List (List FVal)) := do
  let m := (parts.head?.getD []).length
  (List.range m).mapM (fun q => do
    atSys q
    let w := ((parts.head?.getD []).getD q []).length
    (List.range w).mapM (fun k => do
      let sum := exactSum rm (parts.map (fun p => .val (fAt (p.getD q []) k)))
      if e.fx then
        let t := (List.range (nBlocks e)).foldl (fun a j => min a (2 * scaleOf e q (32 * j) cSV)) 4096
        fx192 1 it t (match sumVal sum with | .fin _ 0 _ => .fin false 0 0 | v => v)
      else return fread e.flush .fp64 (roundSum .fp64 rm e.flush .ieee sum).1))

/-- A local solve: every reduction returns the member's own sums (structural in `fuel`, the reductions MAXIT allows). -/
def iterGo : Nat → SEnv → IterSt → SM IterSt
  | 0, _, t => pure t
  | f + 1, e, t => do
    if t.fin.isSome then return t
    else
      let s ← combine e .rne t.iters [t.out]
      let t' ← iterReturn e t s t.lapse
      iterGo f e t'

/-! ### Fields, sizes and checks (R162, R163, R240–R244) -/

/-- Fields of an SQ command and of its solve descriptor; `sop` is the opcode solved for. -/
structure SeF where
  op : Nat
  sop : Nat
  shift : Nat
  tau : Nat
  tol : Nat
  maxit : Nat
  dl : Nat
  aA : Nat
  bA : Nat
  xA : Nat
  n : Nat
  batch : Nat
  kl : Nat
  ku : Nat
  restart : Nat
  mat : Nat
  scale : Nat
  fact : Nat
  facten : Bool
  fkind : Nat
  jid : Nat
  horizon : Nat
  dw : List Nat
  deriving DecidableEq, Repr

/-- Read the fields: the descriptor's words `dw`, empty before it is read. -/
def seFields (x : Cmd) (dw : List Nat) : SeF :=
  let d := fun i => dw.getD i 0
  let op := w0Op x.w0
  let rg := op = 1
  let cmd := fun (c dv : Nat) => if rg then dv else c
  { op := op, sop := if rg then bitsOf (d 1) 63 57 else op, shift := fld x.w0 27 26, tau := fld x.w0 25 20,
    tol := cmd (fld x.w0 19 14) (bitsOf (d 1) 23 18), maxit := cmd (fld x.w0 13 0) (bitsOf (d 1) 17 4), dl := x.w1.toNat,
    aA := fld x.w2 63 45, bA := fld x.w2 44 26, xA := fld x.w2 25 7, n := fld x.w3 63 48, batch := fld x.w3 47 32,
    kl := cmd (fld x.w3 31 24) (bitsOf (d 1) 47 40), ku := cmd (fld x.w3 23 16) (bitsOf (d 1) 39 32),
    restart := cmd (fld x.w3 15 8) (bitsOf (d 1) 31 24), mat := bitsOf (d 0) 63 45, scale := bitsOf (d 0) 44 26,
    fact := bitsOf (d 0) 25 7, facten := bitOf (d 0) 0, fkind := bitsOf (d 1) 56 55, jid := bitsOf (d 2) 63 48,
    horizon := bitsOf (d 2) 31 16, dw := dw }

/-- CG or GMRES. -/
def seIter (op : Nat) : Bool := op == 8 || op == 9
/-- An opcode with bandwidths. -/
def seBand (op : Nat) : Bool := op == 6 || seIter op
/-- LU, CHOL or LDLT. -/
def seDense (op : Nat) : Bool := 2 ≤ op && op ≤ 4

/-- The command word alone is illegal (R153, R163, R166). -/
def seIllegal (x : Cmd) : Bool :=
  let op := w0Op x.w0
  let tol := fld x.w0 19 14
  let maxit := fld x.w0 13 0
  9 < op || fld x.w2 6 0 != 0 || fld x.w3 7 0 != 0 || fld x.w2 63 45 % 64 != 0 || fld x.w2 44 26 % 64 != 0 ||
  fld x.w2 25 7 % 64 != 0 || 60 < fld x.w0 25 20 || fld x.w0 27 26 == 3 || (fld x.w0 27 26 != 0 && x.w1 == 0) ||
  (!seIter op && (tol != 0 || maxit != 0)) || (seIter op && maxit == 0) || ((op == 9) == (fld x.w3 15 8 == 0)) ||
  (!seBand op && (fld x.w3 31 24 != 0 || fld x.w3 23 16 != 0))

/-- Working elements W (R240). -/
def seWork (f : SeF) : Nat :=
  match f.sop with
  | 5 => min f.batch 32 * (5 * f.n)
  | 6 => min f.batch 32 * f.n * (f.kl + f.ku + 3)
  | 8 => f.n * f.batch * (f.kl + f.ku + 6)
  | 9 => f.n * f.batch * (f.kl + f.ku + f.restart + 5)
  | _ => f.n * f.n + 2 * f.n

/-- Bytes of one system's factors (R243). -/
def factStride (n : Nat) : Nat := 8 * n * n + 64 * cdiv (2 * n) 64

/-- Bytes of the matrix. -/
def matSize (f : SeF) : Nat :=
  if f.sop = 5 then 24 * f.n * f.batch
  else if seBand f.sop then 8 * f.n * f.batch * (f.kl + f.ku + 1)
  else if seDense f.sop then 8 * f.n * f.n * f.batch
  else 0

/-- Regions of a command (R243, R244): scale table, matrix, factors, B, X. -/
def seDesc (f : SeF) : Nat × Nat := (f.aA, 128)
/-- The scale table. -/
def seScale (f : SeF) : Nat × Nat := (f.scale, 8 * f.batch * cdiv f.n 32)
/-- The matrix. -/
def seMat (f : SeF) : Nat × Nat := (f.mat, matSize f)
/-- The factors. DEDUCED (log entry 45). -/
def seFact (f : SeF) : Nat × Nat := (f.fact, if f.facten then factStride f.n * f.batch else 0)
/-- The right-hand sides. -/
def seB (f : SeF) : Nat × Nat := (f.bA, 8 * f.n * f.batch)
/-- The solution, or the initial guess of a RANGE. -/
def seX (f : SeF) : Nat × Nat := (f.xA, if f.op != 1 || seIter f.sop then 8 * f.n * f.batch else 0)

/-- Some two regions of a list share a byte. -/
def anyOvl : List (Nat × Nat) → Bool
  | [] => false
  | r :: t => t.any (ovl r) || anyOvl t

/-- JOIN_ID names a group this core may not use (R379). -/
def badGroup (s : State) (n jid : Nat) : Bool :=
  let g := collGroup s (jid / 256)
  !(g.valid && bitOf g.members n)

/-- The descriptor makes the command inconsistent (R241, R244, R251, R379). DEDUCED (log entry 45, 46). -/
def seDescBad (s : State) (n : Nat) (x : Cmd) (f : SeF) : Bool :=
  let d := fun i => f.dw.getD i 0
  bitsOf (d 0) 6 1 != 0 || bitsOf (d 1) 54 48 != 0 || bitsOf (d 1) 3 0 != 0 || bitsOf (d 2) 47 32 != 0 ||
  bitsOf (d 2) 15 0 != 0 || bitsOf (d 3) 62 48 != 0 || bitsOf (d 3) 15 0 != 0 ||
  [4, 5, 6, 7, 13, 14, 15].any (fun i => d i != 0) || bitsOf (d 8) 55 48 != 0 || bitsOf (d 8) 27 0 != 0 || f.fkind == 3 ||
  (if f.op = 1 then f.sop < 2 || 9 < f.sop || f.dl != 0 || (f.xA != 0 && !seIter f.sop)
   else bitsOf (d 1) 63 57 != f.op || !bitOf (d 3) 63 || bitsOf (d 3) 47 32 != f.n || bitsOf (d 3) 31 16 != f.batch ||
     bitsOf (d 1) 47 40 != fld x.w3 31 24 || bitsOf (d 1) 39 32 != fld x.w3 23 16 || bitsOf (d 1) 31 24 != fld x.w3 15 8) ||
  f.mat % 64 != 0 || f.scale % 64 != 0 || f.fact % 64 != 0 ||
  (if f.sop = 7 then !f.facten || f.mat != 0 else !seDense f.sop && f.facten) || (f.sop != 7 && f.fkind != 0) ||
  (f.jid != 0 && (!seIter f.sop || badGroup s n f.jid)) ||
  (f.shift != 0 && f.horizon != 0 && f.n % f.horizon != 0) || 98304 < seWork f || ((seDense f.sop || f.sop == 7) && 256 < f.n) ||
  128 < f.kl + f.ku + 1 || 64 < f.restart ||
  (let rest := [seDesc f, seScale f, seMat f, seFact f]
   anyOvl (rest ++ [seB f]) || rest.any (ovl (seX f)) || (ovl (seB f) (seX f) && f.bA != f.xA))

/-! ### Reading operands -/

/-- FP64 bits at element `i` of a region. -/
def w64 (bs : List Byte) (i : Nat) : Nat := leNat ((bs.drop (8 * i)).take 8)

/-- A region of the core store as words, each read once. -/
def words64 (c : Core) (r : Nat × Nat) : Tbl Nat :=
  let bs := storeRead c r.1 r.2
  ((chunks 8 bs).zip (List.range (r.2 / 8))).foldl (fun t p => tblSet (fun _ => 0) t p.2 (leNat p.1)) []

/-- A word read. -/
def wAt (t : Tbl Nat) (i : Nat) : Nat := tblGet (fun _ => 0) t i

/-- What a command reads. -/
structure SeIn where
  mat : Tbl Nat
  b : Tbl Nat
  x : Tbl Nat
  fact : Tbl Nat
  deriving DecidableEq, Repr

/-- The entries as read of row `i` of system `q` (R243, R251): of a dense matrix every one, of which CHOL and LDLT use the
lower triangle. DEDUCED (log entry 48). -/
def rowEntries (f : SeF) (q i : Nat) : List Nat :=
  let nb := f.n * f.batch
  match f.sop with
  | 5 => (if i = 0 then [] else [q * f.n + i]) ++ [nb + q * f.n + i] ++ (if i + 1 = f.n then [] else [2 * nb + q * f.n + i])
  | 2 | 3 | 4 => (List.range f.n).map (fun j => q * f.n * f.n + i * f.n + j)
  | 7 =>
    let base := q * (factStride f.n / 8)
    (List.range (if f.fkind = 0 then f.n else i + 1)).map (fun j => base + i * f.n + j)
  | _ =>
    let w := f.kl + f.ku + 1
    ((List.range w).filter (fun j => f.kl ≤ i + j && i + j < f.n + f.kl)).map (fun j => (q * f.n + i) * w + j)

/-- SI of each block of a system (R251, R252). DEDUCED (log entry 48). -/
def siOf (fl : Bool) (f : SeF) (inp : SeIn) (q : Nat) : List Int :=
  let src := if f.sop = 7 then inp.fact else inp.mat
  let blocks := (List.range (cdiv f.n 32)).map (fun j =>
    eOf (maxMag (((List.range f.n).filter (fun i => i / 32 == j)).flatMap (fun i => (rowEntries f q i).map (fun k => fread fl .fp64 (wAt src k))))) + 2)
  let blocks := blocks.map clampScale
  if seIter f.sop then
    let m := blocks.foldl max (-1024)
    blocks.map (fun _ => m)
  else blocks

/-- Convert the matrix of a dense or banded system into entries by i·n + j. DEDUCED (log entry 48). -/
def denseIn (e : SEnv) (f : SeF) (inp : SeIn) (q : Nat) : SM Vec :=
  (rowsUp e.n).foldlM (fun (a : Vec) i =>
    (rowEntries f q i).foldlM (fun (a : Vec) k => do
      let v ← input e cSI cSW i (wAt inp.mat k)
      let j := if seBand f.sop then i + (k - (q * f.n + i) * (f.kl + f.ku + 1)) - f.kl else k - q * f.n * f.n - i * f.n
      return vset a (i * e.n + j) v) a) []

/-- Convert right-hand sides of a system. -/
def rhsIn (e : SEnv) (inp : SeIn) (q : Nat) : SM Vec :=
  (rowsUp e.n).foldlM (fun (b : Vec) i => do
    let v ← input e cSV cSV i (wAt inp.b (q * e.n + i))
    return vset b i v) []

/-- Factors as FP64 words of one system: row-major, then four pivot rows a word (R243). -/
def factOut (e : SEnv) (f : SeF) (x : Facts) : SM (List Nat) := do
  let ent ← (rowsUp e.n).foldlM (fun (l : List Nat) i => do
    let r ← (List.range e.n).mapM (fun j => do
      let v : Option Sv :=
        if f.sop = 2 then some (if j < i then vget x.l (i * e.n + j) else vget x.u (i * e.n + j))
        else if j < i then some (vget x.l (i * e.n + j)) else if j = i then some (vget x.d i) else none
      match v with
      | none => return 0
      | some v =>
        let o := outOf e.flush (.val v.v)
        raiseAt i o.2
        return o.1)
    return l ++ r) []
  let piv := (List.range (8 * cdiv (2 * e.n) 64)).map (fun w =>
    (List.range 4).foldl (fun a j => a + x.piv.getD (4 * w + j) 0 * 2 ^ (16 * j)) 0)
  return ent ++ piv

/-- TRSV of one system: factors as read, with their pivots regularised (R243, R247, R254, R255). A pivot row outside the
system exchanges with a value that the spec does not state. -/
def trsvSys (e : SEnv) (f : SeF) (inp : SeIn) (q : Nat) : SM Outs := do
  let base := q * (factStride f.n / 8)
  let bits := fun i j => wAt inp.fact (base + i * e.n + j)
  let lu ← (rowsUp e.n).foldlM (fun (s : Vec × Vec × Vec) i =>
    (List.range (if f.fkind = 0 then e.n else i + 1)).foldlM (fun (s : Vec × Vec × Vec) j => do
      let low := j < i || (f.fkind == 1)
      let v ← if low then input e cSL cSL i (bits i j) else input e cSW cSW i (bits i j)
      if j = i then
        let p ← pivot e i false v v.v
        return (s.1, vset s.2.1 (i * e.n + j) p.1, vset s.2.2 i p.1)
      else if j < i then return (vset s.1 (i * e.n + j) v, s.2)
      else return (s.1, vset s.2.1 (i * e.n + j) v, s.2.2)) s) (([] : Vec), ([] : Vec), ([] : Vec))
  let piv := if f.fkind = 0 then (List.range e.n).map (fun k => bitsOf (wAt inp.fact (base + e.n * e.n + k / 4)) (16 * (k % 4) + 15) (16 * (k % 4))) else []
  let b ← rhsIn e inp q
  let b ← (piv.zip (List.range piv.length)).foldlM (fun (b : Vec) p => do
    if p.1 < e.n then return b
    else
      let v ← input e cSV cSV p.2 (leNat ((List.range 8).map (fun i => freeByte 7 ((q * e.n + p.2) * 8 + i))))
      return vset b p.2 v) b
  let piv := (piv.zip (List.range piv.length)).map (fun p => if p.1 < e.n then p.1 else p.2)
  substitute e (if f.fkind = 0 then 0 else if f.fkind = 1 then 1 else 2) ⟨lu.1, lu.2.1, lu.2.2, piv⟩ b (fun _ _ => true)

/-- Within the band of BANDED. -/
def inBand (f : SeF) (i j : Nat) : Bool := j ≤ i + f.ku && i ≤ j + f.kl

/-- A direct solve of system `q`: solution by row and factor words. -/
def directSys (e : SEnv) (f : SeF) (inp : SeIn) (q : Nat) : SM (Outs × List Nat) := do
  atSys q
  let nb := f.n * f.batch
  match f.sop with
  | 5 =>
    let m := fun k i => wAt inp.mat (k * nb + q * f.n + i)
    let x ← tridiagSys e (m 0) (m 1) (m 2) (fun i => wAt inp.b (q * f.n + i))
    return (x, [])
  | 6 =>
    let a ← denseIn e f inp q
    let fs ← luFactor e false false a (inBand f)
    let b ← rhsIn e inp q
    let x ← substitute e 0 fs b (inBand f)
    return (x, [])
  | 7 =>
    let x ← trsvSys e f inp q
    return (x, [])
  | 2 =>
    let a ← denseIn e f inp q
    let fs ← luFactor e true true a (fun _ _ => true)
    checkpoint e
    unlessLapsed ([], []) do
      let b ← rhsIn e inp q
      let x ← substitute e 0 fs b (fun _ _ => true)
      let w ← if f.facten && e.fx then factOut e f fs else pure []
      return (x, w)
  | _ =>
    let a ← denseIn e f inp q
    let fs ← cholFactor e (f.sop = 4) a
    checkpoint e
    unlessLapsed ([], []) do
      let b ← rhsIn e inp q
      let x ← substitute e (if f.sop = 3 then 1 else 2) fs b (fun _ _ => true)
      let w ← if f.facten && e.fx then factOut e f fs else pure []
      return (x, w)

/-- All systems of a direct solve with their checkpoints (R263): output words of X and of the factors. -/
def directAll (e : SEnv) (f : SeF) (inp : SeIn) : SM (Tbl Nat × List Nat) :=
  (List.range e.batch).foldlM (fun (o : Tbl Nat × List Nat) q => do
    if f.sop = 7 || ((f.sop = 5 || f.sop = 6) && q % 32 = 0) then checkpoint e
    unlessLapsed o do
      let r ← directSys e f inp q
      return (r.1.foldl (fun t p => tblSet (fun _ => 0) t (q * e.n + p.1) p.2) o.1, o.2 ++ r.2)) ([], [])

/-- The operands of an iterative solve (R247, R257). -/
def iterIn (e : SEnv) (f : SeF) (inp : SeIn) : SM IterSt := do
  let w := f.kl + f.ku + 1
  let t : IterSt := { gm := f.sop == 9, maxit := f.maxit, restart := f.restart, tol := f.tol }
  let t ← forRows e (fun _ => true) t (fun t q i => do
    let a ← (rowEntries f q i).foldlM (fun (a : Vec) k => do
      let v ← input e cSI cSW i (wAt inp.mat k)
      return vset a ((q * e.n + i) * w + (k - (q * f.n + i) * w)) v) t.a
    let k := q * e.n + i
    let b ← input e cSV cSV i (wAt inp.b k)
    let x ← input e cSV cSV i (wAt inp.x k)
    let xb := fread e.flush .fp64 (wAt inp.x k)
    let o := if e.fx && !isNan xb && !isInf xb && !fltV x.v xb && !fltV xb x.v then outOf e.flush (.val xb) else outOf e.flush (.val x.v)
    return { setX t k (x, o) with a := a, b := vset t.b k b })
  iterStart e t

/-! ### Ends: outputs, report, reuse (R241, R245, R246, R262, R264, R266) -/

/-- FP64 of the largest relative residual √(rr/bb), rounded once under RNE; 0 over 0 is 0, and the spec states no value
for a non-zero residual of a zero right-hand side. -/
def relResidual (t : IterSt) : Nat :=
  let ps := (t.rr.zip t.bb)
  if ps.any (fun p => isNan p.1 || isNan p.2 || isInf p.1 || isInf p.2) then fqnan .fp64
  else if ps.any (fun p => isZero p.2 && !isZero p.1) then leNat ((List.range 8).map (freeByte 8))
  else
    let qs := (ps.filter (fun p => !isZero p.1)).map (fun p =>
      match p.1, p.2 with
      | .fin _ a x, .fin _ b y =>
        let sh := 300 + flog2 b
        let z := x - y - sh
        let adj := if z % 2 = 0 then 0 else 1
        let v := a * 2 ^ (sh + adj)
        let r := isqrt (v / b)
        (roundFin .fp64 .rne false .ieee false r ((z - adj) / 2) (decide (r * r * b ≠ v))).1
      | _, _ => 0)
    qs.foldl max 0

/-- Systems that CG stopped (R258). -/
def stopsOf (it : Option IterSt) : Nat := match it with | some i => (i.stop.filter id).length | none => 0

/-- The report, words 8–15 of the descriptor (R241). -/
def seReport (s : State) (st : Nat) (t : Tr) (it : Option IterSt) (reused : Bool) : List Byte :=
  let w8 := st * 2 ^ 56 + (match it with
      | some i => min i.iters 65535 * 2 ^ 32 + b2n (allConv i && !i.conv.isEmpty) * 2 ^ 31 +
          b2n (i.fin == some true && !allConv i && i.maxit ≤ i.iters) * 2 ^ 30 + b2n i.brk * 2 ^ 28
      | none => 0) + b2n reused * 2 ^ 29
  let cnt := fun (n : Nat) (p : Option (Nat × Nat)) =>
    min n max32 * 2 ^ 32 + (match p with | some x => x.1 * 2 ^ 16 + x.2 | none => 0)
  [w8, cnt t.reg t.regAt, cnt t.sat t.satAt, (match it with | some i => relResidual i | none => 0), timeNs s, 0, 0, 0].flatMap (leBytes 8)

/-- Engine `e` at reset. -/
def engineDflt : Nat → Engine := fun _ => {}
/-- Solver engine `e`. -/
def engineAt (s : State) (e : Nat) : Engine := tblGet engineDflt s.engines e
/-- Change a solver engine. -/
def modEngine (s : State) (e : Nat) (f : Engine → Engine) : State := { s with engines := tblMod engineDflt s.engines e f }

/-- One event for each row or dot product of a sorted list: every flag that it raised in the command, invalid alone where it is one
(R89, R95, R267). DEDUCED (log entry 122). -/
def mergeEvs : List FlagEv → List FlagEv
  | [] => []
  | e :: t =>
    match mergeEvs t with
    | [] => [e]
    | h :: r => if e.tile == h.tile && e.kblk == h.kblk && e.elem == h.elem then { e with fl := orFlags e.fl h.fl } :: r else e :: h :: r
/-- The events of a command as the capture sees them. DEDUCED (log entry 122). -/
def rowEvs (es : List FlagEv) : List FlagEv := (mergeEvs (sortEvs es)).map (fun e => { e with elem := 0, fl := elemFlags e.fl })

/-- What every end of a command has in common: TIME, flags and capture, counters (R267–R270). DEDUCED (log entry 49). -/
def seCommon (e n k : Nat) (x : Cmd) (t : Tr) (s0 : State) : State :=
  let s := { s0 with timeFx := if timeNs s0 < t.now then t.now * 2 ^ 32 else s0.timeFx }
  let c := coreAt s k
  let evs := rowEvs t.evs
  let s := modEngine s e (fun g => { g with f := raiseAll g.f (slotOf c) x.iter x.off n evs })
  let s := tallyFlags s k 3 (evFlags evs)
  dcount s kSeSaturations t.sat

/-- Write the report, log and post; after a CORE_INTERNAL error the command ends POISON (R241, R268, R270, R468). The fields of an iteration are those of CG and GMRES: a RANGE
reports none of its rehearsal. DEDUCED (log entry 47). -/
def seEnd (k : Nat) (x : Cmd) (f : SeF) (st : Nat) (t : Tr) (it0 : Option IterSt) (reused : Bool) (s : State) : State :=
  let it := if seIter f.op then it0 else none
  let st := internalCond s k st
  let s := dcount s kSeBreakdowns (stopsOf it)
  let s := cmdWrite s k 5 (f.aA + 64) (seReport s st t it reused)
  retire (modCore s k (fun c => { c with seBusy := false })) k 5 x st

/-- Poison the tiles of X, and of the factors where they are written. -/
def sePoison (k : Nat) (f : SeF) (s : State) : State :=
  poisonTiles s k 5 (tilesOfRanges ([seX f] ++ (if seDense f.sop && f.op != 1 then [seFact f] else [])))

/-- Bytes of FP64 words of a table. -/
def outBytes (n : Nat) (t : Tbl Nat) : List Byte := (List.range n).flatMap (fun i => leBytes 8 (wAt t i))

/-- Deliver a result (R245, R246, R253, R255, R269). -/
def seDeliver (e n k : Nat) (x : Cmd) (f : SeF) (cond : Nat) (xo : Tbl Nat) (fo : List Nat) (it : Option IterSt) (t : Tr) (s : State) : State :=
  let s := seCommon e n k x t s
  let s := cmdWrite s k 5 f.xA (outBytes (f.n * f.batch) xo)
  let s := if seDense f.sop && f.facten then cmdWrite s k 5 f.fact (fo.flatMap (leBytes 8)) else s
  let s := if cond = stOk then s else sePoison k f s
  let s := dcount s kSePivotsRegularised t.reg
  let s := contribute s (bindOf (coreAt s k)) (fun c => { c with pivot := satAdd max32 c.pivot t.reg })
  let s := match it with
    | some i => dcount s kSeIterLimits (b2n (!allConv i && i.maxit ≤ i.iters))
    | none => s
  let st := worse cond (worse (if t.sat = 0 then stOk else stRangeSat) (if t.reg = 0 then stOk else stPivot))
  seEnd k x f st t it false s

/-- Shift rule of a reuse over one system's words (R266): new words and flags by row. -/
def shiftRule (fl : Bool) (f : SeF) (ws : List Nat) : List (Nat × Flags) :=
  let hz := if f.horizon = 0 then f.n else f.horizon
  let h := f.n / hz
  let w := fun i => ws.getD i 0
  (List.range f.n).map (fun i =>
    if f.shift = 0 then (w i, noFlags)
    else if i + hz < f.n then (w (i + hz), noFlags)
    else if f.shift = 2 && 2 ≤ h then
      let a := fread fl .fp64 (w i)
      sumRound .fp64 .rne fl .ieee [.val a, .val a, .val (fnegV (fread fl .fp64 (w (i - hz))))]
    else (w i, noFlags))

/-- Abandon the command and deliver the reuse (R264, R266). DEDUCED (log entry 47). -/
def seReuse (e n k : Nat) (x : Cmd) (f : SeF) (seen : List Nat) (cond : Nat) (it : Option IterSt) (t : Tr) (s : State) : State :=
  let r := verifyNew s k seen [seX f]
  let cond := worse cond r.2
  let ws := words64 (coreAt s k) (seX f)
  let fl := flushOn s
  let outs := (List.range f.batch).map (fun q => shiftRule fl f ((List.range f.n).map (fun i => wAt ws (q * f.n + i))))
  let evs := (List.range f.batch).flatMap (fun q =>
    ((outs.getD q []).zip (List.range f.n)).filterMap (fun p => if p.1.2 = noFlags then none else some (⟨q, p.2, 0, p.1.2⟩ : FlagEv)))
  let s := seCommon e n k x { t with evs := t.evs ++ evs } r.1
  let s := cmdWrite s k 5 f.xA (outs.flatMap (fun o => o.flatMap (fun p => leBytes 8 p.1)))
  let s := if cond = stOk then s else poisonTiles s k 5 (tilesOfRanges [seX f])
  let s := dcount s kSeDeadlineReuses 1
  let s := contribute s (bindOf (coreAt s k)) (fun c => { c with reuse := satAdd max32 c.reuse 1 })
  let st := worse (worse cond stReuse) (worse (if t.sat = 0 then stOk else stRangeSat) (if t.reg = 0 then stOk else stPivot))
  seEnd k x f st t it true s

/-- The scale table words of a RANGE (R242, R251, R252). -/
def scaleWords (e : SEnv) (f : SeF) (si : List (List Int)) (t : Tr) : List (List (List Int)) :=
  (List.range e.batch).map (fun q =>
    let blk := (List.range (nBlocks e)).map (fun j =>
      let m := fun cls => clampScale (eOf (tblGet (fun _ => .fin false 0 0) t.maxes (4 * (q * nBlocks e + j) + cls)) + 2)
      [(si.getD q []).getD j 2, m cSW, m cSL, m cSV])
    if seIter f.sop then
      let mx := (List.range 4).map (fun c => blk.foldl (fun a b => max a (b.getD c (-1024))) (-1024))
      blk.map (fun _ => mx)
    else blk)

/-- Write the scale table, word 3 and the report of a RANGE; where a read of it failed, the tiles of X are poisoned (R245, R251). DEDUCED (log entry 42, 151). -/
def rangeEnd (e n k : Nat) (x : Cmd) (f : SeF) (cond : Nat) (ws : List (List (List Int))) (t : Tr) (it : Option IterSt) (s : State) : State :=
  let evs := (t.evs.filter (fun v => v.fl.inv)).map (fun v => { v with fl := flInv })
  let s := seCommon e n k x { t with evs := evs, sat := 0 } s
  let entry := fun (b : List Int) => (List.range 4).foldl (fun a c => a + ofSigned 16 (b.getD c 0) * 2 ^ (16 * c)) 0
  let s := cmdWrite s k 5 f.scale (ws.flatMap (fun q => q.flatMap (fun b => leBytes 8 (entry b))))
  let s := cmdWrite s k 5 (f.aA + 24) (leBytes 8 (2 ^ 63 + f.n * 2 ^ 32 + f.batch * 2 ^ 16))
  let s := if cond = stOk then s else sePoison k f s
  seEnd k x f cond { t with sat := 0, satAt := none } it false s

/-- The engine's array fails with no spare row left; the report tells the iterations taken (R241, R470). -/
def seFail (e n k : Nat) (x : Cmd) (f : SeF) (t : Tr) (it : Option IterSt) (s : State) : State :=
  let s := modEngine s e (fun g => { g with failed := true, job := none })
  let s := calEvent s 0x0C (unitCoord s (e / 8) (0x600 + e % 8)) e
  let s := sePoison k f (seCommon e n k x t s)
  seEnd k x f stPoison t it false s

/-- A step of an engine meets what its array has failed with: the proof pass, and whether no spare row is left (R467, R470). -/
def seArray (e : Nat) (s : State) : State × Bool :=
  let p := arrayPass s (tblGet (fun _ => 0) s.seFault e) 9 (unitCoord s (e / 8) (0x600 + e % 8)) (spareSe e) 1
  if p.2 = 3 then (p.1, true) else ({ p.1 with seFault := tblSet (fun _ => 0) p.1.seFault e 0 }, false)

/-! ### Joint solves (R260–R262, R381) -/

/-- Reductions that member `n` has taken in group `g`. -/
def seTakenOf (s : State) (n g : Nat) : Nat := tblGet (fun _ => 0) s.seTaken (256 * n + g)

/-- Operator of a joint solve's reduction: the maximum of a RANGE's exponents, the exact FP64 sum of its rehearsal, or FX192 (R252, R260). -/
def seRop (j : SolveJob) : Nat := if j.it.ph = 4 then 2 else if j.env.fx then 6 else 7

/-- The lapse count travels in this reduction: the one that closes a CG iteration or a GMRES inner step (R263, R265). -/
def seLapses (j : SolveJob) : Bool := j.env.fx && (j.it.ph == 2 || j.it.ph == 3)

/-- Values of a joint solve's reduction: those of its systems in order, then the lapse count. DEDUCED (log entry 142). -/
def seCount (j : SolveJob) : Nat := j.it.out.foldl (fun a q => a + q.length) (b2n (seLapses j))

/-- Values that one harebell operation of a reduction carries: two FX192 values, or up to eight words (R260, R386). DEDUCED (log entry 142). -/
def sePer (j : SolveJob) : Nat := if seRop j = 6 then 2 else 8

/-- The harebell operations of a joint solve's reduction, each an instance of its group (R260, R375). DEDUCED (log entry 142). -/
def seOps (j : SolveJob) : Nat := cdiv (seCount j) (sePer j)

/-- The instances of a joint solve's reduction. -/
def seInsts (j : SolveJob) : List Nat := (List.range (seOps j)).map (j.inst + ·)

/-- Abort of the joint solve an engine holds (R262, R410): nothing is delivered, X is poisoned, the report is written; a RANGE, which
delivers no X, poisons none. DEDUCED (log entry 154). -/
def seAbort (e st : Nat) (s : State) : State :=
  match (engineAt s e).job with
  | none => s
  | some j =>
    let f := seFields j.x j.dw
    let s := seCommon e j.n j.k j.x j.tr (modEngine s e (fun x => { x with job := none }))
    let s := dcount (if f.op = 1 then s else poisonTiles s j.k 5 (tilesOfRanges [seX f])) kCollAborts 1
    seEnd j.k j.x f (worse st j.cond) j.tr (some { j.it with fin := none }) false s

/-- Enter an abort record in the ABORT register; the first is kept (R407). -/
def holdRecord (now : Nat) (done : Bool) (r : AbortRec) (c : CollCtl) : CollCtl :=
  if c.abort.isSome then c else { c with abort := some r, abortDone := done, abortTime := now }

/-- The joint solve of an engine ends under an abort record, which its core's ABORT register holds (R262, R402). DEDUCED (log entry 78). -/
def seAbortBy (e st : Nat) (r : AbortRec) (s : State) : State :=
  match (engineAt s e).job with
  | none => s
  | some j => modCore (seAbort e st s) j.k (fun c =>
      { c with coll := { holdRecord (timeNs s) false r c.coll with lastSe := c.coll.lastSe ++ (seInsts j).map (fun i => (j.jid / 256, i)) } })

/-- A member enters a reduction: its harebell operations take the next instances of its group, and it ends at once if an abort
record is held for one of them (R260, R375, R381, R402). -/
def enterReduction (e : Nat) (j : SolveJob) (s : State) : State :=
  let g := j.jid / 256
  let i := seTakenOf s j.n g
  let m := seOps j
  let s := { s with seTaken := tblSet (fun _ => 0) s.seTaken (256 * j.n + g) (i + m) }
  let s := { s with collGroups := tblMod (fun _ => {}) s.collGroups g (fun x => { x with instSe := max x.instSe (i + m) }) }
  let s := modCore (modEngine (dcount s kHarebellOps m) e (fun x => { x with job := some { j with inst := i, since := timeNs s } })) j.k
    (fun c => { c with seBusy := true })
  match s.collAborts.find? (fun a => a.solver && a.g == g && i ≤ a.inst && a.inst < i + m) with
  | some a => seAbortBy e stCollAbort a.ar s
  | none => s

/-- A solve that has entered a reduction or ended: go on. -/
def seIterEnd (e : Nat) (j : SolveJob) (s : State) : State :=
  let f := seFields j.x j.dw
  match j.it.fin with
  | none => if j.jid = 0 then s else enterReduction e j s
  | some ok =>
    let s := modEngine s e (fun x => { x with job := none })
    if f.op = 1 then
      let ws := scaleWords j.env f (if j.si.isEmpty then [] else (chunks (nBlocks j.env) j.si)) j.tr
      if j.jid != 0 && j.it.ph != 4 then
        let out := ws.map (fun q => (q.headD []).map (fun v => (FVal.fin (v < 0) v.natAbs 0)))
        enterReduction e { j with it := { j.it with ph := 4, out := out } } s
      else rangeEnd e j.n j.k j.x f j.cond ws j.tr (some { j.it with fin := none }) s
    else if ok then seDeliver e j.n j.k j.x f j.cond j.it.xo [] (some j.it) ((raiseOuts j.env j.it).run j.tr).2 s
    else seReuse e j.n j.k j.x f j.seen j.cond (some j.it) j.tr s

/-- Members of a group in this package that hold the same reduction as `j`: engines and jobs. -/
def coMembers (s : State) (j : SolveJob) : List (Nat × SolveJob) :=
  (List.range 64).filterMap (fun e =>
    match (engineAt s e).job with
    | some x => if x.jid / 256 = j.jid / 256 && x.inst = j.inst && x.got.isNone then some (e, x) else none
    | none => none)

/-- A value that other packages bring, in units of 2^g, or as its special bits say (R387). DEDUCED (log entry 43). -/
def unitVal (g : Int) (v : RedSum) : FVal :=
  if bitOf v.sp 0 then .nan (bitOf v.sp 1)
  else if bitOf v.sp 2 && bitOf v.sp 3 then .nan true
  else if bitOf v.sp 2 || bitOf v.sp 3 then .inf (bitOf v.sp 3)
  else .fin (v.v < 0) v.v.natAbs g

/-- The exponent of the unit of a system's reductions: of FX192 at its scale, or of FP64 in a RANGE. DEDUCED (log entry 43). -/
def redUnit (e : SEnv) (q : Nat) : Int :=
  if e.fx then (List.range (nBlocks e)).foldl (fun a b => min a (2 * scaleOf e q (32 * b) cSV)) 4096 - 142 else -1074

/-- The reduction returns at one member whose array is good, with the sums of the members of other packages. DEDUCED (log entry 43). -/
def jointStep (parts : List (List (List FVal))) (sums : List RedSum) (lapse : Bool) (s : State) (m : Nat × SolveJob) : State :=
  let j := m.2
  let widths := j.it.out.map List.length
  let other : List (List FVal) := (List.range j.env.batch).map (fun q =>
    let off := (widths.take q).foldl (· + ·) 0
    let g := redUnit j.env q
    (List.range (widths.getD q 0)).map (fun i => unitVal (if j.it.ph = 4 then 0 else g) (sums.getD (off + i) {})))
  let tr := { j.tr with now := max j.tr.now (timeNs s), times := [] }
  if j.it.ph = 4 then
    let mx := fun q c => (parts ++ (if sums.isEmpty then [] else [other])).foldl (fun (a : Int) p =>
      match fAt (p.getD q []) c with | .fin n v _ => max a (smant n v) | _ => a) (-1024)
    let ws := (List.range j.env.batch).map (fun q => (List.range (nBlocks j.env)).map (fun _ => (List.range 4).map (fun c => clampScale (mx q c))))
    let f := seFields j.x j.dw
    rangeEnd m.1 j.n j.k j.x f j.cond ws tr (some { j.it with fin := none }) (modEngine s m.1 (fun x => { x with job := none }))
  else
    let r := (do
      let g ← combine { j.env with flush := flushOn s } (rmCode (dget s kDefaultRounding)) j.it.iters (parts ++ [other])
      iterReturn j.env j.it g lapse : SM IterSt).run tr
    seIterEnd m.1 { j with it := r.1, tr := r.2 } s

/-- Engine `e` starts no new step: the hold of the package, or of its own domain (R450, R451). -/
def seHeld (s : State) (e : Nat) : Bool := s.hold || (domAt s (336 + e)).held

/-- The reduction returns at one member: its next step meets what the array has failed with (R467). -/
def jointReturn (r : List (List (List FVal)) × List RedSum × Bool) (s : State) (m : Nat × SolveJob) : State :=
  let a := seArray m.1 s
  let j := m.2
  if a.2 then seFail m.1 j.n j.k j.x (seFields j.x j.dw) { j.tr with now := max j.tr.now (timeNs s), times := [] }
    (some { j.it with fin := none }) a.1
  else jointStep r.1 r.2.1 r.2.2 a.1 m

/-- The solver reduction that engine `e` waits for returns to every member of this package, once they have all entered it; a member
whose timeout has come does not take it (R400, R402), and under the thermal hold no engine takes its next step (R450). -/
def reductionReturn (e : Nat) (sums : List RedSum) (lapse : Nat) (s : State) : State :=
  match (engineAt s e).job with
  | none => s
  | some j =>
    let ms := coMembers s j
    if j.got.isSome || ms.length < (collGroup s (j.jid / 256)).localCount then s
    else
      let lp := lapse != 0 || ms.any (fun m => m.2.it.lapse)
      let r := (ms.map (fun m => m.2.it.out), sums, lp)
      (ms.filter (fun m => timeNs s < m.2.since + dget s kCollTimeoutDefault)).foldl (fun s m =>
        if seHeld s m.1 then modEngine s m.1 (fun x => { x with job := some { m.2 with got := some r } }) else jointReturn r s m) s

/-- A solve that waited out the hold takes its next step (R450, R451). -/
def seResume (s : State) (e : Nat) : State :=
  match (engineAt s e).job with
  | some j => match j.got with
    | some r => if seHeld s e then s else jointReturn r s (e, { j with got := none })
    | none => s
  | none => s

/-! ### The SQ rows (R236, R237, R244, R263) -/

/-- Run a command that passed its checks: `cond` is what its reads met so far, and `seen` the tiles they verified (R276). DEDUCED (log entry 151). -/
def seExec (e n k : Nat) (x : Cmd) (f : SeF) (seen : List Nat) (cond : Nat) (times : List Nat) (s : State) : State :=
  let t0 : Tr := { now := timeNs s, times := times }
  let env : SEnv := { fx := f.op != 1, n := f.n, batch := f.batch, kl := f.kl, ku := f.ku, tau := f.tau, scales := [], deadline := f.dl, flush := flushOn s }
  let t1 := ((checkpoint env).run t0).2
  let fin := fun (t : Tr) => { t with now := t.times.foldl max t.now, times := [] }
  if t1.lapsed then seReuse e n k x f seen cond none (fin t1) s
  else
    let c := coreAt s k
    let reads := (if f.sop = 7 then [seFact f] else [seMat f]) ++ [seB f] ++ (if seIter f.sop then [seX f] else [])
    let r := verifyNew s k seen reads
    let seen := unionNat (tilesOfRanges reads) seen
    let cond := worse cond r.2
    let s := r.1
    let p := seArray e s
    if p.2 then seFail e n k x f (fin t1) none p.1
    else
      let s := p.1
      let inp : SeIn := { mat := words64 c (seMat f), b := words64 c (seB f), x := words64 c (seX f), fact := if f.sop = 7 then words64 c (seFact f) else [] }
      let si := if f.op = 1 then (List.range f.batch).map (siOf env.flush f inp) else []
      let sc : Tbl Nat := if f.op = 1 then
          ((si.flatMap id).zip (List.range (f.batch * nBlocks env))).foldl (fun a p => tblSet (fun _ => 0) a p.2 (ofSigned 16 p.1)) []
        else words64 c (seScale f)
      let env := { env with scales := sc }
      if seIter f.sop then
        let r := (do
          let t ← iterIn env f inp
          if f.jid = 0 then iterGo (2 * f.maxit + 4) env t else return t : SM IterSt).run t1
        let tr := if f.jid = 0 then fin r.2 else { r.2 with times := [] }
        seIterEnd e ⟨n, k, x, f.dw, seen, env, tr, r.1, si.flatMap id, f.jid, 0, cond, timeNs s, none⟩ s
      else
        let r := (directAll env f inp).run t1
        if f.op = 1 then rangeEnd e n k x f cond (scaleWords env f si r.2) (fin r.2) none s
        else if r.2.lapsed then seReuse e n k x f seen cond none (fin r.2) s
        else seDeliver e n k x f cond r.1.1 r.1.2 none (fin r.2) s

/-- The scale table is read: a command other than RANGE names one in the core store. -/
def seReadsScale (f : SeF) : Bool := f.op != 1 && inStore f.scale (seScale f).2

/-- A scale outside −1,024 to 1,024 in the scale table read (R64, R245). DEDUCED (log entry 42). -/
def seScaleBad (s : State) (k : Nat) (f : SeF) : Bool :=
  seReadsScale f &&
  (List.range ((seScale f).2 / 8)).any (fun i => (List.range 4).any (fun c =>
    let v := toSigned 16 (wAt (words64 (coreAt s k) (seScale f)) i / 2 ^ (16 * c))
    v < -1024 || 1024 < v))

/-- The checks of R244 and the run: the descriptor is judged whole, its extents last, before any other access (R576); the scale table is
read after them. A command with N = 0 or BATCH = 0 counts in SE_COMMANDS. DEDUCED (log entry 42). DESIGN CHOICE (log entry 153). -/
def seRun (e n k : Nat) (x : Cmd) (times : List Nat) (s : State) : State :=
  let skip := fun (s : State) st => retire s k 5 x st
  if seIllegal x then skip s stIllegal
  else if s.grade = 3 || (engineAt s e).failed then skip s stFused
  else
    let f0 := seFields x []
    if f0.n = 0 || f0.batch = 0 then retire (dcount s kSeCommands 1) k 5 x stOk
    else if !inStore f0.aA 128 then skip s stBounds
    else
      let r := verifyTiles s k (tilesOfRanges [seDesc f0])
      let s := r.1
      let ws := words64 (coreAt s k) (seDesc f0)
      let f := seFields x ((List.range 16).map (wAt ws))
      if seDescBad s n x f then skip s stIllegal
      else if ([seScale f, seMat f, seFact f, seB f, seX f]).any (fun r => !inStore r.1 r.2) then skip s stBounds
      else
        let rs := if seReadsScale f then [seScale f] else []
        let r2 := verifyNew s k (tilesOfRanges [seDesc f0]) rs
        let s := r2.1
        if seScaleBad s k f then skip s stIllegal
        else seExec e n k x f (tilesOfRanges (seDesc f0 :: rs)) (worse r.2 r2.2) times (dcount s kSeCommands 1)

/-- The core whose command an engine takes next (R237): number and key. A void entry and a NOOP are heads like the others. -/
def sePick (s : State) (e : Nat) : Option (Nat × Nat) :=
  let ns := ((List.range 1280).map (fun l => 1280 * (e / 8) + l)).filterMap (fun n =>
    if engineOf s n = e then
      (match keyOf s n with
        | some k =>
          let c := coreAt s k
          match c.sq with
          | _ :: _ => if headReady c .sq then some (n, k) else none
          | [] => none
        | none => none)
    else none)
  match (engineAt s e).last with
  | none => ns.head?
  | some l => match ns.find? (fun p => l < p.1) with
    | some p => some p
    | none => ns.head?

/-- The V-step an engine takes with a command (R448). -/
def seVstep (s : State) (e : Nat) : Nat :=
  let ks := s.cores.filterMap (fun p => if p.2.run.isSome then some p.1 else none)
  let ks := ks.filter (fun k => engineOf s (logicalOf s k) = e)
  let v := match ks with
    | [] => 3
    | _ => ks.foldl (fun a k => max a (domAt s (clusterOf k)).vstep) 0
  if (domAt s (336 + e)).em then min v (domAt s (336 + e)).vstep else v

/-- An engine that can take a command: no solve in progress, its domain ON, no hold (R237, R263, R450). -/
def seFree (s : State) (e : Nat) : Bool :=
  (engineAt s e).job.isNone && ((domAt s (336 + e)).st == 2 || s.grade == 3) && !seHeld s e

/-- An engine takes a command of core `n`: it remembers the core (R237) and takes its V-step (R448). -/
def seTake (s : State) (e n : Nat) : State :=
  let t := modEngine s e (fun g => { g with last := some n, vstep := seVstep s e })
  modDom (setVstep t (336 + e) (seVstep s e)) (336 + e) (fun d => { d with idleFrom := timeNs s })

/-- A row of the solver engines: engine `e` takes the next command if it is one of `op` or has a reserved opcode. -/
def seRow (op e : Nat) (times : List Nat) (s : State) : State :=
  if !seFree s e then s
  else
    match sePick s e with
    | none => s
    | some (n, k) =>
      match (coreAt s k).sq with
      | [] => s
      | x :: _ =>
        if x.void || w0Op x.w0 = 0 || (w0Op x.w0 != op && w0Op x.w0 ≤ 9) then s
        else
          seRun e n k x times (seTake (putCore s k (takeHead (timeNs s) (coreAt s k) .sq)) e n)

/-- LU: factor with partial pivoting and solve (R254). -/
def execLu (e : Nat) (times : List Nat) (s : State) : Host.Outcome State Fault Refusal := whenUp s (seRow 2 e times s)
/-- CHOL: Cholesky factorisation and solve (R254, R255). -/
def execChol (e : Nat) (times : List Nat) (s : State) : Host.Outcome State Fault Refusal := whenUp s (seRow 3 e times s)
/-- LDLT: L D Lᵀ factorisation and solve (R254). -/
def execLdlt (e : Nat) (times : List Nat) (s : State) : Host.Outcome State Fault Refusal := whenUp s (seRow 4 e times s)
/-- TRIDIAG: the Thomas algorithm over a batch (R254). -/
def execTridiag (e : Nat) (times : List Nat) (s : State) : Host.Outcome State Fault Refusal := whenUp s (seRow 5 e times s)
/-- BANDED: factor and solve within the band (R254). -/
def execBanded (e : Nat) (times : List Nat) (s : State) : Host.Outcome State Fault Refusal := whenUp s (seRow 6 e times s)
/-- TRSV: substitution over stored factors (R243, R254). -/
def execTrsv (e : Nat) (times : List Nat) (s : State) : Host.Outcome State Fault Refusal := whenUp s (seRow 7 e times s)

end Sys2Proof.Machine
end

