-- ==== Sys2Proof/Machine/FabOps.lean ====
section
/-! DEFINITION. Flits, routes, credits, hot lines, the transport beyond the chassis and the issue of fabric requests
(R333–R345, R353, R354, R368, R371). -/
namespace Sys2Proof.Machine
open Sys2Proof Config

/-! ### Flits (R342, R343) -/

/-- VL. -/
def fVl (f : Flit) : Nat := fld f.w0 63 61
/-- KIND. -/
def fKind (f : Flit) : Nat := fld f.w0 60 56
/-- EPOCH. -/
def fEpoch (f : Flit) : Nat := fld f.w0 55 40
/-- DST. -/
def fDst (f : Flit) : Nat := fld f.w0 39 22
/-- SRC. -/
def fSrc (f : Flit) : Nat := fld f.w0 21 4
/-- POISON. -/
def fPoison (f : Flit) : Bool := f.w0.getLsbD 3
/-- TAG. -/
def fTag (f : Flit) : Nat := fld f.w2 63 40
/-- SEQ. -/
def fSeq (f : Flit) : Nat := fld f.w2 39 16
/-- ISSUE_T. -/
def fIssue (f : Flit) : Nat := fld f.w2 15 0
/-- STATUS of a reply. -/
def fStatus (f : Flit) : Nat := fld f.w1 63 56

/-- Flit kinds (R343). -/
abbrev fkRead : Nat := 1
/-- WRITE. -/
abbrev fkWrite : Nat := 2
/-- WRITE_MASK. -/
abbrev fkWriteMask : Nat := 3
/-- READ_RESP. -/
abbrev fkReadResp : Nat := 0x0A
/-- WRITE_ACK. -/
abbrev fkWriteAck : Nat := 0x0B
/-- ATOMIC_RESP. -/
abbrev fkAtomicResp : Nat := 0x0C
/-- SNP_INV. -/
abbrev fkSnpInv : Nat := 0x0D
/-- SNP_RD. -/
abbrev fkSnpRd : Nat := 0x0E
/-- SNP_ACK. -/
abbrev fkSnpAck : Nat := 0x0F
/-- SNP_DATA. -/
abbrev fkSnpData : Nat := 0x10
/-- SYS_ACK. -/
abbrev fkSysAck : Nat := 0x11

/-- A request. -/
def isRequest (k : Nat) : Bool := 1 ≤ k && k ≤ 9
/-- A reply. -/
def isReply (k : Nat) : Bool := 0x0A ≤ k && k ≤ 0x0C

/-- Payload bytes of a kind; none for a reserved kind (R343, R405). -/
def kindPayload : Nat → Option Nat
  | 0x01 => some 0
  | 0x02 => some 128
  | 0x03 => some 144
  | 0x0A => some 128
  | 0x0B => some 0
  | 0x0C => some 16
  | 0x0D => some 0
  | 0x0E => some 0
  | 0x0F => some 0
  | 0x10 => some 128
  | 0x11 => some 0
  | 0x18 => some 144
  | 0x19 => some 144
  | 0x1A => some 16
  | 0x1C => some 16
  | k => if 4 ≤ k ∧ k ≤ 9 then some 16 else none

/-- Virtual lanes a kind may use (R343). DEDUCED (log entry 66). -/
def kindVl (k v : Nat) : Bool :=
  if k = 1 then v == 0
  else if 2 ≤ k ∧ k ≤ 9 then v == 0 || v == 3
  else if k = 0x0D || k = 0x0E then v == 1
  else if 0x18 ≤ k ∧ k ≤ 0x1B then v == 4
  else v == 2

/-- Bytes of a flit (R341). -/
def flitBytes (f : Flit) : Nat := 32 + f.payload.length
/-- Credits of a flit (R344). -/
def flitCredits (f : Flit) : Nat := cdiv (flitBytes f) 32

/-- A malformed flit (R345); the reserved field of a collective kind's control is word 0 [6:0] (R406). -/
def malformed (f : Flit) : Bool :=
  let k := fKind f
  kindPayload k != some f.payload.length || 4 < fVl f || !kindVl k (fVl f) || fld f.w0 1 0 != 0 ||
  (isReply k && fld f.w1 55 0 != 0) || (isRequest k && fld f.w1 (if 4 ≤ k then 2 else 6) 0 != 0) ||
  (k == fkAtomicResp && leNat (f.payload.drop 8) != 0) || (0x18 ≤ k && leNat (f.payload.take 1) % 128 != 0)

/-- ISSUE_T at a TIME (R342). -/
def issueT (t : Nat) : Nat := t / 1024 % 65536

/-- Build a flit. -/
def mkFlit (vl kind epoch dst src : Nat) (poison : Bool) (w1 tag seq it : Nat) (pl : List Byte) : Flit :=
  { w0 := BitVec.ofNat 64 (vl * 2 ^ 61 + kind * 2 ^ 56 + epoch % 65536 * 2 ^ 40 + dst * 2 ^ 22 + src * 2 ^ 4 + b2n poison * 8),
    w1 := BitVec.ofNat 64 w1, w2 := BitVec.ofNat 64 (tag * 2 ^ 40 + seq * 2 ^ 16 + it), payload := pl }

/-- Replace SEQ. -/
def withSeq (f : Flit) (q : Nat) : Flit := { f with w2 := BitVec.ofNat 64 (setBits f.w2.toNat 39 16 q) }
/-- Replace VL. -/
def withVl (f : Flit) (v : Nat) : Flit := { f with w0 := BitVec.ofNat 64 (setBits f.w0.toNat 63 61 v) }

/-! ### Die-to-die links (R32, R34, R35, R460) -/

/-- The link between two dies: A-dies 0–7, F-dies 8 and 9, the H-die 10. DESIGN CHOICE (log entry 147). -/
def dieLinkOf (a b : Nat) : Nat := 16 * min a b + max a b

/-- The links from A-die `a` to A-die `b`: along the row to the column of `b`, then over the column link (R34). -/
def aRoute (a b : Nat) : List Nat :=
  let lo := min (a % 4) (b % 4)
  (List.range (max (a % 4) (b % 4) - lo)).map (fun i => dieLinkOf (a / 4 * 4 + lo + i) (a / 4 * 4 + lo + i + 1)) ++
  if a / 4 = b / 4 then [] else [dieLinkOf (a / 4 * 4 + b % 4) (b / 4 * 4 + b % 4)]

/-- The links from A-die `d` to F-die `f` (R34). -/
def fRoute (d f : Nat) : List Nat :=
  if d / 4 = f then [dieLinkOf d (8 + f)] else [dieLinkOf d ((d + 4) % 8), dieLinkOf ((d + 4) % 8) (8 + f)]

/-- The links between a die and A-die `d` (R34, R35). DESIGN CHOICE (log entry 147). -/
def dieRoute (a d : Nat) : List Nat :=
  if a < 8 then aRoute a d else if a < 10 then fRoute d (a - 8) else dieLinkOf 10 (8 + d / 4) :: fRoute d (d / 4)

/-- The links between a die and F-die `f`, the F-to-F link among them (R32, R34, R35). -/
def fabRoute (a f : Nat) : List Nat :=
  if a < 8 then fRoute a f else if a = 8 + f then [] else [dieLinkOf a (8 + f)]

/-- The parity attempts of one access on a link (R290, R291, R460): 0 it succeeded, 1 exhausted on data, 2 on command. DESIGN CHOICE (log entry 147). -/
def linkTry (s : State) (l : Nat) : State × Nat :=
  let (kind, rem) := tblGet (fun _ => (0, 0)) s.dieParity l
  if rem = 0 then (s, 0)
  else
    let miss := min rem (dget s kParityRetryLimit + 1)
    let d := l / 16
    let s1 := { s with dieParity := tblSet (fun _ => (0, 0)) s.dieParity l (if rem = miss then (0, 0) else (kind, rem - miss)) }
    let s2 := (List.range miss).foldl (fun s _ => detect s 3 (if d < 8 then unitCoord s d 0x640 else unitCoord s (d - 8) 0x7E0) (2 ^ 32 - 1)
      (.dieLink l)) (dcount s1 kParityRetries miss)
    if miss = dget s kParityRetryLimit + 1 then (dcount s2 kParityExhausted 1, if kind = 3 then 2 else 1) else (s2, 0)

/-- An access crosses links one after another, up to the one on which it is exhausted. -/
def routeTry (s : State) (ls : List Nat) : State × Nat :=
  if s.dieParity.isEmpty then (s, 0) else ls.foldl (fun x l => if x.2 = 0 then linkTry x.1 l else x) (s, 0)

/-- The die from which a unit makes its accesses: a DE's own, the F-dies for a collective sequencer and a home, and the H-die. -/
def ownerDie : Owner → Option Nat
  | .de k => some (k / 1344)
  | .coll k => some (8 + k / 1344 / 4)
  | .home fd _ => some (8 + fd)
  | .hart _ => some 10
  | .nobody => none

/-- An access of a unit to A-die `d` crosses the links between (R460); the data that a read returns is tried with its request, on the links of the
issuer's route. DESIGN CHOICE (log entry 147). -/
def dieTry (s : State) (who : Owner) (d : Nat) : State × Nat :=
  match ownerDie who with
  | none => (s, 0)
  | some a => routeTry s (dieRoute a d)

/-- The die from which a request of the fabric comes to its F-die. -/
def reqDie : ReqOwner → Option Nat
  | .deRead k _ => some (k / 1344)
  | .deWrite k _ => some (k / 1344)
  | .deAtomic k => some (k / 1344)
  | .hartLoad _ _ _ _ => some 10
  | .hartStore _ _ => some 10
  | .hartAmo _ _ => some 10
  | .hartFill _ _ _ _ => some 10
  | _ => none

/-- The ECC of the buffer of a port's lane over a flit that passes it: a correctable word is corrected and counted; true where one is
uncorrectable, and the flit is discarded as if its CRC had failed (R460, R461). DESIGN CHOICE (log entry 147). -/
def bufferCheck (s : State) (p v : Nat) : State × Bool :=
  match tblGet (fun _ => 0) s.bufErr (5 * p + v) with
  | 0 => (s, false)
  | e =>
    let m := 5 * (p % 32) + v
    (detect { s with bufErr := tblSet (fun _ => 0) s.bufErr (5 * p + v) 0 } 0x0B (unitCoord s (p / 32) 0x7E0) m
      (.fdieMacro (2 * m + p / 32)), e == 2)

/-- A flit whose data has lost its check goes on marked poisoned; one that carries none is lost (R459). DESIGN CHOICE (log entry 147). -/
def flitTaint (f : Flit) : Option Flit :=
  if f.payload.isEmpty then none
  else
    let g := { f with w0 := f.w0 ||| 8 }
    some (if isReply (fKind f) && fStatus f == 0 then { g with w1 := BitVec.ofNat 64 (stPoison * 2 ^ 56) } else g)

/-- A flit in F-die `fd` comes to port `p`: over the F-to-F link where that is the other F-die's, and out of the F-die's buffer, whose ECC is
verified (R32, R461); none where it is lost. DESIGN CHOICE (log entry 147). -/
def toEgress (s : State) (fd p : Nat) (f : Flit) : State × Option Flit :=
  let x := if p / 32 = fd then (s, 0) else routeTry s (fabRoute (8 + fd) (p / 32))
  match (match x.2 with | 0 => some f | 1 => flitTaint f | _ => none) with
  | none => (x.1, none)
  | some g => let b := bufferCheck x.1 p (fVl g); (b.1, if b.2 then none else some g)

/-! ### Routes (R337–R340) -/

/-- Level of a port: 0 OFF, 1 BOARD, 2 CHASSIS, 3 GATEWAY. -/
def portLevel (s : State) (p : Nat) : Nat := dget s kPortLevels / 256 ^ p % 256

/-- Core stores are being zeroed at power-up, until when every domain is ON at V-step 3 (R279, R458). -/
def powerUpZeroing (s : State) : Bool := s.zeroing && phase s == phIdle

/-- The domain of a port whose level is OFF, or of an optical engine whose four ports are, but not before core stores are zeroed at power-up
(R337, R439, R458). -/
def portDomOff (s : State) (d : Nat) : Bool :=
  !powerUpZeroing s &&
  (if d < 480 then portLevel s (d - 416) == 0 else (List.range 4).all (fun i => portLevel s (4 * (d - 480) + i) == 0))
/-- State code of a port: 0 DOWN, 1 TRAINING, 2 UP, 3 UP_SPARE, 4 MISWIRED. -/
def portSt (s : State) (p : Nat) : Nat := bitsOf (dget s (kPortState + p)) 31 24
/-- Recorded peer package; all ones for the system network. -/
def portPeer (s : State) (p : Nat) : Nat := bitsOf (dget s (kPortState + p)) 23 6
/-- The port carries flits. -/
def portUp (s : State) (p : Nat) : Bool := portSt s p == 2 || portSt s p == 3
/-- Chassis, board and position of a package as bits [31:14] of its coordinate. -/
def pChassis (p : Nat) : Nat := p / 64
/-- Board within the chassis. -/
def pBoard (p : Nat) : Nat := p / 4 % 16

/-- Route set of a destination, with only its UP ports (R339); within chassis `viaBoardOnly` excludes a second chassis hop. -/
def routePorts (s : State) (dst : Nat) : List Nat :=
  let me := ownPkg s
  let at' := fun lv (g : Nat → Bool) => (List.range 64).filter (fun p => portLevel s p == lv && portUp s p && g (portPeer s p))
  if pChassis dst = pChassis me then
    if pBoard dst = pBoard me then at' 1 (fun q => q == dst)
    else
      let d := at' 2 (fun q => q == dst)
      if d.isEmpty then at' 2 (fun q => q / 4 == dst / 4) else d
  else at' 3 (fun _ => true)

/-- Port `p` at reset. -/
def portDflt : Nat → Port := fun _ => {}
/-- Port `p`. -/
def portAt (s : State) (p : Nat) : Port := tblGet portDflt s.ports p
/-- Change a port. DEDUCED (log entry 64). -/
def modPort (s : State) (p : Nat) (f : Port → Port) : State := { s with ports := tblMod portDflt s.ports p f }

/-- Credits free on a port for a lane: the 32 KiB of the peer's buffer less those in use (R344); none while every LSEQ but one
awaits its acknowledgement (R334). DEDUCED (log entry 64). -/
def creditsFree (s : State) (p vl : Nat) : Nat :=
  if 4095 ≤ (portAt s p).unacked.length then 0 else 1024 - tblGet (fun _ => 0) (portAt s p).used vl

/-! ### The link (R334, R342, R344) -/

/-- LSEQ of a trailer. -/
def tLseq (t : Word) : Nat := fld t 31 20
/-- LACK of a trailer. -/
def tLack (t : Word) : Nat := fld t 19 8

/-- CRC-32 of a flit with the low half `lo` of its trailer: header, payload and those four bytes (R334). DESIGN CHOICE (log entry 136). -/
def flitCrc (f : Flit) (lo : Nat) : Nat :=
  crc32 (leBytes 8 f.w0.toNat ++ leBytes 8 f.w1.toNat ++ leBytes 8 f.w2.toNat ++ f.payload ++ leBytes 4 lo)

/-- A flit with its trailer (R342). -/
def sealFlit (f : Flit) (lseq lack cvl credits : Nat) : Flit :=
  let lo := lseq * 2 ^ 20 + lack * 2 ^ 8 + cvl * 2 ^ 5 + credits
  { f with trailer := BitVec.ofNat 64 (flitCrc f lo * 2 ^ 32 + lo) }

/-- A flit whose CRC holds. -/
def crcOk (f : Flit) : Bool := fld f.trailer 63 32 == flitCrc f (fld f.trailer 31 0)

/-- The LSEQ received last in order. -/
def lackOf (x : Port) : Nat := (x.rxNext + 4095) % 4096

/-- Put a flit on the wire of a port: its LSEQ, LACK, the credits returned first, and the credits it takes. -/
def wire (s : State) (p : Nat) (f : Flit) : State :=
  modPort s p (fun x =>
    let v := ((List.range 5).find? (fun v => tblGet (fun _ => 0) x.owed v != 0)).getD 0
    let c := min 31 (tblGet (fun _ => 0) x.owed v)
    { x with unacked := x.unacked ++ [sealFlit f x.txNext (lackOf x) v c], txNext := (x.txNext + 1) % 4096,
             tries := x.tries ++ [0],
             used := tblMod (fun _ => 0) x.used (fVl f) (· + flitCredits f), owed := tblMod (fun _ => 0) x.owed v (· - c) })

/-- Credits of the disabled buffer banks of a port's lane: bank b of lane v of port p is macro 160·b + 5·(p mod 32) + v of its F-die, and
holds 4 KiB (R466). DESIGN CHOICE (log entry 18). -/
def bankLoss (s : State) (p v : Nat) : Nat :=
  128 * (s.banksOff.filter (fun b => b % 2 == p / 32 && b / 2 % 160 == 5 * (p % 32) + v)).length

/-- The buffer that a received flit took is free: its credits go back to the sender in a later trailer (R344), but for those of disabled
banks, which are withheld (R466). DESIGN CHOICE (log entry 18). -/
def creditBack (s : State) (p : Nat) (f : Flit) : State :=
  let v := fVl f
  let gone := bankLoss s p v
  modPort s p (fun x =>
    let keep := min (flitCredits f) (gone - tblGet (fun _ => 0) x.lost v)
    { x with owed := tblMod (fun _ => 0) x.owed v (· + (flitCredits f - keep)),
             lost := if keep = 0 then x.lost else tblMod (fun _ => 0) x.lost v (· + keep) })

/-- The buffer that a flit in transit took is free. -/
def inputFree (s : State) (inp : Option Nat) (f : Flit) : State :=
  match inp with
  | some p => creditBack s p f
  | none => s

/-- A flit leaves F-die `fd` by port `p`, and the buffer by which it came is free. -/
def leave (s : State) (fd p : Nat) (f : Flit) (inp : Option Nat) : State :=
  let x := toEgress s fd p f
  inputFree (match x.2 with | some g => wire x.1 p g | none => x.1) inp f

/-- A port begins anew: nothing sent, nothing owed, and no flit in transit holds its buffer. -/
def portClear (s : State) (p : Nat) : State :=
  { modPort s p (fun _ => {}) with outQ := s.outQ.map (fun o => if o.inp = some p then { o with inp := none } else o) }

/-- What a flit's trailer says to the port that receives it in order: the flits acknowledged up to LACK, and the credits returned. -/
def linkAccept (x : Port) (t : Word) : Port :=
  let n := match x.unacked with | g :: _ => (tLack t + 4097 - tLseq g.trailer) % 4096 | [] => 0
  let x := if n ≤ x.unacked.length then { x with unacked := x.unacked.drop n, tries := x.tries.drop n } else x
  { x with rxNext := (x.rxNext + 1) % 4096, bad := none, used := tblMod (fun _ => 0) x.used (fld t 7 5) (· - fld t 4 0) }

/-- The port with the most credits free, the lowest number first among equals (R340). DEDUCED (log entry 74). -/
def bestPort (s : State) (vl : Nat) (ps : List Nat) : Option Nat :=
  ps.foldl (fun b p => match b with
    | none => some p
    | some q => if creditsFree s q vl < creditsFree s p vl then some p else some q) none

/-- Counter of stalled time of a level (R370). -/
def kStall (lv : Nat) : Nat := kStallNsBoard + (lv - 1)

/-- Bring the stalled time of each F-die and level up to date: the TIME since the last change during which some flit of it waited
for credits (R370). DEDUCED (log entry 74). -/
def stallSettle (s : State) : State :=
  let d := timeNs s - s.stallAt
  let on := fun (k : Nat) => s.outQ.any (fun o => o.fd == k / 4 && o.lv == k % 4)
  { ([1, 2, 3, 5, 6, 7].foldl (fun s k => if on k then dcount s (kStall (k % 4)) d else s) s) with stallAt := timeNs s }

/-- The stalled time of a level as it reads: that of a stall under way included (R370). -/
def stallNow (s : State) (k : Nat) : Nat := dget (stallSettle s) k

/-- A flit waits that takes the same lane and the same routes. -/
def waitsAhead (s : State) (q : List OutFlit) (f : Flit) : Bool :=
  q.any (fun o => fVl o.f == fVl f && routePorts s (fDst o.f) == routePorts s (fDst f))

/-- Put a flit on the wire, or hold it in F-die `fd` until credits return (R340, R344); false when the destination is unreachable
(R339). One in transit holds the buffer of the port `inp` by which it came until it leaves. DEDUCED (log entry 64). -/
def emit (s : State) (f : Flit) (fd : Nat := 0) (inp : Option Nat := none) : State × Bool :=
  match bestPort s (fVl f) (routePorts s (fDst f)) with
  | none => (inputFree s inp f, false)
  | some p =>
    if flitCredits f ≤ creditsFree s p (fVl f) && !waitsAhead s s.outQ f then (leave s fd p f inp, true)
    else
      let t := stallSettle s
      ({ t with outQ := t.outQ ++ [⟨fd, portLevel s p, timeNs s, f, inp⟩] }, true)

/-- Two lists in equal turns; `t` gives the second the first turn (structural in the sum of their lengths). -/
def inTurns {α : Type} : Nat → Bool → List α → List α → List α
  | 0, _, xs, ys => xs ++ ys
  | n + 1, false, x :: xs, ys => x :: inTurns n true xs ys
  | n + 1, true, xs, y :: ys => y :: inTurns n false xs ys
  | _, _, xs, ys => xs ++ ys

/-- The order in which waiting flits may leave (R344): lane 4, then lanes 1 and 2, then lanes 0 and 3 in turns. -/
def outOrder (s : State) : List (Nat × OutFlit) :=
  let q := idx s.outQ
  let lane := fun (g : Nat → Bool) => q.filter (fun o => g (fVl o.2.f))
  lane (· == 4) ++ lane (fun v => v == 1 || v == 2) ++ inTurns q.length s.turn3 (lane (· == 0)) (lane (· == 3))

/-- Credits have returned: flits waiting for them leave in the order of R344 (R340, R370). A flit whose destination has become
unreachable is discarded. DEDUCED (log entry 74). -/
def drainOut (s0 : State) : State :=
  let s := stallSettle s0
  let r := (outOrder s).foldl (fun (x : State × List Nat × List OutFlit) o =>
    let v := fVl o.2.f
    match bestPort x.1 v (routePorts x.1 (fDst o.2.f)) with
    | none => (inputFree x.1 o.2.inp o.2.f, o.1 :: x.2.1, x.2.2)
    | some p =>
      if flitCredits o.2.f ≤ creditsFree x.1 p v && !waitsAhead x.1 x.2.2 o.2.f then
        ({ leave x.1 o.2.fd p o.2.f o.2.inp with turn3 := if v = 0 then true else if v = 3 then false else x.1.turn3 }, o.1 :: x.2.1, x.2.2)
      else (x.1, x.2.1, x.2.2 ++ [o.2])) (s, [], [])
  { r.1 with outQ := ((idx s.outQ).filter (fun o => !r.2.1.contains o.1)).map (·.2) }

/-- Sending state toward a package of another chassis. -/
def sysTxAt (s : State) (d : Nat) : SysTx := tblGet (fun _ => {}) s.sysTx d
/-- Change it. -/
def modSysTx (s : State) (d : Nat) (f : SysTx → SysTx) : State := { s with sysTx := tblMod (fun _ => {}) s.sysTx d f }

/-- Send a flit: traffic for another chassis is numbered, kept until acknowledged, and waits while 256 are outstanding
(R371). -/
def sendFlit (s : State) (f : Flit) (fd : Nat := 0) : State × Bool :=
  if pChassis (fDst f) = pChassis (ownPkg s) then emit s f fd
  else if (routePorts s (fDst f)).isEmpty then (s, false)
  else if fKind f = fkSysAck then emit s f fd
  else
    let d := fDst f
    let t := sysTxAt s d
    if 256 ≤ t.un.length then (modSysTx s d (fun t => { t with wait := t.wait ++ [f] }), true)
    else
      let g := withSeq f t.next
      emit (modSysTx s d (fun t => { t with next := (t.next + 1) % 2 ^ 24, un := t.un ++ [(t.next, timeNs s, g)] })) g (pChassis d % 2)

/-- Send and forget whether it could be routed. -/
def post (s : State) (f : Flit) (fd : Nat := 0) : State := (sendFlit s f fd).1

/-- Flits that waited for room in a window take their places (R371). -/
def sysRefill (s : State) (d : Nat) : State :=
  (sysTxAt s d).wait.foldl (fun s f => (sendFlit s f (pChassis d % 2)).1) (modSysTx s d (fun t => { t with wait := [] }))

/-! ### Hot lines (R368) -/

/-- A request for a line passes a detector of F-die `fd`: it answers whether the line is hot. DESIGN CHOICE (log entry 72). -/
def hotTouch (s : State) (fd : Nat) (egress : Bool) (line : Nat) : State × Bool :=
  let mine := fun (h : HotLine) => h.fd == fd && h.egress == egress
  let now := timeNs s
  let th := dget s kHotThreshold
  let old := (s.hot.find? (fun h => mine h && h.line == line)).getD { fd := fd, egress := egress, line := line }
  let times := (old.times ++ [now]).filter (fun t => now < t + 1000)
  let past := decide (th ≤ times.length)
  let new : HotLine := { old with times := times, hot := old.hot || past, since := if past then now else old.since }
  let rest := s.hot.filter (fun h => !(mine h && h.line == line))
  let rest := if 64 ≤ (rest.filter mine).length then
      match rest.findIdx? mine with | some i => rest.eraseIdx i | none => rest
    else rest
  (dcount { s with hot := rest ++ [new] } kHotLines (b2n (past && !old.hot)), new.hot)

/-! ### Issue of requests (R346, R348, R354, R366, R371) -/

/-- Where an address in space 01, 10 or 11 goes by the translation table of the issuing F-die (R348): the home package, or the status
that fails it at once. -/
def resolve (s : State) (fd a : Nat) : Nat ⊕ Nat :=
  match a / 2 ^ 62 with
  | 1 => .inl (ownPkg s / 4 * 4 + bitsOf a 49 48)
  | 2 =>
    let l := bitsOf a 61 46
    let e := tblGet (fun _ => 0) (if fd = 0 then s.trans0 else s.trans1) l
    if 16384 ≤ l || !bitOf e 63 then .inr 0x80 else .inl (bitsOf e 17 0)
  | _ => .inl (bitsOf a 61 44)

/-- Tags of an F-die: half of the 24-bit tags, those whose bit 23 is the F-die's number, so that a reply finds the F-die that
issued its request. DESIGN CHOICE (log entry 137). -/
abbrev tagsPerFd : Nat := 2 ^ 23

/-- An F-die has a tag that no request of the last REPLY_TIMEOUT carried (R354). -/
def tagFree (s : State) (fd : Nat) : Bool :=
  (s.tagLog.filter (fun x => x.1 == fd && timeNs s ≤ x.2 + dget s kReplyTimeout)).length < tagsPerFd

/-- Next request tag of an F-die, allocated cyclically (R354). -/
def nextTag (s : State) (fd : Nat) : Nat × State :=
  let t := tblGet (fun _ => 0) s.tagNext fd
  (fd * tagsPerFd + t, { s with tagNext := tblSet (fun _ => 0) s.tagNext fd ((t + 1) % tagsPerFd),
                                tagLog := s.tagLog.filter (fun x => timeNs s ≤ x.2 + dget s kReplyTimeout) ++ [(fd, timeNs s)] })

/-- A request that its F-die sends: status 0 when it is on its way, else UNMAPPED or UNREACHABLE. A READ keeps lane 0,
the only one that R343 gives it, for a hot line too. DEDUCED (log entry 66). -/
def issueFd (s : State) (fd kind a : Nat) (poison : Bool) (pl : List Byte) (who : ReqOwner) (co : Nat := 0) : State × Nat :=
  match resolve s fd a with
  | .inr st => (s, st)
  | .inl dst =>
    let (tag, s1) := nextTag s fd
    let h := hotTouch s1 fd true (a / 128)
    let vl := if h.2 && kind != fkRead then 3 else 0
    let f := { mkFlit vl kind (dget s kJobEpoch) dst (ownPkg s) poison a tag 0 (issueT (timeNs s)) pl with co := co }
    let r := sendFlit h.1 f fd
    if r.2 then ({ r.1 with reqs := r.1.reqs ++ [⟨fd, tag, timeNs s, f, who, 0⟩], lastIssue := timeNs s }, 0)
    else (s, 0x82)

/-- The issue of a request that is allowed to leave, over the links between its unit and the F-die (R34, R35, R461): one whose attempts are
exhausted is a failed line; a write whose data is lost goes on as a poisoned one (R291, R459). DEDUCED (log entry 66). -/
def issueNow (s : State) (fd kind a : Nat) (poison : Bool) (pl : List Byte) (who : ReqOwner) (co : Nat := 0) : State × Nat :=
  let x := match reqDie who with | some d => routeTry s (fabRoute d fd) | none => (s, 0)
  if x.2 = 0 then issueFd x.1 fd kind a poison pl who co
  else if x.2 = 1 && (kind = fkWrite || kind = fkWriteMask) then ((issueFd x.1 fd kind a true pl .gone co).1, 0x83)
  else (x.1, 0x83)

/-- A remote restore has 4,096 reads outstanding to the holder of address `a` (R496). -/
def holderFull (s : State) (a : Nat) (who : ReqOwner) : Bool :=
  match who with
  | .restore _ _ => decide (4096 ≤ (s.reqs.filter (fun r => (match r.who with | .restore _ _ => true | _ => false) &&
      r.f.w1.toNat / 2 ^ 46 == a / 2 ^ 46)).length)
  | _ => false

/-- Issue a request, or hold it while an epoch advance fences the old epoch (R502), no tag is free (R354), or the reads to its holder are at
their limit (R496). DEDUCED (log entry 73). -/
def issue (s : State) (fd kind a : Nat) (poison : Bool) (pl : List Byte) (who : ReqOwner) (co : Nat := 0) : State × Nat :=
  if s.epochAdv.isSome || !tagFree s fd || holderFull s a who then
    ({ s with issueQ := s.issueQ ++ [⟨fd, 0, timeNs s, { mkFlit 0 kind 0 0 0 poison a 0 0 0 pl with co := co }, who, 0⟩] }, 0)
  else issueNow s fd kind a poison pl who co

/-- Send a reply to a request flit (R350, R351). -/
def reply (s : State) (rq : Flit) (kind status : Nat) (poison : Bool) (pl : List Byte) : Flit :=
  mkFlit 2 kind (fEpoch rq) (fSrc rq) (ownPkg s) poison (status * 2 ^ 56) (fTag rq) 0 (fIssue rq) pl

/-- F-die of an owner. -/
def ownerFd : Owner → Nat
  | .home fd _ => fd
  | _ => 0

/-- A reply leaves once no held write of its request remains (R350). -/
def flushReplies (s : State) : State :=
  let ready := fun (x : Owner × Flit) => !(s.held.any (fun h => h.who == x.1))
  (s.replies.filter ready).foldl (fun s x => post s x.2 (ownerFd x.1)) { s with replies := s.replies.filter (fun x => !ready x) }

end Sys2Proof.Machine
end

