-- ==== Sys2Proof/Machine/Stack.lean ====
section
/-! DEFINITION. Stack memory (R272, R280–R294, R302, R360–R362, R469): channel hashes, line accesses with their checks,
the board coherence directory, and writes held by copy-on-write. -/
namespace Sys2Proof.Machine
open Sys2Proof Config

/-! ### Channel hashes (R284–R287) -/

/-- Exclusive-or of bits `i`, `i + step`, … of a number, `n` of them. -/
def xorBits (v i step : Nat) : Nat → Bool
  | 0 => false
  | n + 1 => (bitOf v i) != xorBits v (i + step) step n

/-- A number from its bits, lowest first. -/
def ofBits : List Bool → Nat
  | [] => 0
  | b :: t => b2n b + 2 * ofBits t

/-- Channel (32·stack + channel) and granule row of a stack address (R284–R286). -/
def addrMap (s : State) (a : Nat) : Nat × Nat :=
  let k := dget s kDieLocalSlices
  let wide := (8 - k) * 2 ^ 37
  if a < wide then
    let g := a / 256
    let c := ofBits ((List.range 9).map (fun i => xorBits g i 9 (if i < 5 then 4 else 3)))
    (c, g / 512)
  else
    let d := (a - wide) / (k * 2 ^ 34)
    let h := (a - wide) % (k * 2 ^ 34) / 256
    let e := ofBits ((List.range 6).map (fun i => xorBits h i 6 (if i < 5 then 5 else 4)))
    (64 * d + e, (8 - k) * 2 ^ 20 + h / 64)

/-- Physical place of a byte of stack memory. -/
def physByte (s : State) (a : Nat) : Nat := let m := addrMap s a; m.1 * 2 ^ 31 + m.2 * 256 + a % 256
/-- Stack of an address. -/
def stackOf (s : State) (a : Nat) : Nat := (addrMap s a).1 / 32
/-- F-die that is home to an address (R356, R360). -/
def homeFd (s : State) (a : Nat) : Nat := stackOf s a / 8
/-- Stack memory of the package. -/
def inStack (a n : Nat) : Bool := a + n ≤ 2 ^ 40

/-- Stack `st` serves accesses: it is not training, retraining or being cleared (R283, R293). -/
def stackFree (s : State) (st : Nat) : Bool := (tblGet (fun _ => []) s.stackWork st).isEmpty

/-- The bytes of a line as stored. -/
def lineBytes (s : State) (la : Nat) : List Byte := memRead s.mem (physByte s la) 128
/-- Physical line number. -/
def physLine (s : State) (la : Nat) : Nat := physByte s la / 128
/-- The poison marker of a line. -/
def marked (s : State) (la : Nat) : Bool := tblGet (fun _ => false) s.marks (physLine s la)
/-- Set or clear the poison marker. -/
def setMark (s : State) (la : Nat) (b : Bool) : State := { s with marks := tblSet (fun _ => false) s.marks (physLine s la) b }

/-- The channel of an address is offline (R292). -/
def offline (s : State) (la : Nat) : Bool := let c := (addrMap s la).1; bitOf (dget s (kOfflineChannels + c / 32)) (c % 32)
/-- The row of an address is blocked (R469). -/
def rowBlocked (s : State) (la : Nat) : Bool := let m := addrMap s la; tblGet (fun _ => false) s.blocked (m.1 * 2 ^ 23 + m.2)

/-- Physical coordinate of the NMU of stack `st` (R44). DEDUCED (log entry 54). -/
def nmuCoord (s : State) (st : Nat) : Nat := unitCoord s (st / 2) (0x640 + st % 2)

/-- The parity attempts of one access (R290, R291): 0 it succeeded, 1 exhausted on data, 2 exhausted on command. DEDUCED (log entry 138). -/
def parityTry (s : State) (la : Nat) : State × Nat :=
  let c := (addrMap s la).1
  let (kind, rem) := tblGet (fun _ => (0, 0)) s.parity c
  if rem = 0 then (s, 0)
  else
    let st := c / 32
    let j := c % 32
    let miss := min rem (dget s kParityRetryLimit + 1)
    let groups := match kind with | 0 => [2 * j] | 1 => [2 * j + 1] | _ => [2 * j, 2 * j + 1]
    let sus := dget s (kSuspectGroups + st)
    let sus' := groups.foldl (fun v g => if bitOf v g then v else v + 2 ^ g) sus
    let s1 := { s with parity := tblSet (fun _ => (0, 0)) s.parity c (if rem = miss then (0, 0) else (kind, rem - miss)) }
    let s2 := dset (dcount s1 kParityRetries (miss * if kind = 2 then 2 else 1)) (kSuspectGroups + st) sus'
    let s3 := (List.range miss).foldl (fun s _ =>
      groups.foldl (fun s g => detect s 3 (nmuCoord s st) la (.stackLanes (64 * st + g))) s) s2
    if miss = dget s kParityRetryLimit + 1 then (dcount s3 kParityExhausted 1, if kind = 3 then 2 else 1) else (s3, 0)

/-- A line poisoned by a command of the owner counts for it (R424). -/
def noteLine (s : State) (la : Nat) : Owner → State
  | .de k => notePoison s k 3 [2 ^ 64 + la / 128]
  | .coll k => notePoison s k 4 [2 ^ 64 + la / 128]
  | _ => s

/-- ECC of the codewords in `cws` of a line (R280): corrected ones are written back, an uncorrectable one poisons the line. -/
def eccCheck (s : State) (la : Nat) (cws : List Nat) : State × Bool :=
  let pl := physLine s la
  let e := tblGet (fun _ => 0) s.ecc pl
  let d := fun c => e / 4 ^ c % 4
  let cor := cws.filter (fun c => d c == 1)
  let unc := cws.any (fun c => 2 ≤ d c)
  let s1 := if cor.isEmpty then s else
    { s with ecc := tblSet (fun _ => 0) s.ecc pl (cor.foldl (fun v c => v - 4 ^ c) e) }
  let s2 := dcount s1 kEccCorrected cor.length
  let c := (addrMap s la).1
  let s3 := if cor.isEmpty then s2 else detect s2 1 (nmuCoord s (c / 32)) la (.bank c)
  if unc then (detect (dcount (setMark s3 la true) kEccUncorrected 1) 2 (nmuCoord s (c / 32)) la (.bank c), true)
  else (s3, false)

/-- Forget latent codeword errors of whole codewords that are rewritten. DEDUCED (log entry 59). -/
def eccFresh (s : State) (la : Nat) (cws : List Nat) : State :=
  let pl := physLine s la
  { s with ecc := tblSet (fun _ => 0) s.ecc pl (cws.foldl (fun v c => v - (v / 4 ^ c % 4) * 4 ^ c) (tblGet (fun _ => 0) s.ecc pl)) }

/-- Read of a line by the base die: its bytes and 0 good, 1 delivered poisoned from stored poison, 2 a failed line
(delivered poisoned) (R280, R291, R292, R323). The base die checks the codewords of every line that it reads, also where the data
then exhausts its parity retries (R294); a read that ends under R291 or R292 sets the marker (R281). DEDUCED (log entry 138). -/
def lineRead (s : State) (la : Nat) : State × List Byte × Nat :=
  if offline s la then (setMark s la true, lineBytes s la, 2)
  else
    let p := parityTry s la
    let e := if p.2 = 2 then p.1 else (eccCheck p.1 la [0, 1, 2, 3]).1
    if p.2 != 0 then (setMark e la true, lineBytes e la, 2)
    else (e, lineBytes e la, if marked e la then 1 else 0)

/-- The bytes of a masked write over the old ones. -/
def mergeBytes : List Byte → List (Option Byte) → List Byte
  | o :: os, b :: bs => b.getD o :: mergeBytes os bs
  | os, _ => os

/-- A masked write of a line enables all, or some, of the bytes of codeword `c`. -/
def cwFull (bs : List (Option Byte)) (c : Nat) : Bool := ((bs.drop (32 * c)).take 32).all Option.isSome
/-- Some byte of codeword `c`. -/
def cwAny (bs : List (Option Byte)) (c : Nat) : Bool := ((bs.drop (32 * c)).take 32).any Option.isSome

/-- Masks merged in order: in each byte the last write stands (R369). -/
def mergeMasks (ms : List (List (Option Byte))) : List (Option Byte) :=
  ms.foldl (fun a m => a.zipWith (fun x y => if y.isSome then y else x) m) (List.replicate 128 none)

/-- The writes of a run, one by one: a codeword that one covers in part, none before it having touched it, is read and checked (R281). -/
def runPart : List (List (Option Byte) × Bool) → List Nat
  | [] => []
  | (m, _) :: t => (List.range 4).filter (fun c => cwAny m c && !cwFull m c) ++ (runPart t).filter (fun c => !cwAny m c)

/-- The poison marker of a line after the writes of a run one by one, `unc` being its uncorrectable codewords (R281). -/
def runMark (unc : List Nat) : Bool → List (List (Option Byte) × Bool) → Bool
  | m, [] => m
  | m, (bs, p) :: t =>
    runMark (unc.filter (fun c => !cwAny bs c))
      (if bs.all Option.isSome then p else m || p || unc.any (fun c => cwAny bs c && !cwFull bs c)) t

/-- A run of writes of a line, combined into one whose result is that of the writes one by one: whether the line failed (R281, R291, R292,
R369, R469). One that exhausts its retries on command or address never reaches the line, which keeps its marker as it is. DESIGN CHOICE (log entry 72). DEDUCED (log entry 138). -/
def lineRun (s : State) (la : Nat) (ms : List (List (Option Byte) × Bool)) : State × Bool :=
  if offline s la then (setMark s la true, true)
  else if rowBlocked s la then (s, true)
  else
    let p := parityTry s la
    if p.2 = 1 then (setMark p.1 la true, true)
    else if p.2 = 2 then (p.1, true)
    else
      let bs := mergeMasks (ms.map (·.1))
      let m0 := marked p.1 la
      let ecc := tblGet (fun _ => 0) p.1.ecc (physLine s la)
      let e := eccCheck p.1 la (runPart ms)
      let s1 := eccFresh e.1 la ((List.range 4).filter (fun c => cwFull bs c || (cwAny bs c && e.2)))
      let s2 := { s1 with mem := memWrite s1.mem (physByte s la) (mergeBytes (lineBytes s1 la) bs) }
      (setMark s2 la (runMark ((List.range 4).filter (fun c => 2 ≤ ecc / 4 ^ c % 4)) m0 ms), false)

/-- Write of a line under a mask (R281, R291, R292, R469): whether the line failed. -/
def lineWrite (s : State) (la : Nat) (bs : List (Option Byte)) (poison : Bool) : State × Bool := lineRun s la [(bs, poison)]

/-! ### The board coherence directory (R359–R362) -/

/-- Agent of this package's H-die; its CXL host is the next agent (R359). -/
def ownAgent (s : State) : Nat := 2 * (dget s kPackagePosition % 4)

/-- A free byte string that the outside world supplies. DESIGN CHOICE (log entry 16). -/
def freeBytes (s : State) (n : Nat) : State × List Byte :=
  ({ s with freeCount := s.freeCount + n }, (List.range n).map (fun i => freeByte 9 (s.freeCount + i)))

/-- The used state regions in increasing number: base and length. -/
def stateRegions (s : State) : List (Nat × Nat) :=
  (List.range 64).filterMap (fun r =>
    let l := tblGet (fun _ => 0) s.snap.lens r
    if l = 0 then none else some (tblGet (fun _ => 0) s.snap.bases r, l))

/-- Image byte of an address in a state region (R485). -/
def imageByte : List (Nat × Nat) → Nat → Nat → Option Nat
  | [], _, _ => none
  | (b, l) :: t, off, a => if b ≤ a ∧ a < b + l then some (off + (a - b)) else imageByte t (off + l) a

/-- The line lies in a part that is NOT_COPIED (R302). DEDUCED (log entry 58). -/
def notCopied (s : State) (la : Nat) : Bool :=
  s.snap.state == 1 &&
  (match imageByte (stateRegions s) 0 la with
    | some o => !(s.snap.copied.contains (stackOf s la, o / 65536))
    | none => false)

/-- The line lies in the load range of a boot image under verification (R556). -/
def bootHeld (s : State) (la : Nat) : Bool :=
  dget s kBootState == 1 && decide (la < s.trust.bootHi) && decide (s.trust.bootLo < la + 128)

/-- Why no write of a line is performed now, if none is: 0 its part is NOT_COPIED (R302), 1 a boot image loads there (R556), 2 the stack
serves no access (R283, R293). -/
def lineShut (s : State) (la : Nat) : Option Nat :=
  if bootHeld s la then some 1 else if notCopied s la then some 0 else if !stackFree s (stackOf s la) then some 2 else none

/-- Why a write of a line must wait, if it must: as `lineShut`, or an earlier write or atomic of the line waits (R303). -/
def writeWaits (s : State) (la : Nat) : Option Nat :=
  match lineShut s la with
  | some k => some k
  | none => if s.held.any (fun h => h.line == la) then some 2 else none

/-- An atomic reaches its NMU, and takes its place among the accesses to its line (R303). DEDUCED (log entry 58). -/
def atomicPut (s : State) (q : AtomicOp) : State :=
  let la := q.addr / 128 * 128
  { s with atomics := s.atomics ++ [q],
           held := s.held ++ [{ line := la, bytes := [], poison := false, who := q.who, kind := (lineShut s la).getD 2 }] }

/-- An atomic's place. -/
def atomicMark (q : AtomicOp) (h : HeldWrite) : Bool := h.bytes.isEmpty && h.who == q.who && h.line == q.addr / 128 * 128

/-- No earlier access to an atomic's line waits (R303). -/
def atomicTurn (s : State) (q : AtomicOp) : Bool :=
  let la := q.addr / 128 * 128
  (s.held.takeWhile (fun h => !atomicMark q h)).all (fun h => h.line != la) && !s.held.any (fun h => h.back && h.line == la)

/-- An atomic leaves its NMU, one that copy-on-write held being counted (R302). -/
def atomicGone (s : State) (q : AtomicOp) : State :=
  let cow := s.held.any (fun h => atomicMark q h && h.kind == 0)
  dcount { s with atomics := s.atomics.erase q, held := s.held.eraseP (atomicMark q) } kCowHeldWrites (b2n cow)

/-- Record HDIE_ERROR, keeping the first until software releases it (R537, R539). -/
def hdieRecord (s : State) (async : Bool) (h status pa : Nat) : State :=
  match s.hdieErr with
  | some _ => s
  | none => { s with hdieErr := some (b2n async * 2 ^ 62 + h % 64 * 2 ^ 56 + status % 256 * 2 ^ 48), hdieErrAddr := pa }

/-- Hart `h`. -/
def hartAt (s : State) (h : Nat) : Hart := tblGet (fun _ => {}) s.harts h

/-- The value of a control and status register at reset: misa of RV64GC with S and U modes, the widths of mstatus, the hart's number, and
zero. PRESUMED (log entry 143). -/
def csrReset (h n : Nat) : Nat :=
  match n with
  | 0x301 => 2 ^ 63 + 0x14112D
  | 0x300 => 0xA00000000
  | 0xF14 => h
  | _ => 0

/-- The interrupts pending on a hart: software, timer, the ring interrupt 16 of a notified ring whose NOTIFY_TARGET is the hart, and the
error interrupt 17 (R539). -/
def hartMip (s : State) (h : Nat) : Nat :=
  let ring := s.notify != 0 && (List.range 16384).any (fun r => bitOf s.notify r && (tblGet (fun _ => ({} : Ring)) s.rings r).target == h)
  b2n (bitOf s.msip h) * 2 ^ 3 + b2n (bitOf s.mtip h) * 2 ^ 7 + b2n ring * 2 ^ 16 + b2n (bitOf s.irq17 h) * 2 ^ 17

/-- A control and status register as it reads: mip holds what is pending, time is TIME, mcycle counts the core's own beats and is free
(R532, R539). -/
def hartCsr (s : State) (h n : Nat) : Nat :=
  match n with
  | 0x344 => Nat.lor (hartMip s h) (tblGet (csrReset h) (hartAt s h).csr n)
  | 0xC01 => timeNs s
  | 0xB00 => freeCycle (s.freeCount + h)
  | _ => tblGet (csrReset h) (hartAt s h).csr n

/-- A hart takes a trap: to supervisor mode where it is delegated from a lower mode, else to machine mode; the pc, cause and value are
saved, and the status keeps the mode and the interrupt enable it came from. PRESUMED (log entry 143). -/
def hartTrap (s : State) (h cause tval : Nat) (intr : Bool := false) : State :=
  let c := hartCsr s h
  let x := hartAt s h
  let deleg := x.priv ≤ 1 && bitOf (c (if intr then 0x303 else 0x302)) cause
  let st := c 0x300
  let set := fun (l : Tbl Nat) (p : Nat × Nat) => tblSet (csrReset h) l p.1 p.2
  let code := b2n intr * 2 ^ 63 + cause
  let vec := fun (tv : Nat) => tv / 4 * 4 + (if intr && tv % 4 == 1 then 4 * cause else 0)
  let y : Hart := if deleg then
      { x with priv := 1, pc := vec (c 0x105),
               csr := [(0x141, x.pc), (0x142, code), (0x143, tval),
                 (0x300, setBits (setBits (setBits st 5 5 (bitsOf st 1 1)) 1 1 0) 8 8 (x.priv % 2))].foldl set x.csr }
    else
      { x with priv := 3, pc := vec (c 0x305),
               csr := [(0x341, x.pc), (0x342, code), (0x343, tval),
                 (0x300, setBits (setBits (setBits st 7 7 (bitsOf st 3 3)) 3 3 0) 12 11 (x.priv % 4))].foldl set x.csr }
  { s with harts := tblSet (fun _ => {}) s.harts h y }

/-- A hart executes: released, and its group's domain ON. DEDUCED (log entry 111). -/
def hartUp (s : State) (h : Nat) : Bool := h < 64 && bitOf s.released h && (domAt s (496 + h / 8)).st == 2

/-- The interrupts in the order in which a hart takes them: software and timer before the local ones, the error first. PRESUMED (log entry 143). -/
def irqOrder : List Nat := [3, 7, 17, 16]

/-- An interrupt is taken now: pending and enabled, and the mode that takes it lets it through. PRESUMED (log entry 143). -/
def irqTaken (s : State) (h i : Nat) : Bool :=
  let c := hartCsr s h
  let p := (hartAt s h).priv
  bitOf (c 0x344) i && bitOf (c 0x304) i &&
  (if bitOf (c 0x303) i then p == 0 || (p == 1 && bitOf (c 0x300) 1) else p != 3 || bitOf (c 0x300) 3)

/-- A hart takes the first of its pending interrupts that its enables let through (R539). PRESUMED (log entry 143). -/
def hartPoll (s : State) (h : Nat) : State :=
  if !hartUp s h then s
  else match irqOrder.find? (irqTaken s h) with
    | some i => hartTrap s h i 0 true
    | none => s

/-- A hart's access ends: its data, or its access fault (1 fetch, 5 load, 7 store or AMO) with its record, which the hart takes (R537); a
hart whose group is OFF takes neither (R440). DEDUCED (log entry 110). -/
def hartDone (s : State) (h pa v status : Nat) (cause : Nat := 5) : State :=
  if !hartUp s h then s
  else if status = 0 then { s with hresp := tblSet (fun _ => (0, false)) s.hresp h (v, false) }
  else hartTrap (hdieRecord { s with hresp := tblSet (fun _ => (0, false)) s.hresp h (0, true) } false h status pa) h cause pa

/-- An asynchronous error: a record and local interrupt 17 on the hart (R537). DEDUCED (log entry 110). -/
def hartAsync (s : State) (h pa status : Nat) : State :=
  hartPoll (hdieRecord { s with irq17 := Nat.lor s.irq17 (2 ^ (h % 64)) } true h status pa) h

/-- A write of the H-die fails: a hart's is an asynchronous error, one for the CXL host an uncorrectable internal error (R537, R547). -/
def hostFail (s : State) (h pa status : Nat) : State :=
  if h < 64 then hartAsync s h pa status else { s with cxl := { s.cxl with aer := s.cxl.aer + 1 } }

/-- Writes of a line over the links from the writer's die: whether it failed (R291, R460). -/
def lineOver (s : State) (la : Nat) (ms : List (List (Option Byte) × Bool)) (who : Owner) : State × Bool :=
  let p := dieTry s who (stackOf s la / 2)
  match p.2 with
  | 0 => lineRun p.1 la ms
  | 1 => (setMark p.1 la true, true)
  | _ => (p.1, true)

/-- The write-back of a modified line from a cache (R361): held like any write (R302, R293), and before those that
wait, whose snoops it answers. One of this H-die's that fails is reported on
the hart that last modified the line (R537). -/
def lineBack (s : State) (la : Nat) (bs : List Byte) (poison : Bool) (who : Owner := .nobody) : State :=
  match lineShut s la with
  | some k => { s with held := s.held ++ [{ line := la, bytes := bs.map some, poison := poison, who := who, kind := k, rep := la, back := true }] }
  | none =>
    let w := lineOver s la [(bs.map some, poison)] who
    match who with
    | .hart h => if w.2 then hostFail w.1 h la 0x83 else w.1
    | _ => w.1

/-- A read of a line sees a write-back that is held for it. -/
def lineGet (s : State) (la : Nat) : State × List Byte × Nat :=
  let r := lineRead s la
  match (s.held.filter (fun h => h.back && h.line == la)).getLast? with
  | some h => (r.1, mergeBytes r.2.1 h.bytes, if h.poison then 1 else 0)
  | none => r

/-- A read of a line over the links to the reader's die (R291, R460). -/
def lineFrom (s : State) (la : Nat) (who : Owner) : State × List Byte × Nat :=
  let p := dieTry s who (stackOf s la / 2)
  if p.2 = 0 then lineGet p.1 la else (setMark p.1 la true, lineBytes p.1 la, 2)

/-- An H-die line that is not held. -/
def hdieDflt : Nat → HLine := fun _ => {}
/-- H-die line `key`. -/
def hLine (s : State) (key : Nat) : HLine := tblGet hdieDflt s.hcache key
/-- Drop an H-die line. -/
def hdieDrop (s : State) (pl : Nat) : State := { s with hcache := tblSet hdieDflt s.hcache pl {} }
/-- Change an H-die line. -/
def hdieMod (s : State) (pl : Nat) (f : HLine → HLine) : State := { s with hcache := tblMod hdieDflt s.hcache pl f }

/-- The proof-pass unit of a way: of the shared cache, or of a hart's own caches (R534). -/
def wayUnit (key way : Nat) : ProofUnit := .hdieWay (if way < 16 then 16 * (key % 2) + way else 16 + way)

/-- Each 64-bit word that is read with an ECC error, correctable or not, is counted and makes the proof pass of its way due (R462, R534). -/
def wordErrors (s : State) (u : ProofUnit) (ws : List Nat) (cor bad : Nat) : State :=
  (ws.filter (fun w => bitOf cor w || bitOf bad w)).foldl (fun s _ =>
    detect s 0x0C (unitCoord s 0 0x7F0) (match u with | .hdieWay b => b | _ => 0) u) s

/-- Clear bits of a mask. -/
def dropBits (m : Nat) (ws : List Nat) : Nat := ws.foldl (fun m w => setBits m w w 0) m

/-- Words of a line are read from its way: a correctable error is corrected in place (R460, R534). -/
def lineWords (s : State) (key : Nat) (ws : List Nat) : State :=
  let l := hLine s key
  if l.cor = 0 && l.bad = 0 then s
  else hdieMod (wordErrors s (wayUnit key l.way) ws l.cor l.bad) key (fun l => { l with cor := dropBits l.cor ws })

/-- Write back an H-die line of this package's stack memory if it is modified (R361, R534). -/
def hdieBack (s : State) (la : Nat) : State :=
  let h := hLine s (la / 128)
  if h.dirty then lineBack (lineWords s (la / 128) (List.range 16)) la h.bytes (h.bad != 0) (.hart h.hart) else s

/-- A snoop of one holder: the H-die at once; the CXL host by its bias flip, its line, if it may have been modified, being a
free value; another package by a flit, which the request of line `w` waits for (R361, R362, R548). DESIGN CHOICE (log entry 113). -/
def snoopOne (s : State) (d : DirLine) (inv : Bool) (w : Nat) (who : Owner) (ag : Nat) : State :=
  let la := 128 * d.line
  if ag = ownAgent s then
    let s1 := hdieBack s la
    if inv then hdieDrop s1 d.line else hdieMod s1 d.line (fun h => if h.bytes.isEmpty then h else { h with dirty := false, excl := false })
  else if ag = ownAgent s + 1 then
    if d.excl then
      let r := freeBytes s 128
      lineBack r.1 la r.2 false (.hart 64)
    else s
  else
    let fd := homeFd s la
    let (tag, s1) := nextTag s fd
    let dst := ownPkg s / 4 * 4 + ag / 2
    let a := 2 ^ 62 + (dget s kPackagePosition % 4) * 2 ^ 48 + la
    let r := sendFlit s1 (mkFlit 1 (if inv then fkSnpInv else fkSnpRd) (dget s kJobEpoch) dst (ownPkg s) false a tag 0 (issueT (timeNs s)) []) fd
    if r.2 then { r.1 with snoops := r.1.snoops ++ [⟨fd, tag, d.line, ag, w, who⟩] } else s1

/-- The directory's entry of a line. -/
def dirOf (s : State) (la : Nat) : Option DirLine := s.dir.find? (fun d => d.line == la / 128)

/-- Set the entry of a line, in place of an old one; a new one is granted last. An entry with no holder is untracked. -/
def dirSet (s : State) (la : Nat) (hs : List Nat) (excl : Bool) : State :=
  let l := la / 128
  if hs.isEmpty then { s with dir := s.dir.filter (fun d => d.line != l) }
  else if s.dir.any (fun d => d.line == l) then
    { s with dir := s.dir.map (fun d => if d.line == l then ⟨l, excl, hs⟩ else d) }
  else { s with dir := s.dir ++ [⟨l, excl, hs⟩] }

/-- Any access that is no agent's: a read takes an exclusive line to shared, a write invalidates every holder (R361). -/
def dirAccess (s : State) (la : Nat) (write : Bool) (who : Owner) : State :=
  match dirOf s la with
  | none => s
  | some d =>
    if write then dirSet (d.holders.foldl (fun s a => snoopOne s d true d.line who a) s) la [] false
    else if d.excl then dirSet (d.holders.foldl (fun s a => snoopOne s d false d.line who a) s) la d.holders false
    else s

/-- Make room for a new tracked line of the F-die: the line granted longest ago is recalled, and the request waits for the recall
(R362). -/
def dirRoom (s : State) (la : Nat) (who : Owner) : State :=
  let fd := homeFd s la
  let mine := s.dir.filter (fun d => homeFd s (128 * d.line) == fd)
  if (dirOf s la).isSome || mine.length < dget s kDirectoryEntries then s
  else match mine with
    | [] => s
    | d :: _ => dcount (dirSet (d.holders.foldl (fun s a => snoopOne s d true (la / 128) who a) s) (128 * d.line) [] false) kDirectoryRecalls 1

/-- An agent reads a line, shared or for ownership (R361). -/
def agentRead (s : State) (la ag : Nat) (own : Bool) (who : Owner) : State :=
  let s := dirRoom s la who
  match dirOf s la with
  | none => dirSet s la [ag] own
  | some d =>
    let others := d.holders.filter (· != ag)
    if own then dirSet (others.foldl (fun s a => snoopOne s d true d.line who a) s) la [ag] true
    else if d.excl && d.holders != [ag] then
      dirSet (others.foldl (fun s a => snoopOne s d false d.line who a) s) la (d.holders ++ [ag]) false
    else if d.excl then s
    else dirSet s la (if d.holders.contains ag then d.holders else d.holders ++ [ag]) false

/-- An agent gives up a line (R361). -/
def agentEvict (s : State) (la ag : Nat) : State :=
  match dirOf s la with
  | none => s
  | some d => dirSet s la (d.holders.filter (· != ag)) (d.excl && d.holders != [ag])

/-- Two ranges, given by start and length, share a byte with the line. -/
def coversLine (rs : List (Nat × Nat)) (line : Nat) : Bool := rs.any (fun r => overlap r.1 r.2 (128 * line) 128)

/-- The directory's part of a unit's reads and writes of ranges of stack memory: snoops of the tracked lines among them (R360, R361). -/
def dirPrep (s : State) (rs ws : List (Nat × Nat)) (who : Owner) : State :=
  s.dir.foldl (fun s d =>
    if coversLine ws d.line then dirAccess s (128 * d.line) true who
    else if coversLine rs d.line then dirAccess s (128 * d.line) false who
    else s) s

/-- No access to a line of these ranges is under way at its directory: accesses to one line are performed one at a time (R360). -/
def dirIdle (s : State) (rs : List (Nat × Nat)) : Bool :=
  s.snoops.all (fun n => !coversLine rs n.line && !coversLine rs n.waits)

/-! ### Copy-on-write (R302, R485) -/

/-- Address of an image byte. -/
def imageAddr : List (Nat × Nat) → Nat → Option Nat
  | [], _ => none
  | (b, l) :: t, o => if o < l then some (b + o) else imageAddr t (o - l)

/-- Total length S of the used regions (R485). -/
def imageSize (s : State) : Nat := (stateRegions s).foldl (fun a r => a + r.2) 0

/-- Read of a line by any unit but an agent: through the directory, and over the links between the dies (R460). -/
def readLine (s : State) (la : Nat) (who : Owner) : State × List Byte × Nat :=
  let r := lineFrom (dirAccess s la false who) la who
  (if marked r.1 la && !marked s la then noteLine r.1 la who else r.1, r.2)

/-- A run of writes of a line by a unit is performed: through the directory, and over the links between the dies (R424, R460). DESIGN CHOICE (log entry 72). -/
def putRun (s : State) (la : Nat) (ms : List (List (Option Byte) × Bool)) (who : Owner) : State × Bool :=
  let w := lineOver (dirAccess s la true who) la ms who
  (if (ms.any (·.2) && !w.2) || (marked w.1 la && !marked s la) then noteLine w.1 la who else w.1, w.2)

/-- Write of a line by any unit: through the directory, or held (R302, R293, R556); `off` is its place in the writer's destination and
`rep` the offset that a failure reports. True: the line failed. -/
def writeLine (s : State) (la : Nat) (bs : List (Option Byte)) (poison : Bool) (who : Owner) (off : Nat := 0) (rep : Nat := 0) :
    State × Bool :=
  match writeWaits s la with
  | some k => ({ s with held := s.held ++ [{ line := la, bytes := bs, poison := poison, who := who, kind := k, off := off, rep := rep }] }, false)
  | none => putRun s la [(bs, poison)] who

/-- Lines that a range touches. -/
def linesOf (a n : Nat) : List Nat := if n = 0 then [] else (List.range ((a + n - 1) / 128 + 1 - a / 128)).map (fun i => 128 * (i + a / 128))

/-- Part of a byte string that falls in a line, as a masked line. -/
def lineSlice (a : Nat) (bs : List Byte) (la : Nat) : List (Option Byte) :=
  (List.range 128).map (fun i => if la + i < a then none else bs[la + i - a]?)

/-- Read a range of stack memory: bytes and the worst outcome of its lines (0 good, 1 poisoned, 2 failed). -/
def memRange (s : State) (a n : Nat) (who : Owner) : State × List Byte × Nat :=
  let r := (linesOf a n).foldl (fun (x : State × List Byte × Nat) la =>
    let y := readLine x.1 la who
    (y.1, x.2.1 ++ y.2.1, max x.2.2 y.2.2)) (s, [], 0)
  (r.1, (r.2.1.drop (a % 128)).take n, r.2.2)

/-- The bytes of a range as stored, to see how far it reaches before it is read. -/
def memPeek (s : State) (a n : Nat) : List Byte := (((linesOf a n).flatMap (lineBytes s)).drop (a % 128)).take n

/-- Write a range of stack memory; the lines that failed. -/
def memStore (s : State) (a : Nat) (bs : List Byte) (poison : Bool) (who : Owner) : State × List Nat :=
  (linesOf a bs.length).foldl (fun (x : State × List Nat) la =>
    let y := writeLine x.1 la (lineSlice a bs la) poison who
    (y.1, if y.2 then x.2 ++ [la] else x.2)) (s, [])

/-- Every stack a range touches serves accesses. -/
def rangeFree (s : State) (a n : Nat) : Bool :=
  s.stackWork.isEmpty || (linesOf a n).all (fun la => stackFree s (stackOf s la))

end Sys2Proof.Machine
end

