-- ==== Sys2Proof/Machine/Control.lean ====
section
/-! DEFINITION. Control space (R13, R91–R96, R99, R111, R112, R115, R123, R133–R138, R267, R278, R306, R331): the registers
that a DE, the fabric, the H-die and the CXL host reach, and the clears and releases that software writes. -/
namespace Sys2Proof.Machine
open Sys2Proof Config

/-! ### Flags and captures (R92–R96) -/

/-- Clear flag bits by writing 1; bits set in the same beat stay (R93). -/
def clearFlags (b : FlagBlk) (v : Nat) (met : BitVec 4) : FlagBlk :=
  { b with flags := (b.flags &&& ~~~(BitVec.ofNat 4 v)) ||| met }

/-- The flags that a capture's word 0 names (R95). -/
def capFlags (w : Word) : Nat := fld w 59 56

/-- An event given as the words of its capture raises its flags; when it raises an armed one and no capture is held it is recorded, with VALID 1
and reserved bits 0 (R95). -/
def meetCap (b : FlagBlk) (ws : List Word) : FlagBlk :=
  let f := capFlags (ws.getD 0 0)
  let b' := { b with flags := b.flags ||| BitVec.ofNat 4 f }
  if Nat.land f b.arm.toNat != 0 && !b.cap0.getLsbD 63 then
    { b' with cap0 := (ws.getD 0 0 &&& 0x0FFFFFFFFFFFFFF0#64) ||| 0x8000000000000000#64,
              cap1 := ws.getD 1 0 &&& 0xFFFFFFFF0000003F#64, capCore := (ws.getD 2 0).toNat % 2 ^ 16 }
  else b'

/-- Release a capture by writing 1 to VALID; an event of the same beat then finds it free (R95). -/
def releaseCap (b : FlagBlk) (v : Nat) (met : Option (List Word)) : FlagBlk :=
  let r := if bitOf v 63 then { b with cap0 := b.cap0 &&& 0x7FFFFFFFFFFFFFFF#64 } else b
  match met with
  | some ws => meetCap r ws
  | none => r

/-- NMU control block of stack `st`. -/
def nmuAt (s : State) (st : Nat) : FlagBlk := tblGet (fun _ => {}) s.nmus st
/-- Change it. -/
def modNmu (s : State) (st : Nat) (f : FlagBlk → FlagBlk) : State := { s with nmus := tblMod (fun _ => {}) s.nmus st f }

/-! ### Closures and power -/

/-- The forme store and SLOT_TABLE are closed while a launch runs or is queued (R112). -/
def closedCore (c : Core) : Bool := c.run.isSome || !c.launchQ.isEmpty

/-- An access to a core's store or control blocks wakes its cluster (R441). -/
def touchCore (s : State) (k : Nat) : State :=
  modDom (dcount s kDomainWakes (b2n ((domAt s (clusterOf k)).st != 2))) (clusterOf k) (fun d => { d with st := 2, idleFrom := timeNs s })

/-- An access to a core's store or control blocks changes the core. -/
def touchMod (s : State) (k : Nat) (f : Core → Core) : State := modCore (touchCore s k) k f

/-! ### The core control block (R99) -/

/-- The CC is held: its WAIT's counter is not taken yet, or the queue of its PUSH still has no room (R126, R129, R138). -/
def ccHeld (c : Core) : Bool :=
  c.blocked && (match c.ccWait with
    | some _ => (match waitOf c .cc with | .held _ => true | _ => false)
    | none => match c.run with
      | none => false
      | some r =>
        match queueCode (bitsOf (formeInsn c (slotBase c r.slot + (0x40 + 4 * r.pc))) 19 17) with
        | some q => queueDepth q ≤ (queueOf c q).length
        | none => false)
/-- CC_STATUS (R138). -/
def ccStatus (c : Core) : Nat :=
  let (st, it) := match c.run with
    | none => (0, c.lastIter)
    | some r => (if r.finished then 2 else 1, r.iter)
  st * 2 ^ 62 + b2n (ccHeld c) * 2 ^ 61 + min c.launchQ.length 7 * 2 ^ 56 + slotOf c * 2 ^ 52 + c.launchSeq % 65536 * 2 ^ 32 + it % 2 ^ 32

/-- NEXT_STATE (R123). -/
def nextState (c : Core) : Nat :=
  (match c.carry with | some v => 2 ^ 39 + v % 2 ^ 32 | none => 0) + (match c.selHeld with | some v => 2 ^ 36 + v * 2 ^ 32 | none => 0)

/-- Word of a forme-log entry (R133). -/
def logWord (c : Core) (i : Nat) : Nat :=
  match c.log[i / 2]? with
  | none => 0
  | some e => if i % 2 = 0 then e.seq % 65536 * 2 ^ 48 + e.slot * 2 ^ 44 + e.source * 2 ^ 40 + e.code * 2 ^ 32 + e.off * 2 ^ 16 else e.iter % 2 ^ 32

/-- Word of the register image (R137). -/
def imageWord (c : Core) (o : Nat) : Nat :=
  if o < 0x100 then (if o / 8 = 0 then 0 else (tblGet (fun _ => 0) c.image.g (o / 8)).toNat)
  else if o < 0x900 then (tblGet (fun _ => 0) c.image.w ((o - 0x100) / 8)).toNat
  else if o = 0x900 then c.image.svl % 16 * 256 + (c.image.p ||| 1).toNat
  else if o < 0x928 then (tblGet (fun _ => 0) c.image.sum ((o - 0x908) / 8)).toNat
  else 0

/-- Word of the numeric block (R91). -/
def numericWord (c : Core) (o : Nat) : Nat :=
  match o with
  | 0x00 => c.ccF.flags.toNat
  | 0x08 => c.meF.flags.toNat
  | 0x10 => c.veF.flags.toNat
  | 0x18 => c.ccF.arm.toNat + c.meF.arm.toNat * 16 + c.veF.arm.toNat * 256
  | 0x20 => c.ccF.cap0.toNat
  | 0x28 => c.ccF.cap1.toNat
  | 0x30 => c.meF.cap0.toNat
  | 0x38 => c.meF.cap1.toNat
  | 0x40 => c.veF.cap0.toNat
  | 0x48 => c.veF.cap1.toNat
  | _ => 0

/-- Read of a word of the core control block. -/
def coreBlkRead (c : Core) (o : Nat) : Nat :=
  if o < 0x10000 then leNat (memRead c.forme o 8)
  else if o = 0x10000 then ccStatus c
  else if o = 0x10008 then c.log.length * 2 ^ 32 + c.dropped
  else if o = 0x10018 then nextState c
  else if 0x10040 ≤ o && o < 0x100C0 then tblGet (fun _ => 0) c.slots ((o - 0x10040) / 8)
  else if 0x10100 ≤ o && o < 0x10150 then numericWord c (o - 0x10100)
  else if 0x10200 ≤ o && o < 0x10600 then logWord c ((o - 0x10200) / 8)
  else if 0x10800 ≤ o && o < 0x11128 then imageWord c (o - 0x10800)
  else if 0x12000 ≤ o && o < 0x12100 then tok c ((o - 0x12000) / 8)
  else 0

/-- Bits of `v` where the mask is 1, else the old ones. -/
def mrg (old v m : Nat) : Nat := Nat.lor (Nat.land old (Nat.xor m (2 ^ 64 - 1))) (Nat.land v m)

/-- Empty the forme log (R135). -/
def logClear (c : Core) (met : Option LogRec) : Core := { c with log := met.toList, dropped := 0 }

/-- Write of a word of the core control block under a bit mask; none when refused (R112). -/
def coreBlkWrite (c : Core) (o v m : Nat) : Option Core :=
  let x := Nat.land v m
  if o < 0x10000 then
    if closedCore c then none
    else some { c with forme := memWrite c.forme o (leBytes 8 (mrg (leNat (memRead c.forme o 8)) v m)) }
  else if 0x10040 ≤ o && o < 0x100C0 then
    if closedCore c then none
    else
      let i := (o - 0x10040) / 8
      let w := mrg (tblGet (fun _ => 0) c.slots i) v m
      some { c with slots := tblSet (fun _ => 0) c.slots i (Nat.land w 0x103FF) }
  else some (match o with
    | 0x10010 => if bitOf x 0 then logClear c none else c
    | 0x10100 => { c with ccF := clearFlags c.ccF x 0 }
    | 0x10108 => { c with meF := clearFlags c.meF x 0 }
    | 0x10110 => { c with veF := clearFlags c.veF x 0 }
    | 0x10118 =>
      let w := mrg (numericWord c 0x18) v m
      { c with ccF := { c.ccF with arm := BitVec.ofNat 4 w }, meF := { c.meF with arm := BitVec.ofNat 4 (w / 16) },
               veF := { c.veF with arm := BitVec.ofNat 4 (w / 256) } }
    | 0x10120 => { c with ccF := releaseCap c.ccF x none }
    | 0x10130 => { c with meF := releaseCap c.meF x none }
    | 0x10140 => { c with veF := releaseCap c.veF x none }
    | _ => c)

/-! ### Core memory, DE, solver-engine and NMU control blocks -/

/-- Set and clear the poison bit of a tile as one register write; a set that meets a clear stands (R277, R278). -/
def poisonWrite (c : Core) (t v : Nat) : Core :=
  if bitOf v 8 then modTile c t (fun x => { x with poison := true })
  else if bitOf v 9 then modTile c t (fun x => { x with poison := false })
  else c

/-- Read of the core memory block (R278). -/
def memBlkRead (c : Core) (o : Nat) : Nat :=
  if o < 0x800 then (if o % 16 = 0 then (tileAt c (o / 16)).crc else b2n (tileAt c (o / 16)).poison)
  else if o = 0x800 then c.amax.toNat else 0

/-- Write of the core memory block. -/
def memBlkWrite (c : Core) (o v m : Nat) : Core :=
  if o < 0x800 then (if o % 16 = 8 then poisonWrite c (o / 16) (Nat.land v m) else c)
  else if o = 0x800 then { c with amax := BitVec.ofNat 64 (mrg c.amax.toNat v m) } else c

/-- DE_STATUS.STATE (R331). -/
def deState (d : De) : Nat := if d.stopped then 2 else if d.job.isSome || d.chain.isSome then 1 else 0

/-- Read of the DE control block (R331). -/
def deBlkRead (d : De) (o : Nat) : Nat :=
  let r := d.rep.getD d.repKeep
  match o with
  | 0x000 => b2n d.stop
  | 0x008 => deState d * 2 ^ 62 + d.last * 2 ^ 32 +
      (match d.job with
        | some j => j.cidx.getD 0
        | none => match d.chain with | some c => if c.entry.isSome then c.count - 1 else 0 | none => 0)
  | 0x010 => b2n d.rep.isSome * 2 ^ 63 + r.status * 2 ^ 48 + r.off % 65536 * 2 ^ 32 + r.iter % 2 ^ 32
  | 0x018 => r.cidx * 2 ^ 32 + min r.failed (2 ^ 32 - 1)
  | 0x020 => r.first
  | _ => 0

/-- Read of an engine's flag block: flags, mask, capture words and core (R267, R306). -/
def flagBlkRead (b : FlagBlk) (o : Nat) : Nat :=
  match o with
  | 0x000 => b.flags.toNat
  | 0x008 => b.arm.toNat
  | 0x010 => b.cap0.toNat
  | 0x018 => b.cap1.toNat
  | 0x020 => b.capCore
  | _ => 0

/-- Write of an engine's flag block. -/
def flagBlkWrite (b : FlagBlk) (o v m : Nat) : FlagBlk :=
  let x := Nat.land v m
  match o with
  | 0x000 => clearFlags b x 0
  | 0x008 => { b with arm := BitVec.ofNat 4 (mrg b.arm.toNat v m) }
  | 0x010 => releaseCap b x none
  | _ => b

/-- SE_STATUS (R267). -/
def seStatus (g : Engine) : Nat :=
  match g.job with
  | some j => 2 ^ 63 + w0Op j.x.w0 * 2 ^ 56 + j.n
  | none => 0

/-! ### The imposition group table (R115, R116) -/

/-- Bits of a member set that name cores. -/
def namedBits (s : State) (v : Nat) : Nat :=
  if s.grade = 2 then (List.range 8).foldl (fun a d => a + (v / 2 ^ (1280 * d) % 2 ^ 1152) * 2 ^ (1280 * d)) 0 else v % 2 ^ 10240

/-- Count of ones (structural in the width). -/
def popGo : Nat → Nat → Nat
  | 0, _ => 0
  | f + 1, v => if v = 0 then 0 else v % 2 + popGo f (v / 2)
/-- Count of members of a set. -/
def popCount (v : Nat) : Nat := popGo 10240 v

/-- MEMBERS of group `g`. -/
def impMembers (s : State) (g : Nat) : Nat := tblGet (fun _ => 0) s.grpMembers g
/-- VALID of group `g`. -/
def impValid (s : State) (g : Nat) : Bool := tblGet (fun _ => false) s.grpValid g

/-- A write of VALID: setting it computes SIZE (R115, R116). -/
def impSetValid (s : State) (g : Nat) (v : Bool) : State :=
  let s1 := { s with grpValid := tblSet (fun _ => false) s.grpValid g v }
  if v then { s1 with grpSize := tblSet (fun _ => 0) s1.grpSize g (popCount (impMembers s g)) } else s1

/-- Read of an imposition group entry. -/
def impRead (s : State) (g o : Nat) : Nat :=
  if o < 0x500 then impMembers s g / 2 ^ (8 * o) % 2 ^ 64
  else if o = 0x500 then b2n (impValid s g)
  else if o = 0x508 then tblGet (fun _ => 0) s.grpSize g
  else 0

/-- Replace a 64-bit word of a number at bit `p`. -/
def putWord (v p w : Nat) : Nat := v - v / 2 ^ p % 2 ^ 64 * 2 ^ p + w * 2 ^ p

/-- Write of an imposition group entry. -/
def impWrite (s : State) (g o v m : Nat) : State :=
  if o < 0x500 then
    if impValid s g then s
    else { s with grpMembers := tblSet (fun _ => 0) s.grpMembers g (namedBits s (putWord (impMembers s g) (8 * o) (mrg (impRead s g o) v m))) }
  else if o = 0x500 then (if bitOf m 0 then impSetValid s g (bitOf v 0) else s)
  else s

/-! ### DE_CONTROL.STOP (R322) -/

/-- A write of STOP: while the DE is at a descriptor boundary a stop takes effect at once; a 0 resumes. -/
def deStopWrite (d : De) (v : Bool) : De :=
  if v then { d with stop := true, stopped := d.stopped || (d.job.isNone && d.chain.isNone) }
  else { d with stop := false, stopped := false }

/-- Write of the DE control block. -/
def deBlkWrite (d : De) (o v m : Nat) : De :=
  let x := Nat.land v m
  match o with
  | 0x000 => if bitOf m 0 then deStopWrite d (bitOf v 0) else d
  | 0x010 => if bitOf x 63 then { d with rep := none, repKeep := d.rep.getD d.repKeep } else d
  | _ => d

/-! ### Windows of control space (R271, R313, R347) -/

/-- A register of the windows that DEs and the fabric reach. -/
inductive CtlLoc where
  | core (k o : Nat) | se (e o : Nat) | mem (k o : Nat) | nmu (st o : Nat) | de (k o : Nat) | imp (g o : Nat) | trans (fd o : Nat)
  deriving DecidableEq, Repr

/-- The register window that holds an address, with the bytes left in it from there (R313). DESIGN CHOICE (log entry 112). -/
def ctlWindow (s : State) (a : Nat) : Option (CtlLoc × Nat) :=
  let perCore := fun (base stride size : Nat) (f : Nat → Nat → CtlLoc) =>
    match keyOf s ((a - base) / stride) with
    | some k => some (f k ((a - base) % stride), size - (a - base) % stride)
    | none => none
  if 0x200000000000 ≤ a && a < 0x200050000000 then perCore 0x200000000000 0x20000 0x20000 .core
  else if 0x210000000000 ≤ a && a < 0x210000040000 then
    if s.grade = 3 then none else some (.se ((a - 0x210000000000) / 4096) (a % 4096), 4096 - a % 4096)
  else if 0x220000000000 ≤ a && a < 0x220002800000 then perCore 0x220000000000 0x1000 0x1000 .mem
  else if 0x230000000000 ≤ a && a < 0x230000010000 then some (.nmu ((a - 0x230000000000) / 4096) (a % 4096), 4096 - a % 4096)
  else if 0x240000000000 ≤ a && a < 0x240002800000 then perCore 0x240000000000 0x1000 0x1000 .de
  else if 0x280000000000 ≤ a && a < 0x280000800000 then some (.imp ((a - 0x280000000000) / 2048) (a % 2048), 2048 - a % 2048)
  else none

/-- Entry `l` of an F-die's copy of the translation table (R348). -/
def transAt (s : State) (fd l : Nat) : Nat := tblGet (fun _ => 0) (if fd = 0 then s.trans0 else s.trans1) l
/-- Write an entry of one copy; reserved bits stay 0. -/
def transPut (s : State) (fd l v : Nat) : State :=
  let w := Nat.land v (2 ^ 63 + (2 ^ 18 - 1))
  if fd = 0 then { s with trans0 := tblSet (fun _ => 0) s.trans0 l w } else { s with trans1 := tblSet (fun _ => 0) s.trans1 l w }

/-- Read of a register. -/
def locRead (s : State) : CtlLoc → Nat
  | .core k o => coreBlkRead (coreAt s k) o
  | .se e o => if o = 0x028 then seStatus (engineAt s e) else flagBlkRead (engineAt s e).f o
  | .mem k o => memBlkRead (coreAt s k) o
  | .nmu st o => flagBlkRead (nmuAt s st) o
  | .de k o => deBlkRead (coreAt s k).de o
  | .imp g o => impRead s g o
  | .trans fd o => transAt s fd (o / 8)

/-- Write of a register under a bit mask: none when the write is refused. -/
def locWrite (s : State) (v m : Nat) : CtlLoc → Option State
  | .core k o => (coreBlkWrite (coreAt s k) o v m).map (putCore s k)
  | .se e o => some (modEngine s e (fun g => { g with f := flagBlkWrite g.f o v m }))
  | .mem k o => some (modCore s k (fun c => memBlkWrite c o v m))
  | .nmu st o => some (modNmu s st (fun b => flagBlkWrite b o v m))
  | .de k o => some (modCore s k (fun c => settle (timeNs s) { c with de := deBlkWrite c.de o v m }))
  | .imp g o => some (impWrite s g o v m)
  | .trans fd o => some (transPut s fd (o / 8) (mrg (transAt s fd (o / 8)) v m))

/-- An access to a core's block wakes its cluster (R441). -/
def locTouch (s : State) : CtlLoc → State
  | .core k _ => touchCore s k
  | .mem k _ => touchCore s k
  | .de k _ => touchCore s k
  | _ => s

/-- The offset meets the forme store or SLOT_TABLE of a closed core (R112). -/
def locClosed (s : State) (n : Nat) : CtlLoc → Bool
  | .core k o => closedCore (coreAt s k) && (o < 0x10000 || (o < 0x100C0 && 0x10040 < o + n))
  | _ => false

/-- The links between a die and that of a register; the imposition group table has none. DESIGN CHOICE (log entry 147). -/
def ctlRoute (a : Nat) : CtlLoc → List Nat
  | .core k _ => dieRoute a (k / 1344)
  | .se e _ => dieRoute a (e / 8)
  | .mem k _ => dieRoute a (k / 1344)
  | .nmu st _ => dieRoute a (st / 2)
  | .de k _ => dieRoute a (k / 1344)
  | .imp _ _ => []
  | .trans fd _ => fabRoute a fd

/-- An access of a unit to a register crosses the links between (R460). -/
def ctlTry (s : State) (who : Owner) (l : CtlLoc) : State × Nat :=
  match ownerDie who with
  | none => (s, 0)
  | some a => routeTry s (ctlRoute a l)

/-- All ones. -/
abbrev ones64 : Nat := 2 ^ 64 - 1

/-! ### Rows -/

/-- LOG_CLEAR: a write of 1 to CLEAR empties the log and zeroes DROPPED; an event of the same instant becomes entry 0 (R135). DEDUCED (log entry 121). -/
def execLogClear (n : Nat) (v : Word) (met : Option LogRec) (s : State) : Host.Outcome State Fault Refusal :=
  whenUp s (match keyOf s n with
    | none => s
    | some k => if v.getLsbD 0 then touchMod s k (fun c => logClear c met) else touchCore s k)

/-- Change the flag block of a unit. -/
def modUnitFlags (s : State) (f : FlagBlk → FlagBlk) : FlagUnit → State
  | .cc n => match keyOf s n with | some k => touchMod s k (fun c => { c with ccF := f c.ccF }) | none => s
  | .me n => match keyOf s n with | some k => touchMod s k (fun c => { c with meF := f c.meF }) | none => s
  | .ve n => match keyOf s n with | some k => touchMod s k (fun c => { c with veF := f c.veF }) | none => s
  | .se e => if s.grade = 3 || 64 ≤ e then s else modEngine s e (fun g => { g with f := f g.f })
  | .nmu st => if st < 16 then modNmu s st f else s
  | .coll n => match keyOf s n with
    | some k => touchMod s k (fun c => { c with coll := { c.coll with flags := (f { flags := c.coll.flags }).flags } })
    | none => s

/-- FLAG_CLEAR_WRITE: software writes 1 to flag bits; a flag set in the same beat stays set (R93). DEDUCED (log entry 121). -/
def execFlagClearWrite (u : FlagUnit) (v : Word) (met : BitVec 4) (s : State) : Host.Outcome State Fault Refusal :=
  whenUp s (modUnitFlags s (fun b => clearFlags b v.toNat met) u)

/-- Release of a report or record whose VALID is its bit 63 (R331, R407). -/
def releaseDe (d : De) (v : Word) (met : Option (List Word)) : De :=
  let r := if v.getLsbD 63 then { d with rep := none, repKeep := d.rep.getD d.repKeep } else d
  match met with
  | some ws => if r.rep.isSome then r else { r with rep := some ⟨fld (ws.getD 0 0) 55 48, fld (ws.getD 0 0) 47 32,
      fld (ws.getD 0 0) 31 0, fld (ws.getD 1 0) 63 32, fld (ws.getD 1 0) 31 0, fld (ws.getD 2 0) 31 0⟩ }
  | none => r

/-- Release of an abort record (R407). -/
def releaseAbort (c : CollCtl) (v : Word) (met : Option (List Word)) : CollCtl :=
  let r := if v.getLsbD 63 then { c with abort := none, keep := c.abort.getD c.keep } else c
  match met with
  | some ws =>
    let w := ws.getD 0 0
    if r.abort.isSome then r
    else { r with abort := some ⟨fld w 47 32, fld w 55 48, fld w 31 0, 0, 0⟩, abortDone := w.getLsbD 62, abortTime := (ws.getD 1 0).toNat }
  | none => r

/-- Release of HDIE_ERROR (R539). -/
def releaseHdie (s : State) (v : Word) (met : Option (List Word)) : State :=
  let r := if v.getLsbD 63 then { s with hdieErr := none, hdieErrKeep := s.hdieErr.getD s.hdieErrKeep } else s
  match met with
  | some ws => if r.hdieErr.isSome then r
    else { r with hdieErr := some (ws.getD 0 0 &&& 0x7FFF000000000000#64).toNat, hdieErrAddr := (ws.getD 1 0).toNat }
  | none => r

/-- CAPTURE_RELEASE: software writes 1 to VALID; an event of the same beat is recorded and VALID stays 1 (R95). DEDUCED (log entry 121). -/
def execCaptureRelease (u : CapUnit) (v : Word) (met : Option (List Word)) (s : State) : Host.Outcome State Fault Refusal :=
  let rel := fun b => releaseCap b v.toNat met
  whenUp s (match u with
    | .cc n => modUnitFlags s rel (.cc n)
    | .me n => modUnitFlags s rel (.me n)
    | .ve n => modUnitFlags s rel (.ve n)
    | .se e => modUnitFlags s rel (.se e)
    | .nmu st => modUnitFlags s rel (.nmu st)
    | .de n => match keyOf s n with | some k => touchMod s k (fun c => { c with de := releaseDe c.de v met }) | none => s
    | .coll n => match keyOf s n with | some k => touchMod s k (fun c => { c with coll := releaseAbort c.coll v met }) | none => s
    | .hdie => releaseHdie s v met)

/-- IMPOSITION_GROUP_VALID_SET: a write of an entry's VALID word (R115, R116). -/
def execImpositionGroupValidSet (g : Nat) (v : Word) (s : State) : Host.Outcome State Fault Refusal :=
  whenUp s (if g < 4096 then impSetValid s g (v.getLsbD 0) else s)

/-- SET_POISON: a write of 1 to SET_POISON of a tile (R277, R278). -/
def execSetPoison (n tile : Nat) (s : State) : Host.Outcome State Fault Refusal :=
  whenUp s (match keyOf s n with
    | some k => if tile < 128 then touchMod s k (fun c => poisonWrite c tile 0x100) else s
    | none => s)

/-- CLEAR_POISON: a write of 1 to CLEAR_POISON; a set that meets it in the same beat stands (R277). DEDUCED (log entry 121). -/
def execClearPoison (n tile : Nat) (met : Bool) (s : State) : Host.Outcome State Fault Refusal :=
  whenUp s (match keyOf s n with
    | some k => if tile < 128 then touchMod s k (fun c => poisonWrite c tile (if met then 0x300 else 0x200)) else s
    | none => s)

/-- DE_STOP: a write of DE_CONTROL (R322). -/
def execDeStop (n : Nat) (v : Word) (s : State) : Host.Outcome State Fault Refusal :=
  whenUp s (match keyOf s n with
    | some k => touchMod s k (fun c => settle (timeNs s) { c with de := deStopWrite c.de (v.getLsbD 0) })
    | none => s)

/-- DE_STOPPED: at a descriptor boundary after a stop request, STATE becomes STOPPED (R322). -/
def execDeStopped (n : Nat) (s : State) : Host.Outcome State Fault Refusal :=
  whenUp s (match keyOf s n with
    | some k => modCore s k (fun c => if c.de.stop && c.de.job.isNone then { c with de := { c.de with stopped := true } } else c)
    | none => s)

end Sys2Proof.Machine
end

