-- ==== Sys2Proof/Machine/Place.lean ====
section
/-! DEFINITION. Places: what an address or core-store offset names (R40, R153, R313, R346, R347), and reads and writes of a
range there as a DE, an NMU, a collective sequencer or a home makes them (R275, R276, R281, R316, R323, R350). -/
namespace Sys2Proof.Machine
open Sys2Proof Config

/-- A place: a core store by physical core, stack memory, a control register, an address that the fabric reaches, or a
package-local one that is refused where it is served. -/
inductive Loc where
  | store (k o : Nat) | stack (a : Nat) | ctl (l : CtlLoc) | remote (a : Nat) | refused (a : Nat)
  deriving DecidableEq, Repr

/-- A register further on in its window. -/
def ctlAdd (i : Nat) : CtlLoc → CtlLoc
  | .core k o => .core k (o + i)
  | .se e o => .se e (o + i)
  | .mem k o => .mem k (o + i)
  | .nmu st o => .nmu st (o + i)
  | .de k o => .de k (o + i)
  | .imp g o => .imp g (o + i)
  | .trans fd o => .trans fd (o + i)

/-- A place further on. -/
def locAdd (i : Nat) : Loc → Loc
  | .store k o => .store k (o + i)
  | .stack a => .stack (a + i)
  | .ctl l => .ctl (ctlAdd i l)
  | .remote a => .remote (a + i)
  | .refused a => .refused (a + i)

/-- Place of a package-local range: none outside the windows of R313. -/
def pkgLoc (s : State) (a n : Nat) : Option Loc :=
  if a < 2 ^ 40 then (if inStack a n then some (.stack a) else none)
  else if 0x100000000000 ≤ a && a < 0x100280000000 then
    match keyOf s ((a - 0x100000000000) / 2 ^ 20) with
    | some k => if a % 2 ^ 20 + n ≤ 0x80000 then some (.store k (a % 2 ^ 20)) else none
    | none => none
  else match ctlWindow s a with
    | some (l, left) => if n ≤ left then some (.ctl l) else none
    | none => none

/-- A range meets a closed forme store or SLOT_TABLE (R112). -/
def closedLoc (s : State) (n : Nat) : Loc → Bool
  | .ctl l => locClosed s n l
  | _ => false

/-- F-die through which a core's units issue: that of its A-die's half of the package (R34). DEDUCED (log entry 73). -/
def fdOfCore (k : Nat) : Nat := k / 1344 / 4

/-- The windows of the package-local map of GZ-9A, by arithmetic (R313). -/
def mapOk (a n : Nat) : Bool :=
  let win := fun (base stride count size : Nat) => decide (base ≤ a ∧ a < base + stride * count ∧ (a - base) % stride + n ≤ size)
  (decide (a < 2 ^ 40) && inStack a n) || win 0x100000000000 0x100000 10240 0x80000 || win 0x200000000000 0x20000 10240 0x20000 ||
  win 0x210000000000 0x1000 64 0x1000 || win 0x220000000000 0x1000 10240 0x1000 || win 0x230000000000 0x1000 16 0x1000 ||
  win 0x240000000000 0x1000 10240 0x1000 || win 0x280000000000 0x800 4096 0x800

/-- A unit of R44: 0 a physical core, 1 a solver engine, 2 an NMU, 3 an F-die, 4 a unit without a window; none when reserved. DEDUCED (log entry 49). -/
def unitKind (die u : Nat) : Option Nat :=
  if u < 0x540 then some 0
  else if 0x600 ≤ u && u < 0x608 then some 1
  else if 0x640 ≤ u && u < 0x642 then some 2
  else if u = 0x700 then some 4
  else if u = 0x7E0 && die < 2 then some 3
  else if u = 0x7F0 && die = 0 then some 4
  else none

/-- A range lies in the window that a unit exposes (R347). -/
def unitWindow (kind o n : Nat) : Bool :=
  match kind with
  | 0 => o + n ≤ 0x80000 || (0x1000000 ≤ o && o + n ≤ 0x1020000)
  | 3 => o + n ≤ 0x20000
  | 4 => false
  | _ => o + n ≤ 0x1000

/-- Place within a unit of this package (R347). -/
def unitLoc (die u kind o : Nat) : Loc :=
  match kind with
  | 0 => if o < 0x80000 then .store (1344 * die + u) o else .ctl (.core (1344 * die + u) (o - 0x1000000))
  | 1 => .ctl (.se (8 * die + u - 0x600) o)
  | 2 => .ctl (.nmu (2 * die + u - 0x640) o)
  | 3 => .ctl (.trans die o)
  | _ => .refused o

/-- Space of a global address. -/
def spaceOf (a : Nat) : Nat := a / 2 ^ 62
/-- Offset of a global address within its package or unit (R346). -/
def offOf (a : Nat) : Nat := match spaceOf a with | 2 => a % 2 ^ 46 | 3 => a % 2 ^ 30 | _ => a % 2 ^ 48
/-- Coordinate of a space 11 address. -/
def coordOf (a : Nat) : Nat := bitsOf a 61 30

/-- A zero field of R346 is not zero, or a reserved unit is named (R44): the descriptor is inconsistent. -/
def addrBad (a : Nat) : Bool :=
  match spaceOf a with
  | 0 => bitsOf a 61 48 != 0
  | 1 => bitsOf a 61 50 != 0
  | 2 => false
  | _ => (unitKind (bitsOf (coordOf a) 13 11) (coordOf a % 2048)).isNone

/-- The address names a solver engine that the fuses of GZ-9S disable (R44). -/
def addrFused (s : State) (a : Nat) : Bool :=
  s.grade == 3 && spaceOf a == 3 && unitKind (bitsOf (coordOf a) 13 11) (coordOf a % 2048) == some 1

/-- An own package address reached through space 01 or 10: served locally as a package-local one (R346). -/
def ownLoc (s : State) (o n : Nat) : Option Loc := if !mapOk o n then none else pkgLoc s o n

/-- Place of a global range as a unit that issues through F-die `fd` reaches it; none is BOUNDS (R313, R346–R349). -/
def globLoc (s : State) (fd a n : Nat) : Option Loc :=
  match spaceOf a with
  | 0 => pkgLoc s a n
  | 1 =>
    if bitsOf a 49 48 = dget s kPackagePosition % 4 then ownLoc s (a % 2 ^ 48) n
    else if mapOk (a % 2 ^ 48) n then some (.remote a) else none
  | 2 =>
    if !mapOk (a % 2 ^ 46) n || 2 ^ 46 < a % 2 ^ 46 + n then none
    else if resolve s fd a = .inl (ownPkg s) then
      (if bitsOf a 61 46 = dget s kOwnLogicalId && dget s kOwnLogicalId != 0xFFFF then ownLoc s (a % 2 ^ 46) n else some (.refused (a % 2 ^ 46)))
    else some (.remote a)
  | _ =>
    let c := coordOf a
    let die := bitsOf c 13 11
    let u := c % 2048
    match unitKind die u with
    | none => none
    | some kd =>
      if !unitWindow kd (a % 2 ^ 30) n then none
      else if c / 2 ^ 14 = ownPkg s then some (unitLoc die u kd (a % 2 ^ 30))
      else some (.remote a)

/-- Place of an operand: a core-store offset when its LOCAL bit is 1, else a global range (R153). -/
def operandLoc (s : State) (k : Nat) (loc : Bool) (a n : Nat) : Option Loc :=
  if loc then (if a + n ≤ 0x80000 then some (.store k a) else none) else globLoc s (fdOfCore k) a n

/-! ### Units and segments -/

/-- The aligned units of `u` bytes that a range touches, clipped: start and length. -/
def unitsOf (u a n : Nat) : List (Nat × Nat) :=
  if n = 0 then []
  else (List.range ((a + n - 1) / u + 1 - a / u)).map (fun i =>
    let b := u * (i + a / u)
    (max a b, min (a + n) (b + u) - max a b))

/-- Tiles that a command has verified (128·core + tile) with their conditions (R276). -/
abbrev Seen : Type := List (Nat × Nat)

/-- Verify a tile at a command's first read of it (R276). -/
def verifyOnce (s : State) (seen : Seen) (k t : Nat) : State × Seen × Nat :=
  match seen.find? (fun x => x.1 == 128 * k + t) with
  | some x => (s, seen, x.2)
  | none => let r := verifyTile s k t; (r.1, (128 * k + t, r.2) :: seen, r.2)

/-- Read of one unit of a local place, by a command that has verified the tiles `seen`; an access to a core store wakes its cluster (R441). -/
def readUnit (s : State) (seen : Seen) (who : Owner) (off : Nat) (n : Nat) : Loc → State × Seen × Seg
  | .store k o =>
    let r := verifyOnce (touchCore s k) seen k (o / 4096)
    let p := dieTry r.1 who (k / 1344)
    (p.1, r.2.1, ⟨off, storeRead (coreAt r.1 k) o n,
      if p.2 != 0 then 2 else if r.2.2 = stChecksum then 3 else if r.2.2 = stPoison then 1 else 0⟩)
  | .stack a =>
    let r := readLine s (a / 128 * 128) who
    (r.1, seen, ⟨off, (r.2.1.drop (a % 128)).take n, r.2.2⟩)
  | .ctl l =>
    let p := ctlTry (locTouch s l) who l
    (p.1, seen, ⟨off, (leBytes 8 (locRead p.1 l)).take n, if p.2 = 0 then 0 else 2⟩)
  | .remote _ => (s, seen, ⟨off, List.replicate n 0, 2⟩)
  | .refused _ => (s, seen, ⟨off, List.replicate n 0, 2⟩)

/-- Bytes of the units in which a place is read: tiles, lines, registers. -/
def readU : Loc → Nat
  | .store _ _ => 4096
  | .ctl _ => 8
  | _ => 128

/-- Address of a place for unit alignment. -/
def locAddr : Loc → Nat
  | .store _ o => o
  | .stack a => a
  | .remote a => a
  | .refused a => a
  | .ctl _ => 0

/-- Read a range of a local place for a command that has verified the tiles `seen`: its segments in order. DEDUCED (log entry 52). -/
def readSeen (s : State) (seen : Seen) (who : Owner) (l : Loc) (base n : Nat) : State × Seen × List Seg :=
  (unitsOf (readU l) (locAddr l) n).foldl (fun (x : State × Seen × List Seg) u =>
    let i := u.1 - locAddr l
    let r := readUnit x.1 x.2.1 who (base + i) u.2 (locAdd i l)
    (r.1, r.2.1, x.2.2 ++ [r.2.2])) (s, seen, [])

/-- Read a range of a local place: its segments in order. -/
def readLocal (s : State) (who : Owner) (l : Loc) (base n : Nat) : State × List Seg :=
  let r := readSeen s [] who l base n
  (r.1, r.2.2)

/-- A byte on its way: absent where its line failed; true where it is poisoned or of a failing tile. -/
abbrev FB := Option (Byte × Bool)

/-- Insert a segment by its offset. -/
def insSeg (g : Seg) : List Seg → List Seg
  | [] => [g]
  | h :: t => if g.off < h.off then g :: h :: t else h :: insSeg g t

/-- The bytes of segments in order of offset, absent where none or a failed one covers them. -/
def flatGo : Nat → Nat → List Seg → List FB
  | len, pos, [] => List.replicate (len - pos) none
  | len, pos, g :: t =>
    List.replicate (g.off - pos) none ++
    g.bytes.map (fun b => if g.st = 2 then none else some (b, g.st != 0)) ++ flatGo len (g.off + g.bytes.length) t

/-- The bytes of a range of `n`. -/
def flatten (n : Nat) (gs : List Seg) : List FB := flatGo n 0 (gs.foldl (fun a g => insSeg g a) [])

/-! ### Writes -/

/-- Runs of present bytes: start and bytes; the run under way is kept reversed. -/
def runsGo : Nat → List FB → Option (Nat × List Byte) → List (Nat × List Byte) → List (Nat × List Byte)
  | _, [], cur, acc => ((cur.map (fun r => (r.1, r.2.reverse))).toList ++ acc).reverse
  | p, none :: t, cur, acc => runsGo (p + 1) t none ((cur.map (fun r => (r.1, r.2.reverse))).toList ++ acc)
  | p, some (b, _) :: t, some (q, bs), acc => runsGo (p + 1) t (some (q, b :: bs)) acc
  | p, some (b, _) :: t, none, acc => runsGo (p + 1) t (some (p, [b])) acc

/-- Runs of present bytes: start and bytes, in order. -/
def runs (bs : List FB) : List (Nat × List Byte) := runsGo 0 bs none []

/-- The part of a byte string that lies in a line. -/
def fbLine (a : Nat) (bs : List FB) (la : Nat) : List FB :=
  ((List.replicate (a - la) none ++ bs.drop (la - a)).take 128)

/-- The byte, if present. -/
def fbByte : FB → Option Byte
  | some (b, _) => some b
  | none => none

/-- Pad a masked line to 128 bytes. -/
def padLine (bs : List FB) : List (Option Byte) := (bs.map fbByte ++ List.replicate (128 - bs.length) none).take 128

/-- Any byte present. -/
def anyFB (bs : List FB) : Bool := bs.any Option.isSome
/-- Any byte poisoned. -/
def badFB (bs : List FB) : Bool := bs.any (fun b => match b with | some (_, true) => true | _ => false)

/-- Bytes present. -/
def presentFB (bs : List FB) : Nat := (bs.filter Option.isSome).length

/-- The offsets of the lines, from address `a`, in which some byte is to be written. -/
def unitsWith (a base : Nat) (bs : List FB) : List Nat :=
  ((linesOf a bs.length).filter (fun la => anyFB (fbLine a bs la))).map (fun la => base + (max a la - a))

/-- Outcome of writes: state, offsets of failed lines, and bytes written. -/
structure WOut where
  s : State
  failed : List Nat := []
  written : Nat := 0

/-- Write of bytes to a local place, at offset `base` of its range; `forced` poisons stack lines (R468), and `rep` gives the offset
that a failure at an offset reports; an access to a core store wakes its cluster (R441). -/
def writeLocal (s : State) (who : Owner) (l : Loc) (base : Nat) (bs : List FB) (forced : Bool) (rep : Nat → Nat := id) : WOut :=
  match l with
  | .store k o =>
    let p := dieTry (touchCore s k) who (k / 1344)
    match p.2 with
    | 0 => ⟨(runs bs).foldl (fun s r => modCore s k (fun c => storeWrite c (o + r.1) r.2)) p.1, [], presentFB bs⟩
    | e => ⟨if e = 1 then modCore p.1 k (fun c => setPoison c ((runs bs).flatMap (fun r => tilesOf (o + r.1) r.2.length))) else p.1,
        unitsWith o base bs, 0⟩
  | .stack a =>
    (linesOf a bs.length).foldl (fun (w : WOut) la =>
      let fb := fbLine a bs la
      if !anyFB fb then w
      else
        let p := forced || badFB fb
        let off := base + (la - a)
        let r := writeLine w.s la (padLine fb) p who off (rep off)
        ⟨r.1, if r.2 then w.failed ++ [off] else w.failed, w.written + if r.2 then 0 else presentFB fb⟩) { s := s }
  | .ctl q =>
    (List.range (cdiv bs.length 8)).foldl (fun (w : WOut) i =>
      let ws := (bs.drop (8 * i)).take 8
      if !anyFB ws then w
      else
        let v := leNat (ws.map (fun b => (fbByte b).getD 0))
        let m := leNat (ws.map (fun b => if b.isSome then BitVec.ofNat 8 255 else 0))
        let l' := ctlAdd (8 * i) q
        let p := ctlTry (locTouch w.s l') who l'
        match if p.2 = 0 then locWrite p.1 v m l' else none with
        | some s' => { w with s := s', written := w.written + presentFB ws }
        | none => { w with s := p.1, failed := w.failed ++ [base + 8 * i] }) { s := s }
  | .remote _ => { s := s }
  | .refused a => ⟨s, unitsWith a base bs, 0⟩

/-- Mask bytes of a WRITE_MASK flit (R343). -/
def maskBytes (bs : List (Option Byte)) : List Byte :=
  leBytes 16 ((List.range 128).foldl (fun a i => if ((bs[i]?).getD none).isSome then a + 2 ^ i else a) 0)

/-- Issue the fabric writes of bytes at global address `a`: offsets of lines that failed at once (R317, R354). -/
def writeRemote (s : State) (fd : Nat) (a base : Nat) (bs : List FB) (forced : Bool) (who : Nat → ReqOwner) : WOut :=
  (linesOf a bs.length).foldl (fun (w : WOut) la =>
    let fb := fbLine a bs la
    if !anyFB fb then w
    else
      let ln := padLine fb
      let data := ln.map (·.getD 0)
      let off := base + (la - a)
      let r := if ln.all Option.isSome then issue w.s fd fkWrite la (forced || badFB fb) data (who off)
        else issue w.s fd fkWriteMask la (forced || badFB fb) (data ++ maskBytes ln) (who off)
      ⟨r.1, if r.2 = 0 then w.failed else w.failed ++ [off], w.written + if r.2 = 0 then presentFB fb else 0⟩) { s := s }

end Sys2Proof.Machine
end

