-- ==== Sys2Proof/Machine/VeOps.lean ====
section
/-! DEFINITION. The vector engine's shared machinery (chapter 06): fields, checks, element operations, masks, summaries,
tables and the online softmax. -/
namespace Sys2Proof.Machine
open Sys2Proof Config

/-- Fields of a VQ command (R156). -/
structure VeF where
  op : Nat
  s : NumFmt
  d : NumFmt
  rm : Nat
  amax : Bool
  sreg : Nat
  skind : Nat
  gal : Bool
  bsc : Bool
  cnt : Nat
  row : Nat
  sub : Nat
  men : Bool
  mreg : Nat
  aA : Nat
  bA : Nat
  dA : Nat
  imm : Nat
  deriving DecidableEq, Repr

/-- A descriptor field that an opcode does not use stands as FP64. -/
def noFmt : NumFmt := ⟨.fp64, false, 32, false⟩

/-- Opcodes whose NUMFMT_S must be 0 (VLUTLOAD) and whose NUMFMT_D must be 0 (R208). -/
def veNoS (op : Nat) : Bool := op == 0x0E
/-- NUMFMT_D must be 0 for VLUTLOAD, VSMACC and VCMP. -/
def veNoD (op : Nat) : Bool := op == 0x0E || op == 0x0F || op == 0x12

/-- Read the fields; none when a descriptor is inconsistent. -/
def veFields (st : State) (x : Cmd) : Option VeF :=
  let op := w0Op x.w0
  let fs := if veNoS op then (if fld x.w0 27 20 = 0 then some noFmt else none) else numFmt st false (fld x.w0 27 20)
  let fd := if veNoD op then (if fld x.w0 19 12 = 0 then some noFmt else none) else numFmt st true (fld x.w0 19 12)
  match fs, fd with
  | some a, some d =>
    some ⟨op, a, d, fld x.w0 11 9, x.w0.getLsbD 8, fld x.w0 7 6, fld x.w0 5 4, x.w0.getLsbD 3, x.w0.getLsbD 2,
      fld x.w1 63 32, fld x.w1 31 16, fld x.w1 15 12, x.w1.getLsbD 11, fld x.w1 10 8, fld x.w2 63 45, fld x.w2 44 26,
      fld x.w2 25 7, x.w3.toNat⟩
  | _, _ => none

/-- Formats called "float" in R208. -/
def isFloat (f : NumFmt) : Bool := !f.sc && (fmtWide f.fmt || f.fmt == .e4m3 || f.fmt == .e5m2)

/-- FX72 and FX192, which no command but an SQ command names (R55). -/
def fmtFx (f : NumFmt) : Bool := f.fmt == .fx72 || f.fmt == .fx192

/-- Formats an opcode accepts (R208). -/
def veFmtOk (x : Cmd) (f : VeF) : Bool :=
  let same := fld x.w0 27 20 == fld x.w0 19 12
  if fmtFx f.s || fmtFx f.d then false
  else if f.op ≤ 0x0B || f.op = 0x0D || f.op = 0x10 then isFloat f.s && isFloat f.d
  else if f.op = 0x0C then !(f.s.sc && f.d.sc)
  else if f.op = 0x12 || f.op = 0x0F then isFloat f.s
  else if f.op = 0x11 then isFloat f.s && !f.d.sc && fmtWide f.d.fmt
  else if f.op = 0x0E then true
  else if f.op = 0x17 then !f.s.sc && same
  else !f.s.sc && 8 ≤ nfW f.s && same

/-- Opcodes with a second source in NUMFMT_S: VADD to VMAX without VCLAMP, and VCMP. -/
def veHasB (op : Nat) : Bool := (1 ≤ op && op ≤ 7) || op == 0x12
/-- VPERM, VGATHER, VSCATTER. -/
def veIndexed (op : Nat) : Bool := op == 0x14 || op == 0x15 || op == 0x16
/-- VSMACC and VSNORM. -/
def veSoft (op : Nat) : Bool := op == 0x0F || op == 0x10

/-- Bits of IMM that an opcode names (R157). -/
def veImmOk (f : VeF) : Bool :=
  if veHasB f.op then (if f.bsc then f.imm < 2 ^ nfW f.s else f.imm == 0)
  else if f.op = 8 then f.imm < 2 ^ nfW f.s
  else if f.op = 0x0D then f.imm < 2 ^ 23 && bitsOf f.imm 19 19 == 0 && f.imm % 64 == 0
  else if f.op = 0x0E then f.imm < 2 ^ 23 && f.imm % 2 ^ 20 == 0
  else if veSoft f.op then f.imm < 2 ^ 19 && f.imm % 64 == 0
  else f.imm == 0

/-- Rows of a row-wise command. -/
def veRows (f : VeF) : Nat := if f.row = 0 then 1 else f.cnt / f.row

/-- The range of A in the core store; the galley and VGATHER's indexed source are not fixed ranges. -/
def veA (f : VeF) : List (Nat × Nat) :=
  if f.gal || f.op = 0x15 then []
  else if f.op = 0x0E then (if f.cnt = 0 then [] else [(f.aA, 256 + 4 * f.cnt)])
  else [(f.aA, nfBytes f.s f.cnt)]

/-- The range of B: a vector in NUMFMT_S, or 32-bit indices. -/
def veB (f : VeF) : List (Nat × Nat) :=
  if (veHasB f.op && !f.bsc) || f.op = 0x13 then [(f.bA, nfBytes f.s f.cnt)]
  else if veIndexed f.op then [(f.bA, 4 * f.cnt)]
  else []

/-- The range of D; VSCATTER's indexed destination is not fixed. -/
def veD (f : VeF) : List (Nat × Nat) :=
  if f.op = 0x12 || f.op = 0x0E || f.op = 0x0F || f.op = 0x16 then []
  else if f.op = 0x11 then [(f.dA, nfBytes f.d (veRows f))]
  else [(f.dA, nfBytes f.d f.cnt)]

/-- Scale arrays of VCVT: of its source and of its destination (R215). -/
def veScS (f : VeF) : List (Nat × Nat) := if f.op = 0x0C && f.s.sc then [(f.bA, cdiv f.cnt f.s.blk)] else []
/-- The scale array of a scaled destination. -/
def veScD (f : VeF) : List (Nat × Nat) := if f.op = 0x0C && f.d.sc then [(f.bA, cdiv f.cnt f.d.blk)] else []
/-- Softmax state records. -/
def veState (f : VeF) : List (Nat × Nat) := if veSoft f.op then [(f.imm, 32 * veRows f)] else []

/-- Regions read, and regions written. -/
def veReads (f : VeF) : List (Nat × Nat) := veA f ++ veB f ++ veScS f ++ (if f.op = 0x10 then veState f else [])
/-- Regions written. -/
def veWrites (f : VeF) : List (Nat × Nat) := veD f ++ veScD f ++ (if f.op = 0x0F then veState f else [])

/-- An overlap that R207 does not allow between D and the region of A or B. DEDUCED (log entry 150). -/
def veBadPair (f : VeF) (d r : Nat × Nat) : Bool :=
  ovl d r && !(!veIndexed f.op && !veSoft f.op && d.1 == r.1 && nfW f.s == nfW f.d)

/-- Overlaps among the fixed regions (R207): D may coincide with A or B, and nothing written may meet anything else. -/
def veOverlap (f : VeF) : Bool :=
  let other := veScS f ++ (if f.op = 0x10 then veState f else [])
  f.cnt != 0 && ((veD f).any (fun d => (veA f ++ veB f).any (veBadPair f d) || (other ++ veScD f).any (ovl d)) ||
    (veScD f ++ (if f.op = 0x0F then veState f else [])).any (fun w => (veA f ++ veB f ++ other).any (ovl w)))

/-- The mask conditions of R212. -/
def veMaskBad (f : VeF) : Bool :=
  ((f.men || f.op == 0x12 || f.op == 0x13) && 4096 < f.cnt) || (f.op == 0x13 && !f.men) || (f.op == 0x12 && f.men)

/-- The bound of VCLAMP is negative or NaN (R211). -/
def clampBad (fl : Bool) (f : VeF) : Bool :=
  f.op == 8 && (let v := fread fl f.s.fmt f.imm; isNan v || (signOf v && !isZero v))

/-- The SUB of an opcode that gives it a meaning (R157). -/
def veSubOk (f : VeF) : Bool := if f.op = 0x11 then f.sub ≤ 3 else if f.op = 0x12 then f.sub ≤ 6 else f.sub == 0

/-- SKIPPED_ILLEGAL conditions on fields and fixed extents (R156, R157, R166, R206–R212, R223). DEDUCED (log entry 27). -/
def veIllegal (fl : Bool) (c : Core) (x : Cmd) (f : VeF) : Bool :=
  0x18 ≤ f.op || fld x.w0 1 0 != 0 || fld x.w1 7 0 != 0 || fld x.w2 6 0 != 0 || !rmOk f.rm || !veSubOk f ||
  !veFmtOk x f || [f.aA, f.bA, f.dA].any (fun a => a % 64 != 0) ||
  (f.amax && (f.op != 0x0C || f.skind != 0)) ||
  (f.gal && (f.aA != 0 || f.s.sc || f.op == 0x0E || veIndexed f.op || f.op == 0x0F)) ||
  (f.bsc && (!veHasB f.op || f.bA != 0)) || !veImmOk f ||
  (if veSoft f.op then f.row == 0 || f.cnt % f.row != 0
   else if f.op = 0x11 then f.row != 0 && f.cnt % f.row != 0 else f.row != 0) ||
  (f.skind != 0 && (f.op == 0x12 || f.op == 0x0F || f.op == 0x0E || f.op == 0x16)) ||
  veMaskBad f || clampBad fl f ||
  (f.op == 0x0C && !f.s.sc && !f.d.sc && f.bA != 0) ||
  (f.op == 0x12 && f.dA != 0) || (f.op == 0x0F && f.dA != 0) ||
  (f.op == 0x0E && (f.bA != 0 || f.dA != 0 || 8192 < f.cnt)) ||
  (f.op == 0x0D && c.lut.tag != some (f.imm % 2 ^ 19, bitsOf f.imm 22 20 + 1)) || veOverlap f

/-- BOUNDS on the fixed extents (R206). -/
def veBounds (f : VeF) : Bool := f.cnt != 0 && (veReads f ++ veWrites f).any (fun r => !inStore r.1 r.2)

/-! ### Elements -/

/-- A mask register (R202). -/
def maskOf (c : Core) (m : Nat) : Nat := tblGet (fun _ => 0) c.masks m

/-- Element `i` takes part in the command (R213). -/
def active (c : Core) (f : VeF) (i : Nat) : Bool := !f.men || bitOf (maskOf c f.mreg) i

/-- A rounded result of one element into NUMFMT_D. -/
abbrev ElemOp := Fmt → Rm → Bool → Ovf → FVal → FVal → FVal → Nat × Flags

/-- A value rounded into NUMFMT_D. -/
def enc : Fmt → Rm → Bool → Ovf → FVal → Nat × Flags := fencode

/-- Binary element operations (R209). -/
def eAdd : ElemOp := fun g rm fl o a b _ => sumRound g rm fl o [.val a, .val b]
/-- A − B. -/
def eSub : ElemOp := fun g rm fl o a b _ => sumRound g rm fl o [.val a, .val (fnegV b)]
/-- A × B. -/
def eMul : ElemOp := fun g rm fl o a b _ =>
  match mulRes a b with
  | .nan q => (fqnan g, if q then flInv else noFlags)
  | .invalid => (fqnan g, flInv)
  | .inf n => enc g rm fl o (.inf n)
  | .fin n m e => enc g rm fl o (.fin n m e)
/-- A / B. -/
def eDiv : ElemOp := fun g rm fl o a b _ => fdivRound g rm fl o a b
/-- A × B + D. -/
def eFma : ElemOp := fun g rm fl o a b d =>
  if isNan a || isNan b || isNan d then (fqnan g, if isSnan a || isSnan b || isSnan d then flInv else noFlags)
  else sumRound g rm fl o [.prod a b, .val d]
/-- Minimum. -/
def eMin : ElemOp := fun g rm fl o a b _ => enc g rm fl o (fminmax false a b)
/-- Maximum. -/
def eMax : ElemOp := fun g rm fl o a b _ => enc g rm fl o (fminmax true a b)
/-- Square root. -/
def eSqrt : ElemOp := fun g rm fl o a _ _ => fsqrtRound g rm fl o a
/-- A limited to ±B (R211). -/
def eClamp : ElemOp := fun g rm fl o a b _ =>
  if isNan a then enc g rm fl o a
  else if fltV (fabsV b) (fabsV a) then enc g rm fl o (if signOf a then fnegV (fabsV b) else fabsV b)
  else enc g rm fl o a
/-- A converted, with the sign then set by `f` unless the result is NaN (R209). -/
def eSign (f : Bool → Bool) : ElemOp := fun g rm fl o a _ _ =>
  let r := enc g rm fl o a
  if isNan (fdecode g r.1) then r
  else
    let h := 2 ^ (fmtWidth g - 1)
    (r.1 % h + b2n (f (decide (h ≤ r.1))) * h, r.2)

/-- Sign operations on encodings of one format (R59, R209). -/
def signEnc (f : Bool → Bool) (g : Fmt) (b : Nat) : Nat :=
  let h := 2 ^ (fmtWidth g - 1)
  b % h + b2n (f (decide (h ≤ b))) * h

/-- One element of the result: its index, and encoding with flags (none: left unchanged). -/
abbrev Elem := Nat × Option (Nat × Flags)

/-- Flag events of elements (R232). -/
def veEvents (es : List Elem) : List FlagEv :=
  es.filterMap (fun e =>
    match e.2 with
    | some (_, fl) => if fl = noFlags then none
        else some ⟨e.1 / 2 ^ 20 % 2 ^ 16, e.1 / 16 % 2 ^ 16, e.1 % 16, elemFlags fl⟩
    | none => none)

/-- The bytes of D after its elements are written; elements left out keep their encodings (R213). -/
def mergeD (c : Core) (f : VeF) (es : List Elem) : List Byte :=
  let n := es.length
  let old := if es.all (fun e => e.2.isSome) then [] else getElems (nfW f.d) n (storeRead c f.dA (nfBytes f.d n))
  packElems (nfW f.d) (es.map (fun e => match e.2 with | some r => r.1 | none => old.getD e.1 0))

/-- Summary of the written values (R219). DEDUCED (log entry 30). -/
def summary (fl : Bool) (kind : Nat) (vs : List FVal) : Nat :=
  if vs.any isNan then fqnan .fp64
  else match kind with
    | 1 => (fencode .fp64 .rne fl .ieee (vs.foldl (fun a v => fmaxV a (fabsV v)) (.fin false 0 0))).1
    | 2 => if vs.isEmpty then 0 else (sumRound .fp64 .rne fl .ieee (vs.map .val)).1
    | _ => match vs with
      | [] => finfBits .fp64 false
      | v :: t => (fencode .fp64 .rne fl .ieee (t.foldl fminV v)).1

/-- The amax tap: max(|old|, a) (R216). -/
def amaxTap (old : Word) (vs : List FVal) : Nat :=
  let a := maxMag vs
  let o := fdecode .fp64 old.toNat
  (fencode .fp64 .rne false .ieee (if isNan o then a else fmaxV (fabsV o) a)).1

/-- What a VE command delivers: state after its reads, elements of D, writes to other regions, values summarised,
condition, and tiles to poison on a bad condition. -/
structure VeOut where
  elems : List Elem
  vals : List FVal
  extra : List (Nat × List Byte) := []
  deriving DecidableEq, Repr

/-- End a VE command. -/
def veEnd (k : Nat) (s : State) (x : Cmd) (st : Nat) : State :=
  retire (modCore s k (fun c => { c with veJob := none })) k 2 x st

/-- Write a sum register. -/
def putSum (s : State) (k i v : Nat) : State :=
  modCore s k (fun c => { c with regs := sumSet c.regs i (BitVec.ofNat 64 v) })

/-- Condition of galley slots consumed: a slot failing its CRC-64 is an error of the core (R230, R462). -/
def slotCond (s : State) (k : Nat) (sl : List GSlot) : State × Nat :=
  sl.foldl (fun (p : State × Nat) g =>
    if crc64 g.bytes = g.crc then (p.1, if g.poison then worse p.2 stPoison else p.2)
    else (detect p.1 5 (unitCoord s (k / 1344) (k % 1344)) (windowAddr (logicalOf s k) 0) (.core k), worse p.2 stChecksum)) (s, stOk)

/-- Source encodings of A: from the core store or the galley slots. -/
def srcA (c : Core) (f : VeF) (sl : List GSlot) : List Nat :=
  let n := nfBytes f.s f.cnt
  getElems (nfW f.s) f.cnt (if f.gal then (sl.flatMap (·.bytes)).take n else storeRead c f.aA n)

/-- The mask bits of VCMP elements. -/
def maskBits (es : List Elem) : Nat := es.foldl (fun a e => a + (match e.2 with | some r => r.1 * 2 ^ e.1 | none => 0)) 0

/-- Elements in one strip: those of the widest format that the command reads or writes, its indices included (R203). DESIGN CHOICE (log entry 125). -/
def veStrip (f : VeF) : Nat :=
  let w := max (max (if veNoS f.op then 32 else nfW f.s) (if veNoD f.op then 8 else nfW f.d)) (if veIndexed f.op then 32 else 8)
  4096 / max 8 w

/-- The strips of a command have passed: vl holds the length of the last, and what v0–v31 hold is open (R202, R203). -/
def veStrips (c : Core) (f : VeF) : Core :=
  let n := veStrip f
  if f.cnt = 0 then c else { c with vl := BitVec.ofNat 13 (if f.cnt % n = 0 then n else f.cnt % n), vcmds := c.vcmds + 1 }

/-- Vector register `i` of physical core `k`: zero until the first command, then whatever its strips left (R202). DESIGN CHOICE (log entry 125). -/
def vreg (s : State) (k i : Nat) : BitVec 4096 := if (coreAt s k).vcmds = 0 then 0 else freeVreg k (coreAt s k).vcmds i

/-- Deliver an executed command: flags, D, other regions, sum register, poison and status (R176, R219, R220, R230). On a bad condition a
VSMACC poisons every tile of its state range, a VSCATTER the tiles of the elements that it wrote, and a VCVT to a scaled format those of the scale array that it writes too. DESIGN CHOICE (log entry 131). -/
def veDeliver (k : Nat) (s : State) (x : Cmd) (f : VeF) (cond : Nat) (o : VeOut) : State :=
  let c := coreAt s k
  let s1 := coreFlags (modCore s k (fun c => veStrips c f)) k 2 x.off x.iter (veEvents o.elems)
  let s1 := if f.op = 0x12 then modCore s1 k (fun c => { c with masks := tblSet (fun _ => 0) c.masks f.mreg (maskBits o.elems) }) else s1
  let s2 := if (veD f).isEmpty then s1 else cmdWrite s1 k 2 f.dA (mergeD c f o.elems)
  let s3 := o.extra.foldl (fun s w => cmdWrite s k 2 w.1 w.2) s2
  let writes := veD f ++ veScD f ++ (if f.op = 0x0F then veState f else []) ++
    (if f.op = 0x16 then o.extra.map (fun w => (w.1, w.2.length)) else [])
  let s4 := if cond = 0 then s3 else poisonTiles s3 k 2 (tilesOfRanges writes)
  let cond2 := if writes.isEmpty then cond else internalCond s4 k cond
  let s5 :=
    if f.skind != 0 || f.amax then
      putSum s4 k f.sreg
        (if cond2 != 0 then fqnan .fp64
         else if f.amax then amaxTap (sumGet c.regs f.sreg) o.vals
         else summary (flushOn s) f.skind o.vals)
    else s4
  veEnd k s5 x cond2

/-- Values written to D as the summary reads them, subnormals flushed where the setting flushes inputs (R75, R219). -/
def outVals (fl : Bool) (f : VeF) (es : List Elem) : List FVal :=
  es.filterMap (fun e => e.2.map (fun r => elemVal fl f.d.fmt r.1))

/-! ### The element-wise opcodes -/

/-- An element-wise command over A, B (vector or scalar) and D (for VFMA). -/
def elementwise (op : ElemOp) (fs : State) (c : Core) (f : VeF) (sl : List GSlot) : VeOut :=
  let fl := flushOn fs
  let as_ := srcA c f sl
  let bs := if f.op = 8 || f.bsc then [] else if veHasB f.op then getElems (nfW f.s) f.cnt (storeRead c f.bA (nfBytes f.s f.cnt)) else []
  let ds := if f.op = 5 then getElems (nfW f.d) f.cnt (storeRead c f.dA (nfBytes f.d f.cnt)) else []
  let es : List Elem := (idx as_).map (fun p =>
    (p.1, if active c f p.1 then
        let b := if f.op = 8 || f.bsc then f.imm else bs.getD p.1 0
        some (op f.d.fmt (rmOf fs f.rm) fl (ovfOf f.d.fmt f.d.nonsat) (fread fl f.s.fmt p.2) (fread fl f.s.fmt b)
          (fread fl f.d.fmt (ds.getD p.1 0)))
      else none))
  ⟨es, outVals (flushOn fs) f es, []⟩

/-- VABS and VNEG: bit operations within one format, conversions between formats (R209). -/
def signOp (g : Bool → Bool) (fs : State) (c : Core) (f : VeF) (sl : List GSlot) : VeOut :=
  if f.s.fmt == f.d.fmt && !f.d.nonsat then
    let es : List Elem := (idx (srcA c f sl)).map (fun p => (p.1, if active c f p.1 then some (signEnc g f.s.fmt p.2, noFlags) else none))
    ⟨es, outVals (flushOn fs) f es, []⟩
  else elementwise (eSign g) fs c f sl

/-- VCOPY and other moves of encodings. -/
def moveOut (fs : State) (c : Core) (f : VeF) (xs : List Nat) : VeOut :=
  let es : List Elem := (idx xs).map (fun p => (p.1, if active c f p.1 then some (p.2, noFlags) else none))
  ⟨es, outVals (flushOn fs) f es, []⟩

/-- VSEL: every element of D from A or B by the mask (R213). -/
def selOut (fs : State) (c : Core) (f : VeF) (sl : List GSlot) : VeOut :=
  let bs := getElems (nfW f.s) f.cnt (storeRead c f.bA (nfBytes f.s f.cnt))
  let es : List Elem := (idx (srcA c f sl)).map (fun p =>
    (p.1, some (if bitOf (maskOf c f.mreg) p.1 then p.2 else bs.getD p.1 0, noFlags)))
  ⟨es, outVals (flushOn fs) f es, []⟩

/-- VCVT (R215, R216): values by source scale, destination scales chosen per block. -/
def cvtOut (fs : State) (c : Core) (f : VeF) (sl : List GSlot) : VeOut :=
  let fl := flushOn fs
  let rm := rmOf fs f.rm
  let vs := readVals fl f.s (srcA c f sl) (if f.s.sc then storeRead c f.bA (cdiv f.cnt f.s.blk) else [])
  let act := (idx vs).filter (fun p => active c f p.1)
  if f.d.sc then
    let nb := cdiv f.cnt f.d.blk
    let old := storeRead c f.bA nb
    let scales := (List.range nb).map (fun b =>
      let blk := (act.filter (fun p => p.1 / f.d.blk == b)).map (·.2)
      (b, blk, if blk.isEmpty then (old.getD b 0).toNat else blockScale f.d.fmt blk))
    let es : List Elem := (idx vs).map (fun p =>
      (p.1, if active c f p.1 then
          (scales[p.1 / f.d.blk]?).map (fun q => scaledElem f.d rm q.2.1 q.2.2 p.2)
        else none))
    let out := es.filterMap (fun e => e.2.map (fun r =>
      scaledVal (elemVal fl f.d.fmt r.1) (((scales[e.1 / f.d.blk]?).map (·.2.2)).getD 0)))
    ⟨es, if f.amax then act.map (·.2) else out, [(f.bA, scales.map (fun q => BitVec.ofNat 8 q.2.2))]⟩
  else
    let es : List Elem := (idx vs).map (fun p =>
      (p.1, if active c f p.1 then some (fencode f.d.fmt rm fl (ovfOf f.d.fmt f.d.nonsat) p.2) else none))
    ⟨es, if f.amax then act.map (·.2) else outVals (flushOn fs) f es, []⟩

/-- VRED: one element per row (R218). -/
def redRow (fs : State) (f : VeF) (vs : List FVal) : Nat × Flags :=
  let g := f.d.fmt
  let rm := rmOf fs f.rm
  let fl := flushOn fs
  if vs.any isNan then (fqnan g, if vs.any isSnan then flInv else noFlags)
  else match f.sub, vs with
    | 0, [] => (0, noFlags)
    | 1, [] => (finfBits g true, noFlags)
    | 2, [] => (finfBits g false, noFlags)
    | _, [] => (0, noFlags)
    | 0, vs => sumRound g rm fl .ieee (vs.map .val)
    | 1, v :: t => fencode g rm fl .ieee (t.foldl fmaxV v)
    | 2, v :: t => fencode g rm fl .ieee (t.foldl fminV v)
    | _, v :: t => fencode g rm fl .ieee (t.foldl (fun a b => fmaxV a (fabsV b)) (fabsV v))

/-- VRED over all rows. -/
def redOut (fs : State) (c : Core) (f : VeF) (sl : List GSlot) : VeOut :=
  let fl := flushOn fs
  let vs := (idx (srcA c f sl)).map (fun p => (p.1, fread fl f.s.fmt p.2))
  let rows := chunks (if f.row = 0 then f.cnt else f.row) vs
  let es : List Elem := (idx rows).map (fun r =>
    (r.1, some (redRow fs f ((r.2.filter (fun p => active c f p.1)).map (·.2)))))
  ⟨es, outVals (flushOn fs) f es, []⟩

/-- Comparison by SUB with its flags (R214). -/
def cmpSub (sub : Nat) (a b : FVal) : Bool × Flags :=
  let nan := isNan a || isNan b
  let inv := if sub = 0 || sub = 1 || sub = 6 then isSnan a || isSnan b else nan
  let o := fcmp a b
  (match sub with
    | 0 => !nan && o == .eq
    | 1 => nan || o != .eq
    | 2 => !nan && o == .lt
    | 3 => !nan && o != .gt
    | 4 => !nan && o == .gt
    | 5 => !nan && o != .lt
    | _ => nan, if inv then flInv else noFlags)

/-! ### Tables (R221–R225) -/

/-- 64-bit word of a byte list. -/
def wordAt (bs : List Byte) (o : Nat) : Nat := leNat ((bs.drop o).take 8)
/-- FP64 field of segment `k`: 0 LO, 8 HI, 16 STEP_INV. -/
def segF (bs : List Byte) (k o : Nat) : FVal := fdecode .fp64 (wordAt bs (32 * k + o))
/-- FIRST and COUNT of segment `k`. -/
def segFC (bs : List Byte) (k : Nat) : Nat × Nat := let w := wordAt bs (32 * k + 24); (bitsOf w 28 16, bitsOf w 10 0)
/-- FP32 entry of the table. -/
def lutEntry (bs : List Byte) (e : Nat) : FVal := fdecode .fp32 (leNat ((bs.drop (256 + 4 * e)).take 4))

/-- A value is finite. -/
def isFin (v : FVal) : Bool := !isNan v && !isInf v

/-- The header is rejected for the first `n` descriptors (R222). -/
def lutBad (bs : List Byte) (n cnt : Nat) : Bool :=
  (List.range n).any (fun k =>
    let w := wordAt bs (32 * k + 24)
    let lo := segF bs k 0; let hi := segF bs k 8; let st := segF bs k 16
    let fc := segFC bs k
    bitsOf w 63 29 != 0 || bitsOf w 15 11 != 0 || !isFin lo || !isFin hi || !isFin st || !fltV lo hi ||
    signOf st || isZero st || fc.2 == 0 || 1024 < fc.2 || cnt < fc.1 + fc.2 ||
    (k != 0 && fltV lo (segF bs (k - 1) 8)))

/-- An FP64 step under RNE without flush. -/
def r64 (r : Nat × Flags) : FVal := fdecode .fp64 r.1

/-- Floor of a non-negative value, bounded by `b`. -/
def floorMin (v : FVal) (b : Nat) : Nat :=
  match v with
  | .fin false m e => min b (if e ≥ 0 then m * 2 ^ (min e.toNat 64) else m / 2 ^ (-e).toNat)
  | .inf _ => b
  | _ => 0

/-- Table interpolation of one value (R224). -/
def lutEval (bs : List Byte) (segs : Nat) (x : FVal) : FVal :=
  if isNan x then .nan false
  else if fltV x (segF bs 0 0) then lutEntry bs (segFC bs 0).1
  else
    let k := ((List.range segs).reverse.find? (fun k => !fltV x (segF bs k 0))).getD 0
    let fc := segFC bs k
    if !fltV x (segF bs k 8) then lutEntry bs (fc.1 + fc.2 - 1)
    else if fc.2 = 1 then lutEntry bs fc.1
    else
      let t := r64 (fpMul .rne false (r64 (fpSub .rne false x (segF bs k 0))) (segF bs k 16))
      let i := floorMin t (fc.2 - 2)
      let one : FVal := .fin false 1 0
      let d := r64 (fpSub .rne false t (.fin false i 0))
      let f := if fltV d one then d else one
      let e0 := lutEntry bs (fc.1 + i)
      let e1 := lutEntry bs (fc.1 + i + 1)
      r64 (fpAdd .rne false e0 (r64 (fpMul .rne false f (r64 (fpSub .rne false e1 e0)))))

/-- VLUT. -/
def lutOut (fs : State) (c : Core) (f : VeF) (sl : List GSlot) : VeOut :=
  let fl := flushOn fs
  let es : List Elem := (idx (srcA c f sl)).map (fun p =>
    (p.1, if active c f p.1 then
        let x := fread fl f.s.fmt p.2
        let y := lutEval c.lut.bytes (bitsOf f.imm 22 20 + 1) x
        let r := fencode f.d.fmt (rmOf fs f.rm) fl (ovfOf f.d.fmt f.d.nonsat) (if isNan y then .nan false else y)
        some (r.1, if isNan y then (if isSnan x || !isNan x then flInv else noFlags) else r.2)
      else none))
  ⟨es, outVals (flushOn fs) f es, []⟩

/-! ### Online softmax (R226–R228) -/

/-- A state record: M, S, NINF, NAN, FIN. -/
structure SoftRec where
  m : Nat
  s : Nat
  ninf : Nat
  nan : Bool
  fin : Bool
  rest2 : Nat
  rest3 : Nat
  deriving DecidableEq, Repr

/-- Read a record. -/
def softRead (bs : List Byte) : SoftRec :=
  let w3 := wordAt bs 24
  ⟨wordAt bs 0, wordAt bs 8, wordAt bs 16 % 2 ^ 32, bitOf w3 1, bitOf w3 0, wordAt bs 16 / 2 ^ 32, w3 / 4⟩

/-- The bytes of a record; its reserved bits are written back as they were read. DESIGN CHOICE (log entry 130). -/
def softBytes (r : SoftRec) : List Byte :=
  leBytes 8 r.m ++ leBytes 8 r.s ++ leBytes 8 (r.rest2 * 2 ^ 32 + r.ninf) ++ leBytes 8 (r.rest3 * 4 + 2 * b2n r.nan + b2n r.fin)

/-- exp_64 of round(x − m). -/
def expDiff (x m : FVal) : FVal := fdecode .fp64 (exp64 (r64 (fpSub .rne false x m)))

/-- Update of a record by the unmasked entries of a chunk (R227). -/
def softUpdate (r : SoftRec) (xs : List FVal) : SoftRec :=
  let nan := r.nan || xs.any isNan
  let ninf := min max32 (r.ninf + (xs.filter (fun v => v == .inf false)).length)
  let fs := xs.filter isFin
  match fs with
  | [] => { r with nan := nan, ninf := ninf }
  | v :: t =>
    let mc := t.foldl fmaxV v
    if !r.fin then
      { r with nan := nan, ninf := ninf, fin := true, m := (fencode .fp64 .rne false .ieee mc).1,
               s := (sumRound .fp64 .rne false .ieee (fs.map (fun x => .val (expDiff x mc)))).1 }
    else
      let m := fdecode .fp64 r.m
      let m2 := fminmax true m mc
      { r with nan := nan, ninf := ninf, m := (fencode .fp64 .rne false .ieee m2).1,
               s := (sumRound .fp64 .rne false .ieee (.prod (fdecode .fp64 r.s) (expDiff m m2) :: fs.map (fun x => .val (expDiff x m2)))).1 }

/-- The entries of a softmax command by rows: value, and whether the mask keeps it. -/
def softRows (fs : State) (c : Core) (f : VeF) (sl : List GSlot) : List (List (Nat × FVal × Bool)) :=
  chunks f.row ((idx (srcA c f sl)).map (fun p => (p.1, fread (flushOn fs) f.s.fmt p.2, active c f p.1)))

/-- VSMACC: the records after their chunks; entries raise invalid when signalling. -/
def smaccOut (fs : State) (c : Core) (f : VeF) (sl : List GSlot) : VeOut :=
  let rows := softRows fs c f sl
  let recs := (idx rows).map (fun r =>
    softBytes (softUpdate (softRead (storeRead c (f.imm + 32 * r.1) 32)) ((r.2.filter (fun e => e.2.2)).map (fun e => e.2.1))))
  let es : List Elem := rows.flatMap (fun r => r.map (fun e => (e.1, if e.2.2 && isSnan e.2.1 then some (0, flInv) else none)))
  ⟨es, [], [(f.imm, recs.flatten)]⟩

/-- One element of VSNORM (R228). -/
def snormElem (fs : State) (f : VeF) (r : SoftRec) (x : FVal) (keep : Bool) : Nat × Flags :=
  let g := f.d.fmt
  let o := ovfOf g f.d.nonsat
  let rm := rmOf fs f.rm
  let fl := flushOn fs
  if r.nan then (fqnan g, flInv)
  else if 0 < r.ninf then
    (if keep && x == .inf false then fdivRound g rm fl o (.fin false 1 0) (.fin false r.ninf 0) else (0, noFlags))
  else if !r.fin then (0, noFlags)
  else if !keep || x == .inf true then (0, noFlags)
  else fdivRound g rm fl o (expDiff x (fdecode .fp64 r.m)) (fdecode .fp64 r.s)

/-- VSNORM: every element of each row from its record. Masked entries are written, and count in the summary. DESIGN CHOICE (log entry 133). -/
def snormOut (fs : State) (c : Core) (f : VeF) (sl : List GSlot) : VeOut :=
  let rows := softRows fs c f sl
  let es : List Elem := (idx rows).flatMap (fun r =>
    let q := softRead (storeRead c (f.imm + 32 * r.1) 32)
    r.2.map (fun e => (e.1, some (snormElem fs f q e.2.1 e.2.2))))
  ⟨es, outVals (flushOn fs) f es, []⟩

/-- Rows of VSNORM written as zeros because FIN is 0 (R228). -/
def emptyRows (c : Core) (f : VeF) : Nat :=
  ((List.range (veRows f)).filter (fun r =>
    let q := softRead (storeRead c (f.imm + 32 * r) 32)
    !q.nan && q.ninf == 0 && !q.fin)).length

/-! ### Running a command -/

/-- Galley slots an A_GALLEY command takes (R229). -/
def slotsNeeded (f : VeF) : Nat := if f.gal then cdiv (nfBytes f.s f.cnt) 4096 else 0

/-- Compute a command whose checks have passed and whose slots are taken. Every tile of its fixed extents is consumed, one that holds only
masked-off elements included. DESIGN CHOICE (log entry 132). -/
def veCompute (out : State → Core → VeF → List GSlot → VeOut) (k : Nat) (s : State) (x : Cmd) (f : VeF) (sl : List GSlot) : State :=
  let reads := veReads f ++ (if f.op = 5 then veD f else []) ++ (if f.op = 0x0F then veState f else [])
  let v := verifyTiles s k (tilesOfRanges reads)
  let g := slotCond v.1 k sl
  let c := coreAt g.1 k
  let cond0 := worse v.2 g.2
  let cond := if f.op = 0x0D && c.lut.poison then worse cond0 stPoison else cond0
  let s2 := if f.op = 0x10 then dcount g.1 kVeEmptyRows (emptyRows c f) else g.1
  veDeliver k s2 x f cond (out s2 c f sl)

/-- The first `n` FINISHED slots are consumed and FREE; an ME command that waits for slots has its wait begin anew (R188, R190, R235). -/
def freeSlots (s : State) (k n : Nat) : State :=
  let c := coreAt s k
  if n = 0 || c.galley.isEmpty then s
  else dcount (putCore s k { c with galley := c.galley.drop n, meJob := c.meJob.map (fun j => { j with since := timeNs s }) })
    kVeGalleySlotsRead (c.galley.take n).length

/-- Take FINISHED slots until the command has enough, then compute (R188, R191). -/
def veTake (out : State → Core → VeF → List GSlot → VeOut) (k : Nat) (s : State) (j : VeJob) (f : VeF) : State :=
  let n := slotsNeeded f - j.slots.length
  let got := (coreAt s k).galley.take n
  let sl := j.slots ++ got
  let s1 := freeSlots s k n
  if sl.length = slotsNeeded f then veCompute out k s1 j.cmd f sl
  else
    let job : VeJob := { j with slots := sl, since := if got.isEmpty then j.since else timeNs s }
    modCore s1 k (fun c => { c with veJob := some job })

/-- Run a VE command taken from VQ whose extents are fixed (R167, R206); one of COUNT 0 counts in VE_COMMANDS. DESIGN CHOICE (log entry 153). -/
def veRun (out : State → Core → VeF → List GSlot → VeOut) (e : Ex) (s : State) : State :=
  match veFields s e.x with
  | none => exEnd e s stIllegal
  | some f =>
    match firstSkip [(veIllegal (flushOn s) (coreAt s e.k) e.x f, stIllegal), (veBounds f, stBounds)] with
    | some code => exEnd e s code
    | none =>
      let s1 := dcount s kVeCommands 1
      if f.cnt = 0 then exEnd e s1 stOk
      else veTake out e.k s1 { cmd := e.x, since := timeNs s } f

/-- The VE is working on a command or held (R450). -/
def veBusy (s : State) (k : Nat) (c : Core) : Bool := c.veJob.isSome || heldEngine s k

/-- A VE row: its opcode, a reserved opcode, or (for rows of one SUB) a reserved SUB. A command waiting for galley slots
goes on when its row comes again, unless issue is held (R450, R451). -/
def veRow (n : Nat) (mine : Cmd → Bool) (out : State → Core → VeF → List GSlot → VeOut) (s : State) : State :=
  match keyOf s n with
  | none => s
  | some k =>
    match (coreAt s k).veJob with
    | some j =>
      if mine j.cmd && !heldEngine s k then
        match veFields s j.cmd with
        | some f => veTake out k s j f
        | none => s
      else s
    | none => engineRow n .vq (fun x => mine x || 0x18 ≤ w0Op x.w0) veBusy (veRun out) s

/-- A command of an opcode. -/
def isOp (op : Nat) (x : Cmd) : Bool := w0Op x.w0 == op
/-- A command of an opcode and SUB; a reserved SUB (above `hi`) belongs to every row of the opcode. -/
def isOpSub (op sub hi : Nat) (x : Cmd) : Bool := w0Op x.w0 == op && (fld x.w1 15 12 == sub || hi < fld x.w1 15 12)

/-! ### VCMP, VLUTLOAD and the indexed opcodes -/

/-- VCMP elements. -/
def cmpOut (fs : State) (c : Core) (f : VeF) (sl : List GSlot) : VeOut :=
  let fl := flushOn fs
  let bs := if f.bsc then [] else getElems (nfW f.s) f.cnt (storeRead c f.bA (nfBytes f.s f.cnt))
  let es : List Elem := (idx (srcA c f sl)).map (fun p =>
    let r := cmpSub f.sub (fread fl f.s.fmt p.2) (fread fl f.s.fmt (if f.bsc then f.imm else bs.getD p.1 0))
    (p.1, some (b2n r.1, r.2)))
  ⟨es, [], []⟩

/-- VLUTLOAD (R222, R225, R426). -/
def lutLoad (e : Ex) (s : State) : State :=
  match veFields s e.x with
  | none => exEnd e s stIllegal
  | some f =>
    match firstSkip [(veIllegal (flushOn s) (coreAt s e.k) e.x f, stIllegal), (veBounds f, stBounds)] with
    | some code => exEnd e s code
    | none =>
      if f.cnt = 0 then exEnd e (dcount s kVeCommands 1) stOk
      else
        let hv := verifyTiles s e.k (tilesOf f.aA 256)
        let segs := bitsOf f.imm 22 20 + 1
        let bs := storeRead (coreAt s e.k) f.aA (256 + 4 * f.cnt)
        if lutBad bs segs f.cnt then exEnd e hv.1 stIllegal
        else
          let v := verifyTiles hv.1 e.k ((tilesOf f.aA (256 + 4 * f.cnt)).filter (fun t => !(tilesOf f.aA 256).contains t))
          let cond := worse hv.2 v.2
          let lut : Lut := ⟨some (f.aA, segs), cond != 0, bs⟩
          let s1 := modCore v.1 e.k (fun c => { veStrips c f with lut := lut })
          let s2 := contribute s1 (bindOf (coreAt s1 e.k)) (fun x => addProgLeaf x (sha384 (0x11 :: bs)))
          exEnd e (dcount (dcount s2 kVeLutLoads 1) kVeCommands 1) cond

/-- 32-bit indices of B. -/
def indices (c : Core) (f : VeF) : List Nat := getElems 32 f.cnt (storeRead c f.bA (4 * f.cnt))

/-- The range that indices reach from `a` (R217). -/
def reach (a w : Nat) (js : List Nat) : List (Nat × Nat) :=
  match js with
  | [] => []
  | j :: t =>
    let lo := t.foldl min j
    let hi := t.foldl max j
    [(a + lo * w, (hi + 1 - lo) * w)]

/-- VPERM, VGATHER and VSCATTER in their two stages (R217). DEDUCED (log entry 28). DESIGN CHOICE (log entry 132). -/
def indexedRun (e : Ex) (s : State) : State :=
  match veFields s e.x with
  | none => exEnd e s stIllegal
  | some f =>
    match firstSkip [(veIllegal (flushOn s) (coreAt s e.k) e.x f, stIllegal), (veBounds f, stBounds)] with
    | some code => exEnd e s code
    | none =>
      if f.cnt = 0 then exEnd e (dcount s kVeCommands 1) stOk
      else
        let bv := verifyTiles s e.k (tilesOf f.bA (4 * f.cnt))
        let c := coreAt s e.k
        let js := indices c f
        let w := nfW f.s / 8
        let size := nfBytes f.s f.cnt
        let base := if f.op = 0x16 then f.dA else f.aA
        let rg := if f.op = 0x14 then [] else reach base w js
        let bad := js.any (fun j => if f.op = 0x14 then f.cnt ≤ j else 0x80000 < base + (j + 1) * w)
        let others := if f.op = 0x15 then [(f.dA, size)] else [(f.aA, size), (f.bA, 4 * f.cnt)]
        if bad then exEnd e bv.1 stBounds
        else if rg.any (fun r => others.any (ovl r)) then exEnd e bv.1 stIllegal
        else
          let read := ((idx js).filter (fun p => active c f p.1)).map (fun p => (f.aA + p.2 * w, w))
          let reads := tilesOfRanges (veA f ++ (if f.op = 0x15 then read else []))
          let v := verifyTiles bv.1 e.k (reads.filter (fun t => !(tilesOf f.bA (4 * f.cnt)).contains t))
          let cond := worse bv.2 v.2
          let s1 := dcount v.1 kVeCommands 1
          if f.op = 0x16 then
            let xs := getElems (nfW f.s) f.cnt (storeRead c f.aA size)
            let ws := ((idx js).zip xs).filter (fun p => active c f p.1.1)
            veDeliver e.k s1 e.x f cond
              ⟨[], [], ws.map (fun p => (f.dA + p.1.2 * w, leBytes w p.2))⟩
          else
            let xs := js.map (fun j => leNat (storeRead c (f.aA + j * w) w))
            veDeliver e.k s1 e.x f cond (moveOut s1 c f xs)

end Sys2Proof.Machine
end

