-- ==== Sys2Proof/Machine/Nmu.lean ====
section
/-! DEFINITION. Near-memory operations (R295–R300, R303): what the NMUs compute from the bytes they read, element by
element, and the atomics they apply. -/
namespace Sys2Proof.Machine
open Sys2Proof Config

/-- An element on its way: absent where a line failed; true where a byte is poisoned or of a failing tile. -/
abbrev FE := Option (Nat × Bool)

/-- Bytes as one element. -/
def joinFB (bs : List FB) : FE :=
  if bs.all Option.isSome then some (leNat (bs.map (fun b => (fbByte b).getD 0)), badFB bs) else none

/-- Bytes as elements of `sz` bytes. -/
def elemsFB (sz : Nat) (bs : List FB) : List FE := (chunks sz bs).map joinFB

/-- An element as bytes. -/
def bytesFE (sz : Nat) : FE → List FB
  | none => List.replicate sz none
  | some (v, b) => (leBytes sz v).map (fun x => some (x, b))

/-- Sum of two elements in a format (R73, R297). -/
def nmuSum (s : State) (f : Fmt) (a b : Nat) : Nat × Flags :=
  if fmtIsInt f then
    let v := toSigned (fmtWidth f) a + toSigned (fmtWidth f) b
    if v < intLo f then (ofSigned (fmtWidth f) (intLo f), flOvf)
    else if intHi f < v then (ofSigned (fmtWidth f) (intHi f), flOvf)
    else (ofSigned (fmtWidth f) v, noFlags)
  else sumRound f (rmCode (dget s kDefaultRounding)) (flushOn s) .ieee [.val (fread (flushOn s) f a), .val (fread (flushOn s) f b)]

/-- What an operation computes: writes at offsets of DST, flag events by offset of DST and element, conditions, the failed lines
and the offsets that failures and bad bytes report (R325, R327), the amax value, and for a gather the offset of SRC that a failure at
an offset of DST reports. -/
structure NOut where
  s : State
  writes : List (Nat × List FB) := []
  evs : List (Nat × Nat × Flags) := []
  cond : Nat := 0
  failed : List Nat := []
  offs : List Nat := []
  amax : Option Nat := none
  rep : Nat → Nat := id

/-- Condition of segments read (R20). -/
def segCond (gs : List Seg) : Nat :=
  gs.foldl (fun a g => worse a (match g.st with | 1 => stPoison | 2 => stPartial | 3 => stChecksum | _ => stOk)) stOk
/-- The line at an offset of a place, as failed lines are counted (R325): one line of memory counts once. DEDUCED (log entry 56). -/
def failId (l : Loc) (off : Nat) : Nat :=
  match locAdd off l with
  | .stack a => a / 128
  | .refused a => a / 128
  | .remote a => 2 ^ 64 + a / 128
  | _ => 2 ^ 72 + off
/-- The failed lines among segments of a place. -/
def segFailed (l : Loc) (gs : List Seg) : List Nat := (gs.filter (fun g => g.st == 2)).map (fun g => failId l g.off)
/-- Offsets of failed and bad segments. -/
def segOffs (gs : List Seg) : List Nat := (gs.filter (fun g => g.st != 0)).map (·.off)

/-- Add what a read of segments of a place met; `rep` gives the offset that a segment reports. -/
def meet (o : NOut) (s : State) (l : Loc) (rep : Seg → Option Nat) (gs : List Seg) : NOut :=
  { o with s := s, cond := worse o.cond (segCond gs), failed := unionNat (segFailed l gs) o.failed,
           offs := o.offs ++ (gs.filter (fun g => g.st != 0)).filterMap rep }

/-- The least of a list of offsets. -/
def leastOf (l : List Nat) : Option Nat := l.foldl (fun a x => some (match a with | some y => min x y | none => x)) none
/-- The elements of `sz` bytes that `n` bytes at an offset touch. -/
def elemsAt (sz off n : Nat) : List Nat := if n = 0 then [] else (List.range ((off + n - 1) / sz + 1 - off / sz)).map (· + off / sz)
/-- The least offset that the elements of a segment have elsewhere (R327). -/
def segRep (sz : Nat) (place : Nat → Option Nat) (g : Seg) : Option Nat := leastOf ((elemsAt sz g.off g.bytes.length).filterMap place)

/-- Reduce-add (R297). -/
def nmuReduce (s : State) (who : Owner) (f : Fmt) (src dst : Loc) (n : Nat) : NOut :=
  let sz := fmtWidth f / 8
  let a := readLocal s who src 0 n
  let d := readLocal a.1 who dst 0 n
  let at' := fun (g : Seg) => some g.off
  let o := meet (meet { s := s } a.1 src at' a.2) d.1 dst at' d.2
  let r := ((elemsFB sz (flatten n a.2)).zip (elemsFB sz (flatten n d.2))).map (fun p =>
    match p.1, p.2 with
    | some (x, bx), some (y, by') => some (nmuSum s f y x, bx || by')
    | _, _ => none)
  { o with
    writes := [(0, (r.map (fun e => bytesFE sz (e.map (fun v => (v.1.1, v.2))))).flatten)]
    evs := (idx r).filterMap (fun p => p.2.bind (fun v => if v.1.2 = noFlags then none else some (p.1 * sz, p.1, v.1.2))) }

/-- An index vector as read (R298): the tiles verified, its place and segments, and the indices. -/
structure IdxVec where
  seen : Seen
  loc : Loc
  gs : List Seg
  is : List FE

/-- Read the index vector (R298). -/
def nmuIndices (s : State) (who : Owner) (loc : Loc) (cnt : Nat) : State × IdxVec :=
  let r := readSeen s [] who loc 0 (4 * cnt)
  (r.1, ⟨r.2.1, loc, r.2.2, elemsFB 4 (flatten (4 * cnt) r.2.2)⟩)

/-- Offset of the element that index `i` of a vector names. -/
def idxPlace (sz : Nat) (v : IdxVec) (i : Nat) : Option Nat := ((v.is[i]?).getD none).map (fun e => e.1 * sz)

/-- Scatter-add (R298): the elements that the indices name are read once, updated in increasing i, and written. -/
def nmuScatter (s : State) (who : Owner) (f : Fmt) (src dst : Loc) (v : IdxVec) : NOut :=
  let sz := fmtWidth f / 8
  let is := v.is
  let n := is.length * sz
  let a0 := readSeen s v.seen who src 0 n
  let a := (a0.1, a0.2.2)
  let o := meet (meet { s := s } s v.loc (segRep 4 (idxPlace sz v)) v.gs) a.1 src (segRep sz (idxPlace sz v)) a.2
  let js := (is.filterMap (·.map (·.1))).foldl (fun l j => insNat j l) []
  let rd := js.foldl (fun (x : NOut × Tbl FE) j =>
    let r := readLocal x.1.s who (locAdd (j * sz) dst) (j * sz) sz
    (meet x.1 r.1 dst (fun g => some g.off) r.2, x.2 ++ [(j, joinFB (flatten sz (r.2.map (fun g => { g with off := g.off - j * sz }))))])) (o, [])
  let up := (idx (is.zip (elemsFB sz (flatten n a.2)))).foldl (fun (x : Tbl FE × List (Nat × Nat × Flags)) p =>
    match p.2 with
    | (some (j, bj), some (v, bv)) =>
      match tblGet (fun _ => none) x.1 j with
      | some (old, bo) =>
        let q := nmuSum s f old v
        (x.1.map (fun e => if e.1 = j then (j, some (q.1, bj || bv || bo)) else e),
         if q.2 = noFlags then x.2 else x.2 ++ [(j * sz, p.1, q.2)])
      | none => x
    | _ => x) (rd.2, [])
  { rd.1 with writes := up.1.map (fun e => (e.1 * sz, bytesFE sz e.2)), evs := up.2 }

/-- Gather (R298). -/
def nmuGatherOut (s : State) (who : Owner) (sz : Nat) (src dst : Loc) (v : IdxVec) : NOut :=
  let r := v.is.foldl (fun (x : NOut × List FB) i =>
    match i with
    | none => (x.1, x.2 ++ List.replicate sz none)
    | some (j, bj) =>
      let g := readLocal x.1.s who (locAdd (j * sz) src) (j * sz) sz
      (meet x.1 g.1 src (fun g => some g.off) g.2, x.2 ++ bytesFE sz ((joinFB (flatten sz (g.2.map (fun q => { q with off := q.off - j * sz })))).map (fun v => (v.1, v.2 || bj)))))
    (meet { s := s } s v.loc (segRep 4 (idxPlace sz v)) v.gs, [])
  let left := fun (o : Nat) => match dst with | .stack a => 128 - (a + o) % 128 | _ => 1
  { r.1 with writes := [(0, r.2)], rep := fun o => (leastOf ((elemsAt sz o (left o)).filterMap (idxPlace sz v))).getD 0 }

/-- Transposed order of the elements of an R × C array. -/
def transposed (r c : Nat) (es : List FE) : List FE :=
  (List.range c).flatMap (fun j => (List.range r).map (fun i => (es[i * c + j]?).getD none))

/-- Two-dimensional transposition (R299). -/
def nmuTransposeOut (s : State) (who : Owner) (sz r c : Nat) (src : Loc) : NOut :=
  let g := readLocal s who src 0 (r * c * sz)
  let o := meet { s := s } g.1 src (segRep sz (fun e => some ((e % c * r + e / c) * sz))) g.2
  { o with writes := [(0, ((transposed r c (elemsFB sz (flatten (r * c * sz) g.2))).map (bytesFE sz)).flatten)] }

/-- Elements and bytes of the smallest whole group of packed elements of a width (R61). -/
def packUnit (w : Nat) : Nat := if w = 4 then 2 else if w = 6 then 4 else 1

/-- Pack elements; a group with an absent element is absent, one with a bad element bad. DEDUCED (log entry 55). -/
def packFE (w : Nat) (es : List FE) : List FB :=
  ((chunks (packUnit w) es).map (fun g =>
    let bs := packElems w (g.map (fun e => (e.map (·.1)).getD 0))
    if g.all Option.isSome then bs.map (fun b => some (b, g.any (fun e => match e with | some (_, true) => true | _ => false)))
    else bs.map (fun _ => none))).flatten

/-- Conversion with the amax tap (R300). DEDUCED (log entry 55). -/
def nmuConvertOut (s : State) (who : Owner) (f : NumFmt) (src : Loc) (n : Nat) : NOut :=
  let sf : Fmt := if f.fmt == .fp32 then .fp64 else .fp32
  let sz := fmtWidth sf / 8
  let g := readLocal s who src 0 n
  let o := meet { s := s } g.1 src (segRep sz (fun e => some (e * nfW f / 8))) g.2
  let es := elemsFB sz (flatten n g.2)
  let vs := es.map (fun e => e.map (fun v => (fread (flushOn s) sf v.1, v.2)))
  let rm := rmCode (dget s kDefaultRounding)
  let w := nfW f
  let am := (fencode .fp64 .rne false .ieee (maxMag (vs.filterMap (·.map (·.1))))).1
  if f.sc then
    let blocks := chunks f.blk vs
    let enc := blocks.map (fun b =>
      let xs := b.filterMap (·.map (·.1))
      let sc := blockScale f.fmt xs
      (sc, b.map (fun e => e.map (fun v => (scaledElem f rm xs sc v.1, v.2))), b.any Option.isSome,
       b.any (fun e => match e with | some (_, true) => true | _ => false)))
    let el := (enc.map (fun q => q.2.1)).flatten
    { o with
      writes := [(0, packFE w (el.map (fun e => e.map (fun v => (v.1.1, v.2))))),
                 (roundUp (nfBytes f vs.length) 64, enc.map (fun q => if q.2.2.1 then some (BitVec.ofNat 8 q.1, q.2.2.2) else none))]
      evs := (idx el).filterMap (fun p => p.2.bind (fun v => if v.1.2 = noFlags then none else some (p.1 * w / 8, p.1, v.1.2)))
      amax := some am }
  else
    let el := vs.map (fun e => e.map (fun v => (fencode f.fmt rm (flushOn s) (ovfOf f.fmt f.nonsat) v.1, v.2)))
    { o with
      writes := [(0, packFE w (el.map (fun e => e.map (fun v => (v.1.1, v.2)))))]
      evs := (idx el).filterMap (fun p => p.2.bind (fun v => if v.1.2 = noFlags then none else some (p.1 * w / 8, p.1, v.1.2)))
      amax := some am }

/-- Bytes that a conversion of `n` source bytes writes: packed elements, and scales after them (R300). DEDUCED (log entry 53). -/
def convBytes (f : NumFmt) (n : Nat) : Nat :=
  let cnt := n / (if f.fmt == .fp32 then 8 else 4)
  if f.sc then roundUp (nfBytes f cnt) 64 + cdiv cnt f.blk else nfBytes f cnt

/-! ### Atomics (R303) -/

/-- New value of an atomic, with the flags of FADD. -/
def atomicNew (s : State) (op : Nat) (old a cmp : Nat) : Option Nat × Flags :=
  let m := fun (b : Bool) => if b then some a else none
  match op with
  | 0 => (some ((old + a) % 2 ^ 64), noFlags)
  | 1 => let r := nmuSum s .fp64 old a; (some r.1, r.2)
  | 2 => (some (if toSigned 64 a < toSigned 64 old then a else old), noFlags)
  | 3 => (some (if toSigned 64 old < toSigned 64 a then a else old), noFlags)
  | 4 => (some a, noFlags)
  | _ => (m (old == cmp), noFlags)

/-- Flags of an atomic in its NMU (R303, R306), and in the colophon of the launch whose core issued it (R424, R425). -/
def atomicFlags (s : State) (st : Nat) (core : Option Nat) (x : Nat × Nat × Nat) (fl : Flags) : State :=
  if fl = noFlags then s
  else
    let ev : FlagEv := ⟨0, 0, 0, fl⟩
    match core with
    | some n =>
      let s1 := modNmu s st (fun b => raiseEv b x.1 x.2.1 x.2.2 n ev)
      match keyOf s n with | some k => tallyFlags s1 k 4 fl | none => s1
    | none => modNmu s st (fun b => raiseEv b 0 0 0 0xFFFF ev)

/-- An atomic at its home: the old value and a status (0 applied, POISON, NOT_APPLIED 0x85) (R303). One of a core after
CORE_INTERNAL poisons its line (R468). -/
def atomicApply (s : State) (q : AtomicOp) (x : Nat × Nat × Nat) : State × Nat × Nat :=
  let la := q.addr / 128 * 128
  let p := dieTry (dirAccess s la true q.who) q.who (stackOf s la / 2)
  let r := lineGet p.1 la
  if p.2 != 0 then (p.1, 0, 0x85)
  else if r.2.2 = 2 || rowBlocked r.1 la then (r.1, 0, 0x85)
  else
    let old := leNat ((r.2.1.drop (q.addr % 128)).take 8)
    if r.2.2 = 1 then (r.1, old, stPoison)
    else
      let v := atomicNew s q.op old q.a q.cmp
      match v.1 with
      | none => (dcount r.1 kNmuAtomics 1, old, 0)
      | some new =>
        let int := match q.who with | .de k => (coreAt s k).internal | _ => false
        let w := lineWrite r.1 la (lineSlice q.addr (leBytes 8 new) la) int
        let t := if int || w.2 then noteLine w.1 la q.who else w.1
        if w.2 then (t, 0, 0x85) else (dcount (atomicFlags t q.st q.core x v.2) kNmuAtomics 1, old, 0)

end Sys2Proof.Machine
end

