-- ==== Sys2Proof/Machine/De.lean ====
section
/-! DEFINITION. The DMA engines (R309–R331): checks, windows, descriptors, chains, completion, and the DQ rows. -/
namespace Sys2Proof.Machine
open Sys2Proof Config

/-! ### Fields (R158) -/

/-- TAG. -/
def dTag (x : Cmd) : Nat := fld x.w0 27 26
/-- NUMFMT. -/
def dFmt (x : Cmd) : Nat := fld x.w0 23 16
/-- NMU_OP. -/
def dNmu (x : Cmd) : Nat := fld x.w0 15 12
/-- AOP. -/
def dAop (x : Cmd) : Nat := fld x.w0 11 8
/-- SRC_LOCAL. -/
def dSrcL (x : Cmd) : Bool := x.w0.getLsbD 1
/-- DST_LOCAL. -/
def dDstL (x : Cmd) : Bool := x.w0.getLsbD 0
/-- SRC. -/
def dSrc (x : Cmd) : Nat := x.w1.toNat
/-- DST. -/
def dDst (x : Cmd) : Nat := x.w2.toNat
/-- LENGTH. -/
def dLen (x : Cmd) : Nat := fld x.w3 63 32
/-- AUX. -/
def dAux (x : Cmd) : Nat := fld x.w3 31 0
/-- Rows of COPY_T and transposition. -/
def dRows (x : Cmd) : Nat := bitsOf (dAux x) 31 16
/-- Element bytes of COPY_T, or columns of transposition. -/
def dLow (x : Cmd) : Nat := bitsOf (dAux x) 15 0
/-- Columns of COPY_T (R326). -/
def dCols (x : Cmd) : Nat := dLen x / (dRows x * dLow x)

/-- Extents of SRC and DST (R313, R326, R300). -/
def dExt (s : State) (x : Cmd) : Nat × Nat :=
  match w0Op x.w0 with
  | 2 => (dRows x * roundUp (dCols x * dLow x) 8, dCols x * roundUp (dRows x * dLow x) 8)
  | 3 => if dNmu x = 4 then (dLen x, match numFmt s true (dFmt x) with | some f => convBytes f (dLen x) | none => 0) else (dLen x, dLen x)
  | 6 => (24, 8)
  | _ => (dLen x, dLen x)

/-- A global operand lies in control space: every package offset from 0x2000_0000_0000 up (R314). DESIGN CHOICE (log entry 156). -/
def inCtlSpace (a : Nat) : Bool :=
  if spaceOf a = 3 then
    match unitKind (bitsOf (coordOf a) 13 11) (coordOf a % 2048) with
    | some 0 => 0x1000000 ≤ a % 2 ^ 30
    | _ => true
  else 0x200000000000 ≤ offOf a

/-- An address or length in control space that is not a multiple of 8 (R314). -/
def ctlMisaligned (x : Cmd) : Bool :=
  (!dSrcL x && inCtlSpace (dSrc x) && (dSrc x % 8 != 0 || dLen x % 8 != 0)) ||
  (!dDstL x && inCtlSpace (dDst x) && (dDst x % 8 != 0 || dLen x % 8 != 0))

/-- Source and destination overlap as written (R314). -/
def dOverlap (s : State) (x : Cmd) : Bool :=
  dSrcL x == dDstL x && overlap (dSrc x) (dExt s x).1 (dDst x) (dExt s x).2

/-- Some global operand has a non-zero zero field or names a reserved unit (R44, R346). -/
def dAddrBad (x : Cmd) : Bool := (!dSrcL x && addrBad (dSrc x)) || (!dDstL x && addrBad (dDst x))

/-- The last tile offset of a tagged descriptor exceeds 2^32 − 1 (R328). -/
def tagBad (x : Cmd) : Bool := dTag x != 0 && decide (2 ^ 32 < dAux x + cdiv (dLen x) 4096)

/-- Element bytes of an NMU operation's operand. -/
def nmuSize (x : Cmd) (f : NumFmt) : Nat :=
  if dNmu x = 4 then (if f.fmt == .fp32 then 8 else 4) else nfW f / 8

/-- A format of reduce-add and scatter-add (R297). -/
def addFmt (f : NumFmt) : Bool := !f.sc && !f.nonsat && (fmtWide f.fmt || f.fmt == .int32)

/-- An NMU command breaks R297–R300 in its fields. DESIGN CHOICE (log entry 127, 149). -/
def nmuIllegal (s : State) (x : Cmd) : Bool :=
  match numFmt s true (dFmt x) with
  | none => true
  | some f =>
    let sz := nmuSize x f
    let aux := dAux x
    let vec := !bitOf aux 31 && (aux % 4 != 0 || bitsOf aux 30 19 != 0)
    let fmtBad := match dNmu x with
      | 0 => !addFmt f || aux != 0 || (dOverlap s x && dSrc x != dDst x)
      | 1 => !addFmt f || vec
      | 2 => f.sc || f.nonsat || fmtFx f || nfW f % 8 != 0 || vec
      | 3 => f.sc || fmtFx f || nfW f % 8 != 0 || dLen x != dRows x * dLow x * sz || dOverlap s x
      | 4 => f.fmt == .fp64 || f.fmt == .int32 || fmtFx f || (dTag x != 0 && (dDst x % 4096 != 0 || tagBad x))
      | _ => true
    fmtBad || (dNmu x != 4 && dTag x != 0) || sz == 0 || dLen x % sz != 0

/-- A descriptor is illegal or inconsistent (R159, R166, R310, R314, R321, R326). DESIGN CHOICE (log entry 127). -/
def dIllegal (s : State) (x : Cmd) : Bool :=
  let plain := dFmt x != 0 || dNmu x != 0 || dAop x != 0
  fld x.w0 25 24 != 0 || fld x.w0 7 2 != 0 || dTag x == 3 ||
  (match w0Op x.w0 with
    | 1 => plain || (dTag x == 0 && dAux x != 0) || tagBad x || dAddrBad x || ctlMisaligned x || dOverlap s x
    | 2 => plain || dTag x != 0 || !dSrcL x || dRows x == 0 || !(dLow x == 1 || dLow x == 2 || dLow x == 4 || dLow x == 8) ||
      dLen x % (dRows x * dLow x) != 0 || dAddrBad x || ctlMisaligned x || dOverlap s x
    | 3 => dAop x != 0 || dAddrBad x || ctlMisaligned x || nmuIllegal s x
    | 4 => plain || dTag x != 0 || dAux x != 0 || dLen x != 0 || dDst x != 0 || dSrc x % 32 != 0 || (!dSrcL x && addrBad (dSrc x))
    | 5 => fld x.w0 27 0 != 0 || x.w1 != 0 || x.w2 != 0 || x.w3 != 0
    | 6 => dFmt x != 0 || dNmu x != 0 || 5 < dAop x || dAux x != 0 || !dSrcL x || dDstL x || dLen x != 8 || dSrc x % 8 != 0 ||
      dDst x % 8 != 0 || addrBad (dDst x)
    | _ => true)

/-- A global operand lies in a space of `p`. -/
def dSpace (x : Cmd) (p : Nat → Bool) : Bool := (!dSrcL x && p (spaceOf (dSrc x))) || (!dDstL x && p (spaceOf (dDst x)))

/-- A command of the launch that would issue fabric traffic under another epoch (R367). -/
def epochStale (s : State) (k : Nat) : Bool :=
  match (coreAt s k).run with
  | some r => r.epoch != dget s kJobEpoch
  | none => false

/-- Place of an NMU operand: stack memory, or the core store where it is allowed (R296). -/
def nmuLoc (k : Nat) (loc store : Bool) (a n : Nat) : Option Loc :=
  if loc then (if store && a + n ≤ 0x80000 then some (.store k a) else none)
  else if a < 2 ^ 40 && inStack a n then some (.stack a) else none

/-- Place of an index vector (R298). -/
def vecLoc (k : Nat) (x : Cmd) (n : Nat) : Option Loc :=
  if bitOf (dAux x) 31 then nmuLoc k false false (dAux x % 2 ^ 31 * 512) n else nmuLoc k true true (dAux x % 2 ^ 19) n

/-- Places of SRC and DST of a descriptor; none where either breaks R313 or R296. The list of a CHAIN lies in stack memory as SRC names it
by space 00 alone. DESIGN CHOICE (log entry 156). -/
def dLocs (s : State) (k : Nat) (x : Cmd) : Option (Loc × Loc) :=
  let e := dExt s x
  let both := fun (a b : Option Loc) => match a, b with | some p, some q => some (p, q) | _, _ => none
  match w0Op x.w0 with
  | 3 => match dNmu x with
    | 0 => both (nmuLoc k (dSrcL x) true (dSrc x) e.1) (nmuLoc k (dDstL x) false (dDst x) e.2)
    | 1 => both (nmuLoc k (dSrcL x) true (dSrc x) e.1) (nmuLoc k (dDstL x) false (dDst x) 0)
    | 2 => both (nmuLoc k (dSrcL x) false (dSrc x) 0) (nmuLoc k (dDstL x) true (dDst x) e.2)
    | 3 => both (nmuLoc k (dSrcL x) false (dSrc x) e.1) (nmuLoc k (dDstL x) true (dDst x) e.2)
    | _ => both (nmuLoc k (dSrcL x) true (dSrc x) e.1) (nmuLoc k (dDstL x) true (dDst x) e.2)
  | 4 => if dSrcL x then (if dSrc x + 32 ≤ 0x80000 then some (.store k (dSrc x), .refused 0) else none)
    else if dSrc x + 32 ≤ 2 ^ 40 then some (.stack (dSrc x), .refused 0) else none
  | 5 => some (.refused 0, .refused 0)
  | 6 =>
    if offOf (dDst x) + 8 ≤ 2 ^ 40 && spaceOf (dDst x) != 3 then both (operandLoc s k true (dSrc x) 24) (globLoc s (fdOfCore k) (dDst x) 8) else none
  | _ => both (operandLoc s k (dSrcL x) (dSrc x) e.1) (operandLoc s k (dDstL x) (dDst x) e.2)

/-- A LENGTH of 0 makes no access and is not checked for bounds (R296, R315). -/
def dEmpty (x : Cmd) : Bool := dLen x == 0 && (w0Op x.w0 == 1 || w0Op x.w0 == 2 || w0Op x.w0 == 3)

/-- Some range of a descriptor meets a closed forme store or SLOT_TABLE (R112, R313). -/
def dClosed (s : State) (k : Nat) (x : Cmd) : Bool :=
  match dLocs s k x with
  | some (a, b) => closedLoc s (dExt s x).1 a || closedLoc s (dExt s x).2 b
  | none => false

/-- The skip code of a descriptor, if one applies (R19, R313, R314, R367); `bad` where it is an entry that breaks R310. -/
def dSkip (s : State) (k : Nat) (x : Cmd) (bad : Bool := false) : Option Nat :=
  firstSkip [(dSpace x (fun p => p != 0) && epochStale s k, stEpochStale), (bad || dIllegal s x, stIllegal),
    ((!dSrcL x && addrFused s (dSrc x)) || (!dDstL x && addrFused s (dDst x)), stFused),
    (dSpace x (fun p => p == 3) && !(phase s == phStart || phase s == phTest || phase s == phRecovery), stPhase),
    (w0Op x.w0 == 6 && dAop x == 1 && locked s, stDet),
    (!dEmpty x && ((dLocs s k x).isNone || dClosed s k x), stBounds),
    (w0Op x.w0 == 3 && (dNmu x == 1 || dNmu x == 2) && !dEmpty x &&
      (match numFmt s true (dFmt x) with | some f => (vecLoc k x (4 * (dLen x / nmuSize x f))).isNone | none => false), stBounds)]

/-! ### Destination pieces and the tiles they cover -/

/-- The ranges of DST that a descriptor writes, as offsets in it. -/
def dPieces (s : State) (x : Cmd) : List (Nat × Nat) :=
  match w0Op x.w0 with
  | 2 => let e := dRows x * dLow x
    (List.range (dCols x)).map (fun j => (j * roundUp e 8, e))
  | 3 => if dNmu x = 4 then
      (match numFmt s true (dFmt x) with
        | some f =>
          let cnt := dLen x / nmuSize x f
          if f.sc then [(0, nfBytes f cnt), (roundUp (nfBytes f cnt) 64, cdiv cnt f.blk)] else [(0, nfBytes f cnt)]
        | none => [])
    else [(0, dLen x)]
  | _ => [(0, dLen x)]

/-- Where a descriptor writes the core store: the core, offset and pieces. -/
def dTarget (s : State) (k : Nat) (x : Cmd) : Option (Nat × Nat × List (Nat × Nat)) :=
  if w0Op x.w0 = 6 then some (k, dSrc x + 16, [(0, 8)])
  else if dEmpty x || w0Op x.w0 = 5 then none
  else match dLocs s k x with
    | some (_, .store k' o) => some (k', o, dPieces s x)
    | _ => none

/-- Bytes of a tile that pieces cover. -/
def coverOf (o t : Nat) (ps : List (Nat × Nat)) : Nat :=
  ps.foldl (fun a p => a + (min (o + p.1 + p.2) (4096 * t + 4096) - max (o + p.1) (4096 * t))) 0

/-! ### The life of a descriptor -/

/-- DE of core `k`. -/
def deAt (s : State) (k : Nat) : De := (coreAt s k).de
/-- Change it. -/
def modDe (s : State) (k : Nat) (f : De → De) : State := modCore s k (fun c => { c with de := f c.de })
/-- Change the descriptor in execution. -/
def modJob (s : State) (k : Nat) (f : DeJob → DeJob) : State := modDe s k (fun d => { d with job := d.job.map f })

/-- Lesser of two optional offsets. -/
def minOpt (a : Option Nat) (b : Nat) : Option Nat := some (match a with | some x => min x b | none => b)

/-- Record what accesses met: the condition, the failed lines, and the offsets of failures and bad bytes (R325). DEDUCED (log entry 56). -/
def jobMeet (cond : Nat) (failed offs : List Nat) (j : DeJob) : DeJob :=
  { j with cond := worse j.cond cond, failed := unionNat failed j.failed, first := offs.foldl minOpt j.first }

/-- Some request of the descriptor of `k` awaits its reply. -/
def deWaits (s : State) (k : Nat) (reads : Bool) : Bool :=
  (s.reqs ++ s.issueQ).any (fun r => match r.who with
    | .deRead k' _ => k' == k
    | .deWrite k' _ => !reads && k' == k
    | .deAtomic k' => !reads && k' == k
    | _ => false)

/-- Apply the writes of one piece at its destination; `rep` gives the offset that a failure at an offset of DST reports. True: none of its
lines failed. The first failing offset of a COPY_T is the least of what either side reports, each counted in its own range (R325). DEDUCED (log entry 56). -/
def dePut (s : State) (k : Nat) (dst : Loc) (rep : Nat → Nat) (off : Nat) (bs : List FB) : State × Bool :=
  let forced := (coreAt s k).internal
  let w := match locAdd off dst with
    | .remote a => writeRemote s (fdOfCore k) a off bs forced (fun o => .deWrite k o)
    | l => writeLocal s (.de k) l off bs forced rep
  (modJob w.s k (fun j => { jobMeet (if w.failed.isEmpty then stOk else stPartial) (w.failed.map (failId dst)) (w.failed.map rep) j with
    written := j.written + w.written }), w.failed.isEmpty)

/-- Apply the writes of a descriptor. A tile of a core store that they cover in all 4,096 bytes takes the CRC of the new bytes (R275,
R317). -/
def dePuts (s : State) (k : Nat) (dst : Loc) (rep : Nat → Nat) (ws : List (Nat × List FB)) : State :=
  let r := ws.foldl (fun (x : State × List (Nat × List FB)) w =>
    let y := dePut x.1 k dst rep w.1 w.2
    (y.1, if y.2 then x.2 ++ [w] else x.2)) (s, [])
  let s1 := r.1
  match dst with
  | .store k' o =>
    let ps := r.2.flatMap (fun w => (runs w.2).map (fun r => (w.1 + r.1, r.2.length)))
    let ts := (ps.foldl (fun a p => unionNat (tilesOf (o + p.1) p.2) a) []).filter (fun t => coverOf o t ps == 4096)
    modCore s1 k' (fun c => ts.foldl (fun c t => modTile c t (fun m => { m with crc := tileCrcOf c t })) c)
  | _ => s1

/-- Leaves of the tiles of tagged bytes (R301, R328, R329). DEDUCED (log entry 53). -/
def leavesOf (aux : Nat) (bs : List FB) : List (Nat × List Byte) :=
  (idx (chunks 4096 bs)).map (fun p => (aux + p.1, dataLeaf (aux + p.1) (p.2.filterMap fbByte)))

/-- Destination of a descriptor in execution. -/
def deDst (s : State) (k : Nat) (x : Cmd) : Loc := match dLocs s k x with | some (_, d) => d | none => .refused 0

/-- The ranges of stack memory among a place's `n` bytes. -/
def locRange (n : Nat) : Loc → List (Nat × Nat)
  | .stack a => [(a, n)]
  | _ => []

/-- A place lies on stacks that all serve accesses (R283, R293). -/
def locFree (s : State) (n : Nat) : Loc → Bool
  | .stack a => rangeFree s a n
  | _ => true

/-- A range shares a line with an access that has reached its home before and waits there for its turn alone: a read of it comes after (R303).
One that copy-on-write or a boot image holds is overtaken, since reads are never held (R302). DEDUCED (log entry 58). -/
def readsBehind (s : State) (r : Nat × Nat) : Bool :=
  s.held.any (fun h => overlap r.1 r.2 h.line 128 && (lineShut s h.line).isNone)

/-- Before a unit accesses ranges of stack memory: the snoops of its reads `rs` and writes `ws` go out (R361), and it waits until no
access to one of those lines is under way, none that came before waits for its turn (R303), and the stacks serve accesses (R283, R293,
R360). -/
def memReady (s : State) (rs ws : List (Nat × Nat)) (who : Owner) : State × Bool :=
  if !(rs ++ ws).all (fun r => rangeFree s r.1 r.2) || rs.any (readsBehind s) then (s, false)
  else if s.dir.isEmpty && s.snoops.isEmpty then (s, true)
  else
    let t := dirPrep s rs ws who
    (t, dirIdle t (rs ++ ws))

/-- The rows that COPY_T writes, in one range: each of `r` elements of `e` bytes, with padding that is not written between them (R326). -/
def transposeRows (r c e : Nat) (bs : List FB) : List FB :=
  let sp := roundUp (c * e) 8
  ((List.range c).map (fun j => ((List.range r).map (fun i => (bs.drop (i * sp + j * e)).take e)).flatten ++
    List.replicate (roundUp (r * e) 8 - r * e) none)).flatten

/-- The source is read: write the destination (R316, R317, R326). -/
def deWrite (s : State) (k : Nat) : State :=
  match (deAt s k).job with
  | none => s
  | some j =>
      let dst := deDst s k j.x
      let bs := flatten (dExt s j.x).1 j.got
      let ps := if w0Op j.x.w0 = 2 then transposeRows (dRows j.x) (dCols j.x) (dLow j.x) bs else bs
      let s1 := modJob s k (fun j => { j with writing := true, got := [],
                                              leaves := if dTag j.x = 0 then [] else leavesOf (dAux j.x) bs })
      dePuts s1 k dst id [(0, ps)]

/-- Proceed to the writes once no read is outstanding and the destination can be written. -/
def deNext (s : State) (k : Nat) : State :=
  match (deAt s k).job with
  | some j =>
    if j.writing || deWaits s k true then s
    else
      let r := memReady s [] (locRange (dExt s j.x).2 (deDst s k j.x)) (.de k)
      if r.2 then deWrite r.1 k else r.1
  | none => s

/-- The bytes of a read that fall in a range at `a` of `n` bytes, from a line at `la`. DEDUCED (log entry 56). -/
def clipLine (a n la : Nat) (bs : List Byte) : List Byte := (bs.drop (a - la)).take (min (a + n) (la + 128) - max a la)

/-- The parts of the source that a descriptor reads: of COPY_T the rows without their padding (R326). -/
def srcParts (s : State) (x : Cmd) : List (Nat × Nat) :=
  if w0Op x.w0 = 2 then
    let r := dCols x * dLow x
    (List.range (dRows x)).map (fun i => (i * roundUp r 8, r))
  else [(0, (dExt s x).1)]

/-- Start a COPY or COPY_T: local sources are read at once, remote ones line by line over the fabric. -/
def startCopy (s : State) (k : Nat) (x : Cmd) (src : Loc) : State :=
  let n := (dExt s x).1
  match src with
  | .remote a =>
    deNext ((linesOf a n).foldl (fun s la =>
      let off := la - a
      let r := issue s (fdOfCore k) fkRead la false [] (.deRead k off)
      if r.2 = 0 then r.1
      else modJob r.1 k (fun j => jobMeet stPartial [failId src off] [off] { j with got := j.got ++ [⟨off, List.replicate (min (a + n) (la + 128) - max a la) 0, 2⟩] })) s) k
  | _ =>
    let r := (srcParts s x).foldl (fun (a : State × Seen × List Seg) p =>
      let q := readSeen a.1 a.2.1 (.de k) (locAdd p.1 src) p.1 p.2
      (q.1, q.2.1, a.2.2 ++ q.2.2)) (s, [], [])
    let gs := r.2.2
    deNext (modJob r.1 k (fun j => jobMeet (segCond gs) (segFailed src gs) (segOffs gs) { j with got := gs })) k

/-- Deliver what the NMUs computed: flags at the NMU of each element's stack, writes, and the conditions (R295, R306). DEDUCED (log entry 52, 54). -/
def nmuDeliver (s0 : State) (n k : Nat) (x : Cmd) (src dst : Loc) (o : NOut) : State :=
  let stackAt := fun off => match dst, src with
    | .stack a, _ => stackOf s0 (a + off)
    | _, .stack a => stackOf s0 (a + off)
    | _, _ => 2 * (k / 1344)
  let slot := slotOf (coreAt o.s k)
  let s1 := o.evs.foldl (fun s e =>
    modNmu s (stackAt e.1) (fun b => raiseEv b slot x.iter x.off n ⟨e.2.1 / 2 ^ 22 % 65536, e.2.1 / 64 % 65536, e.2.1 % 64, e.2.2⟩)) o.s
  let s2 := tallyFlags s1 k 4 (o.evs.foldl (fun f e => orFlags f e.2.2) noFlags)
  let s3 := modJob s2 k (fun j => { jobMeet (if o.failed.isEmpty then o.cond else worse o.cond stPartial) o.failed o.offs j with
    writing := true, amax := o.amax
    leaves := if dTag x = 0 then [] else match o.writes with | (_, bs) :: _ => leavesOf (dAux x) bs | [] => [] })
  dePuts (dcount s3 kNmuOperations 1) k dst o.rep o.writes

/-- Start an NMU command: its index check may still skip it with BOUNDS (R298). -/
def startNmu (s : State) (n k : Nat) (x : Cmd) (src dst : Loc) : State ⊕ State :=
  match numFmt s true (dFmt x) with
  | none => .inl s
  | some f =>
    let sz := nmuSize x f
    let cnt := dLen x / sz
    let who := Owner.de k
    match dNmu x with
    | 0 => .inl (nmuDeliver s n k x src dst (nmuReduce s who f.fmt src dst (dLen x)))
    | 3 => .inl (nmuDeliver s n k x src dst (nmuTransposeOut s who sz (dRows x) (dLow x) src))
    | 4 => .inl (nmuDeliver s n k x src dst (nmuConvertOut s who f src (dLen x)))
    | op =>
      match vecLoc k x (4 * cnt) with
      | none => .inl s
      | some vl =>
        let v := nmuIndices s who vl cnt
        let base := if op = 1 then dDst x else dSrc x
        if v.2.is.any (fun e => match e with | some (j, _) => !inStack base ((j + 1) * sz) | none => false) then .inr v.1
        else .inl (nmuDeliver v.1 n k x src dst
          (if op = 1 then nmuScatter v.1 who f.fmt src dst v.2 else nmuGatherOut v.1 who sz src dst v.2))

/-- The old value of the descriptor's atomic is back, or it is refused or unknown (R321). DEDUCED (log entry 54). -/
def atomicBack (s : State) (k old st : Nat) : State :=
  match (deAt s k).job with
  | none => s
  | some j =>
    if st = 0 || st = stPoison then
      modJob (modCore s k (fun c => storeWrite c (dSrc j.x + 16) (leBytes 8 old))) k (fun j =>
        jobMeet (if st = 0 then stOk else stPoison) [] (if st = 0 then [] else [0]) { j with written := 8 })
    else if st = 0x84 then dcount (modJob s k (fun j => { j with cond := worse j.cond stAtomicUnknown })) kAtomicsUnknown 1
    else modJob s k (jobMeet stPartial [2 ^ 72] [0])

/-- Start an ATOMIC (R303, R321). DEDUCED (log entry 57). -/
def startAtomic (s : State) (n k : Nat) (x : Cmd) (dst : Loc) : State :=
  let r := readLocal s (.de k) (.store k (dSrc x)) 0 16
  let bs := storeRead (coreAt r.1 k) (dSrc x) 16
  let a := leNat (bs.take 8)
  let cmp := leNat (bs.drop 8)
  let s1 := modJob r.1 k (fun j => jobMeet (segCond r.2) [] (segOffs r.2) { j with writing := true })
  match dst with
  | .stack ad => atomicPut s1 ⟨stackOf s1 ad, ad, dAop x, a, cmp, .de k, some n, ad⟩
  | .remote ad =>
    let q := issue s1 (fdOfCore k) (4 + dAop x) ad false bs (.deAtomic k)
    if q.2 = 0 then q.1 else atomicBack q.1 k 0 q.2
  | _ => atomicBack s1 k 0 stBounds

/-! ### Chains (R310–R312) -/

/-- Log an end of the DE, count a skip. DEDUCED (log entry 63). -/
def deLog (s : State) (k : Nat) (x : Cmd) (st : Nat) : State :=
  let s1 := if st = 0 then s else logEvent s k 3 st x.off x.iter
  let s2 := if isSkip st then tallySkip s1 k else s1
  let s3 := dcount s2 kDeBounds (b2n (st == stBounds))
  dcount s3 kEpochStaleSkips (b2n (st == stEpochStale))

/-- The chain ends: its own status is logged and the CHAIN posts (R312). Where reading the next entry ended it, with condition `met`
and `lines` failed lines, the report takes that entry's chain index (R311, R331). DEDUCED (log entry 63). -/
def chainEnd (s : State) (k : Nat) (ch : ChainSt) (cond : Nat) (met : Nat := 0) (lines : Nat := 0) : State :=
  let s1 := modDe s k (fun d => { d with chain := none, last := cond, rep :=
    if d.rep.isNone && met != 0 then some ⟨met, ch.x.off, ch.x.iter, ch.count, lines, 0⟩ else d.rep })
  let s2 := dcount (dcount (dcount s1 kDeDescriptors 1) kDePartial (b2n (cond == stPartial))) kDeFailedLines lines
  monSample (retire s2 k 3 ch.x cond) 1 0 (logicalOf s k) (timeNs s - ch.takenAt)

/-- An entry breaks the rules of R310 for tokens and class. -/
def entryBad (x : Cmd) : Bool := w0Class x.w0 != 2 || (w0Wait x.w0).2 != 0 || (w0Post x.w0).2 != 0

/-- Read chain entries until one is to be executed or the chain ends (structural in fuel; R311 bounds the entries). The entry after the last
counted one is logged and no entry of DE_CHAIN_SKIPS; a link counts not in DE_DESCRIPTORS. DESIGN CHOICE (log entry 155). -/
def chainGo : Nat → Nat → State → State
  | 0, _, s => s
  | fuel + 1, k, s =>
    match (deAt s k).chain with
    | none => s
    | some ch =>
      if ch.entry.isSome || (deAt s k).job.isSome || (deAt s k).stop then s
      else if (if ch.loc then 0x80000 else 2 ^ 40) < ch.at_ + 32 then
        chainEnd (logEvent s k 3 stBounds ch.x.off ch.x.iter) k ch (worse ch.cond stPartial) stPartial
      else
      let w := memReady s (if ch.loc then [] else [(ch.at_, 32)]) [] (.de k)
      if !w.2 then w.1
      else
        let r := readSeen w.1 ch.seen (.de k) (if ch.loc then .store k ch.at_ else .stack ch.at_) 0 32
        let bad := segCond r.2.2
        if bad != stOk then chainEnd r.1 k ch (worse ch.cond bad) bad (b2n (bad == stPartial))
        else
          let ch := { ch with seen := r.2.1 }
          let bs := (r.2.2.map (·.bytes)).flatten
          let w := fun i => BitVec.ofNat 64 (leNat ((bs.drop (8 * i)).take 8))
          let x : Cmd := { ch.x with w0 := w 0, w1 := w 1, w2 := w 2, w3 := w 3, bare := false, void := false }
          let skip := fun (s : State) (st : Nat) (ch : ChainSt) =>
            modDe (dcount (deLog s k ch.x st) kDeChainSkips 1) k (fun d => { d with chain := some ch })
          if w0Op x.w0 = 0 then chainEnd r.1 k ch ch.cond
          else if dget s kDeChainLimit ≤ ch.count then chainEnd (deLog r.1 k ch.x stIllegal) k ch ch.cond
          else
            let ch' := { ch with at_ := ch.at_ + 32, count := ch.count + 1 }
            let op := w0Op x.w0
            if op = 4 then
              match dSkip r.1 k x (entryBad x) with
              | some st => chainGo fuel k (skip r.1 st ch')
              | none => chainGo fuel k (modDe r.1 k (fun d => { d with chain := some { ch' with at_ := dSrc x, loc := dSrcL x } }))
            else if entryBad x || 6 < op then chainGo fuel k (skip r.1 ((dSkip r.1 k x true).getD stIllegal) ch')
            else modDe r.1 k (fun d => { d with chain := some { ch' with entry := some x } })

/-- Entries and the end of a chain that can be read now. -/
def chainRead (s : State) (k : Nat) : State := chainGo 65540 k s

/-- A descriptor is skipped: logged, counted, and posted or passed over in its chain (R18, R312). -/
def deSkip (s : State) (k : Nat) (x : Cmd) (cidx : Option Nat) (st : Nat) : State :=
  let s1 := deLog s k x st
  match cidx with
  | none => postCmd s1 k 3 x
  | some _ => chainRead (dcount s1 kDeChainSkips 1) k

/-- An operand in a core store wakes the cluster of its core (R441). -/
def wakeLoc (s : State) (l : Loc) : State := match l with | .store k' _ => touchCore s k' | _ => s

/-- Execute a descriptor (R309): checks, then its accesses. -/
def deStart (s : State) (n k : Nat) (x : Cmd) (cidx : Option Nat) : State :=
  match dSkip s k x with
  | some st => deSkip s k x cidx st
  | none =>
    let s1 := modDe s k (fun d => { d with job := some { x := x, cidx := cidx, takenAt := timeNs s } })
    if dEmpty x then
      modJob (dcount s1 kNmuOperations (b2n (w0Op x.w0 == 3))) k (fun j => { j with
        writing := true, amax := if w0Op x.w0 == 3 && dNmu x == 4 then some 0 else none })
    else if w0Op x.w0 = 5 then modJob s1 k (fun j => { j with writing := true })
    else match dLocs s k x with
      | none => s1
      | some (src, dst) =>
        let s2 := wakeLoc (wakeLoc s1 src) dst
        match w0Op x.w0 with
        | 3 => match startNmu s2 n k x src dst with
          | .inl s' => s'
          | .inr s' => deSkip (modDe s' k (fun d => { d with job := none })) k x cidx stBounds
        | 4 => chainRead (modDe s2 k (fun d => { d with job := none, chain := some { x := x, loc := dSrcL x, at_ := dSrc x, takenAt := timeNs s } })) k
        | 6 => startAtomic s2 n k x dst
        | _ => startCopy s2 k x src

/-- The bytes of a range of stack memory as they stand, without an access. -/
def peekStack (s : State) (a n : Nat) : List Byte := (((linesOf a n).flatMap (lineBytes s)).drop (a % 128)).take n

/-- The range of the index vector of a scatter-add or gather in stack memory, and the ranges that its indices name. DEDUCED (log entry 51). -/
def idxRanges (s : State) (k : Nat) (x : Cmd) : List (Nat × Nat) × List (Nat × Nat) :=
  match numFmt s true (dFmt x) with
  | none => ([], [])
  | some f =>
    let sz := nmuSize x f
    let n := 4 * (dLen x / sz)
    let base := if dNmu x = 1 then dDst x else dSrc x
    let named := fun bs => (chunks 4 bs).map (fun b => (base + leNat b * sz, sz))
    match vecLoc k x n with
    | some (.stack a) => ([(a, n)], named (peekStack s a n))
    | some (.store k' o) => ([], named (storeRead (coreAt s k') o n))
    | _ => ([], [])

/-- The ranges of stack memory that a descriptor reads and writes at once. A COPY writes once its source is read. -/
def deRanges (s : State) (k : Nat) (x : Cmd) (src dst : Loc) : List (Nat × Nat) × List (Nat × Nat) :=
  let rd := locRange (dExt s x).1 src
  let wr := locRange (dExt s x).2 dst
  match w0Op x.w0 with
  | 1 => (rd, [])
  | 3 =>
    if dNmu x = 1 then let v := idxRanges s k x; (rd ++ v.1, v.2)
    else if dNmu x = 2 then let v := idxRanges s k x; (v.1 ++ v.2, wr)
    else (rd, wr)
  | _ => ([], [])

/-- The ranges that an NMU command reads and then writes, in one turn (R303). -/
def rmwRanges (x : Cmd) (ws : List (Nat × Nat)) : List (Nat × Nat) := if w0Op x.w0 = 3 && dNmu x ≤ 1 then ws else []

/-- A descriptor may start: it is skipped, or the lines that it reads, and an NMU command's that it writes, can be accessed; one that adds to
its destination comes after every access that waits for the lines there (R303). DEDUCED (log entry 51). -/
def deReady (s : State) (k : Nat) (x : Cmd) : State × Bool :=
  if (dSkip s k x).isSome || dEmpty x then (s, true)
  else match dLocs s k x with
    | none => (s, true)
    | some (a, b) =>
      let r := deRanges s k x a b
      if (rmwRanges x r.2).any (fun q => s.held.any (fun h => overlap q.1 q.2 h.line 128)) then (s, false) else
      memReady s r.1 r.2 (.de k)

/-- The head of DQ waits for the lines that it accesses. DEDUCED (log entry 51). -/
def dqBusy (s : State) (k : Nat) (c : Core) : Bool := match c.dq with | x :: _ => !(deReady s k x).2 | [] => true

/-- The snoops that the head of DQ needs, if it waits for them (R361). -/
def dqPrep (s : State) (k : Nat) (mine : Cmd → Bool) : State :=
  let c := coreAt s k
  match c.dq with
  | x :: _ => if headReady c .dq && !x.void && mine x && dqBusy s k c then (deReady s k x).1 else s
  | [] => s

/-- A row of the DE: the next chain entry, or the head of DQ, when it is one of `mine` (R309). The chain index counts all entries
read, from 0. DEDUCED (log entry 50). DESIGN CHOICE (log entry 155). -/
def deRow (n : Nat) (mine : Cmd → Bool) (s0 : State) : State :=
  match keyOf s0 n with
  | none => s0
  | some k =>
    let s := chainRead s0 k
    let d := deAt s k
    if d.job.isSome || d.stop then s
    else match d.chain with
      | some ch =>
        match ch.entry with
        | some x =>
          if !mine x then s
          else if !(deReady s k x).2 then (deReady s k x).1
          else deStart (modDe s k (fun d => { d with chain := some { ch with entry := none } })) n k x (some (ch.count - 1))
        | none => s
      | none => engineRow n .dq mine dqBusy (fun e s => deStart s e.n e.k e.x none) (dqPrep s k mine)

/-- The descriptor's own opcode, or a reserved one, which any row skips. -/
def deMine (op : Nat) (x : Cmd) : Bool := w0Op x.w0 == op || 6 < w0Op x.w0
/-- The NMU operation, or a reserved one. -/
def nmuMine (op : Nat) (x : Cmd) : Bool := (w0Op x.w0 == 3 && (dNmu x == op || 4 < dNmu x)) || 6 < w0Op x.w0
/-- The atomic operation, or a reserved one. -/
def aopMine (op : Nat) (x : Cmd) : Bool := (w0Op x.w0 == 6 && (dAop x == op || 5 < dAop x)) || 6 < w0Op x.w0

/-! ### Completion (R317, R318, R324, R325, R329) -/

/-- Poison of the tiles of a core-store destination: a tile covered whole loses its poison where the descriptor ends well (R277), and a
descriptor that ends PARTIAL, CHECKSUM or POISON poisons every tile that it was to write (R324). -/
def deTiles (s : State) (k : Nat) (j : DeJob) (cond : Nat) : State :=
  match dTarget s k j.x with
  | none => s
  | some (k', o, ps) =>
    let ts := ps.foldl (fun a p => unionNat (tilesOf (o + p.1) p.2) a) []
    let whole := ts.filter (fun t => coverOf o t ps == 4096)
    let bad := cond == stPartial || cond == stChecksum || cond == stPoison
    let pois := if bad then ts else []
    let s1 := modCore s k' (fun c => whole.foldl (fun c t => modTile c t (fun m => { m with poison := m.poison && bad })) c)
    let s2 := modCore s1 k' (fun c => pois.foldl (fun c t => modTile c t (fun m => { m with poison := true })) c)
    notePoison s2 k 3 (pois.map (128 * k' + ·))

/-- The DE report (R331); FIRST_FAIL_OFFSET holds 32 bits of an offset. DEDUCED (log entry 63). -/
def deReport (d : De) (j : DeJob) (cond : Nat) : De :=
  if d.rep.isNone && (cond == stPartial || cond == stChecksum || cond == stPoison) then
    { d with rep := some ⟨cond, j.x.off, j.x.iter, j.cidx.getD 0xFFFFFFFF, j.failed.length, j.first.getD 0 % 2 ^ 32⟩ }
  else d

/-- Some access of the descriptor is under way. -/
def deBusyNow (s : State) (k : Nat) : Bool :=
  let me := Owner.de k
  deWaits s k false || s.held.any (fun h => h.who == me) || s.atomics.any (fun a => a.who == me) || s.snoops.any (fun n => n.who == me)

/-- Hand the leaves of a tagged descriptor to the colophon (R329); one for another package leaves within the epoch of its launch, or not at
all (R427). DEDUCED (log entry 84). -/
def deLeaves (s : State) (k : Nat) (j : DeJob) (cond : Nat) : State :=
  let bind := bindOf (coreAt s k)
  let bad := cond == stPartial || cond == stChecksum || cond == stPoison
  dcount (j.leaves.foldl (fun s l =>
    let x := match bind with | some (c, _) => ctxAt s c | none => {}
    let own := x.ownerBase + ownerOf x l.1
    let reach := !epochStale s k && s.epochAdv.isNone && match resolve s (fdOfCore k) (2 ^ 63 + own * 2 ^ 46) with | .inl p => p == ownPkg s || !(routePorts s p).isEmpty | .inr _ => false
    handLeaf s bind (dTag j.x - 1) l.1 l.2 bad reach) s) kDeTaggedLeaves j.leaves.length

/-- Finish the descriptor in execution. -/
def deFinish (s : State) (k : Nat) (j : DeJob) : State :=
  let c0 := if j.failed.isEmpty then j.cond else worse j.cond stPartial
  let cond := if w0Op j.x.w0 = 5 || dEmpty j.x then c0 else internalCond s k c0
  let s1 := deLeaves (deTiles s k j cond) k j cond
  let s2 := match j.amax with
    | some a => modCore s1 k (fun c => { c with amax := BitVec.ofNat 64 (amaxTap c.amax [fdecode .fp64 a]) })
    | none => s1
  let s3 := modDe s2 k (fun d => { deReport d j cond with job := none, last := cond, stopped := d.stop })
  let s4 := dcount (dcount (dcount (dcount s3 kDeDescriptors 1) kDeBytes j.written) kDePartial (b2n (cond == stPartial)))
    kDeFailedLines j.failed.length
  match j.cidx with
  | none => monSample (retire s4 k 3 j.x cond) 1 0 (logicalOf s k) (timeNs s - j.takenAt)
  | some _ =>
    let s4 := tallyUnits s4 k 3
    let s5 := if cond = stOk then s4 else logEvent s4 k 3 cond j.x.off j.x.iter
    chainRead (modDe s5 k (fun d => { d with chain := d.chain.map (fun ch => { ch with cond := worse ch.cond cond }) })) k

/-! ### Rows -/

/-- COPY (R316). -/
def execCopy (n : Nat) (s : State) : Host.Outcome State Fault Refusal := whenUp s (deRow n (deMine 1) s)
/-- COPY_T (R326). -/
def execCopyT (n : Nat) (s : State) : Host.Outcome State Fault Refusal := whenUp s (deRow n (deMine 2) s)
/-- NMU reduce-add (R297). -/
def execNmuReduceAdd (n : Nat) (s : State) : Host.Outcome State Fault Refusal := whenUp s (deRow n (nmuMine 0) s)
/-- NMU scatter-add (R298). -/
def execNmuScatterAdd (n : Nat) (s : State) : Host.Outcome State Fault Refusal := whenUp s (deRow n (nmuMine 1) s)
/-- NMU gather (R298). -/
def execNmuGather (n : Nat) (s : State) : Host.Outcome State Fault Refusal := whenUp s (deRow n (nmuMine 2) s)
/-- NMU transposition (R299). -/
def execNmuTransposition (n : Nat) (s : State) : Host.Outcome State Fault Refusal := whenUp s (deRow n (nmuMine 3) s)
/-- NMU conversion (R300). -/
def execNmuConversion (n : Nat) (s : State) : Host.Outcome State Fault Refusal := whenUp s (deRow n (nmuMine 4) s)
/-- CHAIN (R310). -/
def execChain (n : Nat) (s : State) : Host.Outcome State Fault Refusal := whenUp s (deRow n (deMine 4) s)
/-- FENCE: descriptors run one after another here, so every earlier access has completed (R320). DEDUCED (log entry 50). -/
def execFence (n : Nat) (s : State) : Host.Outcome State Fault Refusal := whenUp s (deRow n (deMine 5) s)
/-- ATOMIC, IADD (R321). -/
def execDqAtomicIadd (n : Nat) (s : State) : Host.Outcome State Fault Refusal := whenUp s (deRow n (aopMine 0) s)
/-- ATOMIC, FADD (R321). -/
def execDqAtomicFadd (n : Nat) (s : State) : Host.Outcome State Fault Refusal := whenUp s (deRow n (aopMine 1) s)
/-- ATOMIC, MIN (R321). -/
def execDqAtomicMin (n : Nat) (s : State) : Host.Outcome State Fault Refusal := whenUp s (deRow n (aopMine 2) s)
/-- ATOMIC, MAX (R321). -/
def execDqAtomicMax (n : Nat) (s : State) : Host.Outcome State Fault Refusal := whenUp s (deRow n (aopMine 3) s)
/-- ATOMIC, SWAP (R321). -/
def execDqAtomicSwap (n : Nat) (s : State) : Host.Outcome State Fault Refusal := whenUp s (deRow n (aopMine 4) s)
/-- ATOMIC, CAS (R321). -/
def execDqAtomicCas (n : Nat) (s : State) : Host.Outcome State Fault Refusal := whenUp s (deRow n (aopMine 5) s)

/-- DE_DESCRIPTOR_COMPLETE: every access of the descriptor is complete (R318); one whose writes waited for their lines proceeds to them. -/
def execDeDescriptorComplete (n : Nat) (s : State) : Host.Outcome State Fault Refusal :=
  whenUp s (match keyOf s n with
    | none => s
    | some k =>
      match (deAt s k).job with
      | none => s
      | some j => if !j.writing then deNext s k else if !deBusyNow s k then deFinish s k j else s)

end Sys2Proof.Machine
end

