-- ==== Sys2Proof/Machine/HCache.lean ====
section
/-! DEFINITION. The caches of the H-die (R29, R533, R534, R359): where a line is kept, and how it leaves. -/
namespace Sys2Proof.Machine
open Sys2Proof Config

/-- Global address of a line of another package of the board that the H-die caches, by its key. -/
def keyAddr (key : Nat) : Nat := 2 ^ 62 + 128 * key % 2 ^ 50

/-- A line leaves the H-die caches: a modified one is written back, to this package's stacks or to its home over the fabric; one of
host memory goes back to the host (R361, R533, R548). DESIGN CHOICE (log entry 113, 135). -/
def hEvict (s : State) (key : Nat) : State :=
  let l := hLine s key
  let t := hdieDrop (if l.dirty then lineWords s key (List.range 16) else s) key
  if key < 2 ^ 33 then
    let u := agentEvict t (128 * key) (ownAgent s)
    if l.dirty then lineBack u (128 * key) l.bytes (l.bad != 0) (.hart l.hart) else u
  else if key < 3 * 2 ^ 47 && l.dirty then
    let r := issue t 0 fkWrite (keyAddr key) (l.bad != 0) l.bytes (.hartStore l.hart (128 * key)) 3
    if r.2 = 0 then r.1 else hartAsync r.1 l.hart (128 * key) r.2
  else t

/-- A way that takes no line: disabled, or awaiting its proof pass (R534). -/
def wayOut (s : State) (key way : Nat) : Bool :=
  let u := wayUnit key way
  (match u with | .hdieWay b => bitOf (dget s kHdieWaysDisabled) b | _ => false) || s.proofs.any (fun p => p.1 == u)

/-- The ways of a hart's cache `a` (0 L1 instruction, 1 L1 data, 2 L2) that take lines (R533, R534). -/
def ownWays (s : State) (h a : Nat) : List Nat :=
  ((if a = 2 then (List.range 8).map (8 + ·) else (List.range 4).map (4 * a + ·)).map (16 + 16 * h + ·)).filter (fun w => !wayOut s 0 w)

/-- Where a line stands that no way takes: it serves the access that brought it. DESIGN CHOICE (log entry 90). -/
abbrev noWay : Nat := 2048

/-- Ways that take a line of a hart: those of its half, while the half is ON; else those of the hart's own L2 (R533, R534). DESIGN CHOICE (log entry 90). -/
def cacheWays (s : State) (half h : Nat) : List Nat :=
  let on := if (domAt s (504 + half)).st = 2 then (List.range 16).filter (fun w => !wayOut s half w) else []
  let own := if on.isEmpty then ownWays s h 2 else on
  if own.isEmpty then [noWay] else own

/-- Lines that a way holds: 48 MiB in 16 ways, 64 KiB of an L1 in 4, or 1 MiB of a hart's L2 in 8 (R533). DESIGN CHOICE (log entry 90). -/
def wayRoom (w : Nat) : Nat := if w < 16 then 24576 else if w = noWay then 1 else if (w - 16) % 16 < 8 then 128 else 1024

/-- A hart's own cache takes a copy of a line in the first of its ways with room; with none, a copy there leaves for it (R533). DESIGN CHOICE (log entry 90). -/
def nearAdd (s : State) (h a key : Nat) : State :=
  let all := (List.range 16).map (16 + 16 * h + ·)
  let mine := all.filter (fun w => if a = 2 then 8 ≤ (w - 16) % 16 else (w - 16) % 16 / 4 == a)
  let ws := ownWays s h a
  let l := hLine s key
  if l.near.any (fun c => mine.contains c.way) then s
  else
    let put := fun (s : State) (w : Nat) => hdieMod s key (fun l => { l with near := l.near ++ [{ way := w, bad := l.bad }] })
    match ws.find? (fun w => (s.hcache.filter (fun x => x.2.near.any (fun c => c.way == w))).length < wayRoom w) with
    | some w => put s w
    | none =>
      match ws with
      | [] => s
      | w :: _ =>
        match s.hcache.find? (fun x => x.2.near.any (fun c => c.way == w)) with
        | some v => put (hdieMod s v.1 (fun l => { l with near := l.near.filter (fun c => c.way != w) })) w
        | none => s

/-- The copy from which a hart's access reads: that of its L1, or else of its L2. -/
def nearCopy (l : HLine) (h a : Nat) : Option HCopy :=
  match l.near.find? (fun c => c.way / 16 == h + 1 && (c.way % 16) / 4 == a) with
  | some c => some c
  | none => l.near.find? (fun c => c.way / 16 == h + 1 && 8 ≤ c.way % 16)

/-- A line is kept in the first of its ways with room; with none, a line in one of them leaves for it. DESIGN CHOICE (log entry 90). -/
def hInsert (s : State) (key : Nat) (l : HLine) : State :=
  let half := key % 2
  let ws := cacheWays s half l.hart
  let mine := fun (x : Nat × HLine) => !x.2.bytes.isEmpty && (16 ≤ x.2.way || x.1 % 2 == half)
  match ws.find? (fun w => (s.hcache.filter (fun x => mine x && x.2.way == w)).length < wayRoom w) with
  | some w => hdieMod s key (fun _ => { l with way := w })
  | none =>
    match s.hcache.find? (fun x => mine x && ws.contains x.2.way) with
    | some v => hdieMod (hEvict s v.1) key (fun _ => { l with way := v.2.way })
    | none => s

end Sys2Proof.Machine
end

