-- ==== Sys2Proof/Machine/Fabric.lean ====
section
/-! DEFINITION. The fabric's rows (R333–R372): arrival of flits, service at the home, replies at the issuer, snoops, link
retry, training, timeouts, replay, hot lines, the transport beyond the chassis and the translation table. -/
namespace Sys2Proof.Machine
open Sys2Proof Config

/-! ### Arrival -/

/-- Age of a request in ns (R353). -/
def ageNs (s : State) (f : Flit) : Nat := (timeNs s / 1024 + 65536 - fIssue f) % 65536 * 1024
/-- The request has outlived REQUEST_LIFETIME. -/
def tooOld (s : State) (f : Flit) : Bool := isRequest (fKind f) && dget s kRequestLifetime < ageNs s f

/-- Receiving state of the transport for a source (R372). -/
def sysRxAt (s : State) (p : Nat) : SysRx := tblGet (fun _ => {}) s.sysRx p

/-- Advance the lowest undelivered SEQ over those delivered (structural in the window). -/
def lowGo : Nat → Nat → List Nat → Nat × List Nat
  | 0, low, got => (low, got)
  | n + 1, low, got => if got.contains low then lowGo n ((low + 1) % 2 ^ 24) (got.filter (· != low)) else (low, got)

/-- A flit from another chassis passes the receiver of R372, that of F-die (source CHASSIS mod 2), which holds 16,384 sources: false when it is
discarded; SYS_ACK returns but where there is no room for the source. -/
def sysReceive (s : State) (f : Flit) : State × Bool :=
  let src := fSrc f
  let known := s.sysRx.any (fun x => x.1 == src)
  let mine := s.sysRx.filter (fun x => pChassis x.1 % 2 == pChassis src % 2)
  let old := mine.filter (fun x => x.2.last + dget s kReplyTimeout < timeNs s)
  if !known && 16384 ≤ mine.length && old.isEmpty then (s, false)
  else
    let s0 := if !known && 16384 ≤ mine.length then
        match old with | x :: _ => { s with sysRx := s.sysRx.filter (fun y => y.1 != x.1) } | [] => s
      else s
    let r := sysRxAt s0 src
    let d : Nat := (fSeq f + 2 ^ 24 - r.low) % 2 ^ 24
    let fresh := decide (d ≤ 4096) && !r.got.contains (fSeq f)
    let lg := if fresh then lowGo 4097 r.low (fSeq f :: r.got) else (r.low, r.got)
    let s1 := { s0 with sysRx := tblSet (fun _ => {}) s0.sysRx src ⟨lg.1, lg.2, timeNs s⟩ }
    let s2 := dcount s1 kSysDuplicates (b2n (!fresh))
    (post s2 (mkFlit 2 fkSysAck (fEpoch f) src (ownPkg s) false 0 0 lg.1 (issueT (timeNs s)) []) (pChassis src % 2), fresh)

/-- The filters of a flit that the link has received (R339, R345, R353, R366, R372): one for another package is forwarded, one that
fails a filter is dropped and counted, and any other is served. -/
def flitFilter (s : State) (p : Nat) (f : Flit) : State × Option Flit :=
  let drop := fun (s : State) (k : Nat) => (creditBack (dcount s k 1) p f, none)
  if malformed f then drop s kFlitsMalformed
  else if fDst f != ownPkg s then
    if tooOld s f then drop s kLifetimeDrops else ((emit s f (p / 32) (some p)).1, none)
  else if fKind f != fkSysAck && !(fkSnpInv ≤ fKind f && fKind f ≤ fkSnpData) && fEpoch f != dget s kJobEpoch then
    drop s kEpochDrops
  else
    let far := pChassis (fSrc f) != pChassis (ownPkg s) && fKind f != fkSysAck
    let r := if far then sysReceive s f else (s, true)
    if !r.2 then (creditBack r.1 p f, none)
    else if tooOld s f then drop r.1 kLifetimeDrops
    else (r.1, some f)

/-- The LSEQ that a port takes next: that of the flit that failed, or the next in order (R334). -/
def awaited (x : Port) : Nat := x.bad.getD x.rxNext

/-- A flit arrives at a port (R334, R344): one that fails its CRC is discarded, and so is every other until its LSEQ comes again; one
in order acknowledges and returns credits, and the flits that waited for them leave. The credits of the flit itself return where it is
dropped; one that is forwarded takes them with it until it leaves, and the row of one that is served returns them. DEDUCED (log entry 64). -/
def arrive (s : State) (p : Nat) (f : Flit) : State × Option Flit :=
  if !portUp s p || 64 ≤ p then (s, none)
  else
    let s0 := dcount s kFecCorrected f.fec
    if !crcOk f then (modPort s0 p (fun x => { x with bad := some x.rxNext }), none)
    else if tLseq f.trailer != awaited (portAt s p) then (s0, none)
    else
      let b := bufferCheck s0 p (fVl f)
      if b.2 then (modPort b.1 p (fun x => { x with bad := some x.rxNext }), none)
      else flitFilter (drainOut (modPort b.1 p (fun x => linkAccept x f.trailer))) p { f with trailer := 0, fec := 0 }

/-- A row of one flit kind: a flit of another kind leaves the state to that kind's row; a malformed one is dropped here. The buffer of
the flit is free once it is served. -/
def flitRow (kind p : Nat) (f : Flit) (s : State) (h : State → Flit → State) : State :=
  if fKind f != kind && !malformed f then s
  else match arrive s p f with
    | (s', some g) => h (creditBack s' p g) g
    | (s', none) => s'

/-! ### Service at the home (R350, R351) -/

/-- Place that a request's address names at its home, or the status that refuses it (R346, R347, R349). DESIGN CHOICE (log entry 134). -/
def homeLoc (s : State) (a n : Nat) : Loc ⊕ Nat :=
  let pk := fun o => match pkgLoc s o n with | some l => Sum.inl l | none => .inr stBounds
  match spaceOf a with
  | 0 => .inr stBounds
  | 1 => if bitsOf a 61 50 = 0 ∧ bitsOf a 49 48 = dget s kPackagePosition % 4 then pk (a % 2 ^ 48) else .inr stBounds
  | 2 =>
    if bitsOf a 61 46 != dget s kOwnLogicalId || dget s kOwnLogicalId == 0xFFFF then .inr 0x81 else pk (a % 2 ^ 46)
  | _ =>
    if !(phase s == phStart || phase s == phTest || phase s == phRecovery) then .inr stPhase
    else if coordOf a / 2 ^ 14 != ownPkg s then .inr stBounds
    else
      let die := bitsOf (coordOf a) 13 11
      let u := coordOf a % 2048
      match unitKind die u with
      | none => .inr stBounds
      | some kd =>
        if !unitWindow kd (a % 2 ^ 30) n || (s.grade == 3 && kd == 1) then .inr stBounds
        else .inl (unitLoc die u kd (a % 2 ^ 30))

/-- Queue a reply and let it leave if nothing holds it. -/
def answer (s : State) (who : Owner) (f : Flit) : State := flushReplies { s with replies := s.replies ++ [(who, f)] }

/-- An access to a core store or its control blocks wakes the cluster. -/
def touchLoc (s : State) : Loc → State
  | .store k _ => touchCore s k
  | _ => s

/-- READ of a place outside stack memory. The F-die of the port by which it came serves it. DEDUCED (log entry 68). DESIGN CHOICE (log entry 147). -/
def homeRead (s0 : State) (fd : Nat) (f : Flit) (l : Loc) : State :=
  let who := Owner.home fd f
  let r := readLocal (touchLoc s0 l) who l 0 128
  let c := segCond r.2
  if r.2.any (fun g => g.st == 2) then answer r.1 who (reply s0 f fkReadResp 0x83 false (List.replicate 128 0))
  else answer r.1 who (reply s0 f fkReadResp c (c != stOk) (r.2.map (·.bytes)).flatten)

/-- A masked write of a place outside stack memory: its status. One that meets part of a control word, or a closed one, is refused
whole (R112, R350). DEDUCED (log entry 67). -/
def homeWriteAt (s : State) (who : Owner) (l : Loc) (bs : List (Option Byte)) (poison : Bool) : State × Nat :=
  match l with
  | .store k _ =>
    let w := writeLocal s who l 0 (bs.map (fun b => b.map (fun x => (x, poison)))) false
    if !w.failed.isEmpty then (w.s, 0x83)
    else (if poison then modCore w.s k (fun c => modTile c (locAddr l / 4096) (fun m => { m with poison := true })) else w.s, stOk)
  | .ctl q =>
    let bad := (idx (chunks 8 bs)).any (fun w => w.2.any Option.isSome && (!w.2.all Option.isSome || locClosed s 8 (ctlAdd (8 * w.1) q)))
    if bad then (s, stBounds)
    else
      let w := writeLocal s who l 0 (bs.map (fun b => b.map (fun x => (x, false)))) false
      (w.s, if w.failed.isEmpty then stOk else 0x83)
  | _ => (s, stBounds)

/-- Bytes that a WRITE or WRITE_MASK enables. -/
def flitMask (f : Flit) : List (Option Byte) :=
  if fKind f = fkWrite then f.payload.map some
  else
    let m := leNat (f.payload.drop 128)
    (idx (f.payload.take 128)).map (fun p => if bitOf m p.1 then some p.2 else none)

/-- WRITE or WRITE_MASK of a place outside stack memory. -/
def homeWrite (s0 : State) (fd : Nat) (f : Flit) (l : Loc) : State :=
  let who := Owner.home fd f
  let r := homeWriteAt (touchLoc s0 l) who l (flitMask f) (fPoison f)
  answer r.1 who (reply s0 f fkWriteAck r.2 false [])

/-- The write that a reply acknowledges has failed (R351). -/
def replyFailed (s : State) (who : Owner) : State :=
  { s with replies := s.replies.map (fun x => if x.1 == who then (x.1, { x.2 with w1 := BitVec.ofNat 64 (0x83 * 2 ^ 56) }) else x) }

/-! ### Requests for lines (R356, R357, R360–R362, R369) -/

/-- The agent that sent a request (R359). -/
def agentOf (f : Flit) : Nat := 2 * (fSrc f % 4)

/-- Line of stack memory that a request names. -/
def lineOf (s : State) (f : Flit) : Option Nat :=
  match homeLoc s f.w1.toNat (if 4 ≤ fKind f then 8 else 128) with
  | .inl (.stack a) => some (a / 128 * 128)
  | _ => none

/-- READ of a line: an agent's, or any other, with the snoops that it needs; false while they are under way (R361). DEDUCED (log entry 68). DESIGN CHOICE (log entry 135). -/
def lineRequest (s : State) (fd la : Nat) (f : Flit) : State × Bool :=
  let who := Owner.home fd f
  let t := if spaceOf f.w1.toNat = 1 ∧ (f.co = 1 ∨ f.co = 2) then agentRead s la (agentOf f) (f.co == 2) who else dirAccess s la false who
  if !dirIdle t [(la, 128)] || readsBehind s (la, 128) then (t, false)
  else
    let r := lineFrom t la who
    let fl := if r.2.2 = 2 then reply s f fkReadResp 0x83 false (List.replicate 128 0)
      else reply s f fkReadResp (if r.2.2 = 1 then stPoison else stOk) (r.2.2 == 1) r.2.1
    (answer r.1 who fl, true)

/-- A run of writes of one line: combined into one line write, held or performed, whose result is that of the writes one by one, each with
its own acknowledgement after it (R350, R369, R373); false while the snoops that it needs are under way. Writes that must wait are held one
by one, and combined when they proceed. DESIGN CHOICE (log entry 72). -/
def lineWrites (s : State) (fd la : Nat) (f0 : Flit) (more : List Flit) : State × Bool :=
  let fs := f0 :: more
  let who := Owner.home fd f0
  let ms := fs.map (fun f => (flitMask f, fPoison f))
  let ack := fun (s : State) (st : Nat) =>
    (fs.foldl (fun s f => answer s who (reply s f fkWriteAck st false [])) (dcount s kWritesCombined more.length), true)
  match writeWaits s la with
  | some k =>
    (fs.foldl (fun s f =>
      answer { s with held := s.held ++ [{ line := la, bytes := flitMask f, poison := fPoison f, who := .home fd f, kind := k }] } (.home fd f)
        (reply s f fkWriteAck stOk false [])) s, true)
  | none =>
    let t := dirAccess s la true who
    if !dirIdle t [(la, 128)] then (t, false)
    else
      let w := putRun t la ms who
      ack w.1 (if w.2 then 0x83 else stOk)

/-- The write-back of a line by an agent that gives it up (R361): it waits for no other request of the line. DESIGN CHOICE (log entry 135). -/
def agentWriteBack (s : State) (fd la : Nat) (f : Flit) : State :=
  let w := writeLine (agentEvict s la (agentOf f)) la (flitMask f) (fPoison f) (.home fd f)
  answer w.1 (.home fd f) (reply s f fkWriteAck (if w.2 then 0x83 else stOk) false [])

/-- Entries of an F-die's replay table. -/
def replaySize (s : State) (fd : Nat) : Nat := (s.replay.filter (fun r => r.fd == fd)).length

/-- Payload of ATOMIC_RESP. -/
def oldBytes (v : Nat) : List Byte := leBytes 8 v ++ leBytes 8 0

/-- An atomic at its home F-die (R356): one whose key the table holds takes the saved reply, once there is one; a new one takes an entry
and goes to its NMU, or is refused, its refusal being saved. False while it waits, for the reply or for an entry (R357). -/
def atomicEnter (s : State) (fd : Nat) (f : Flit) : State × Bool :=
  let n := fun r => (⟨fd, fSrc f, fTag f, timeNs s + dget s kReplyTimeout, r⟩ : Replay)
  let refuse := fun st => (post { s with replay := s.replay ++ [n (some (0, st))] } (reply s f fkAtomicResp st false (oldBytes 0)) fd, true)
  match s.replay.find? (fun r => r.fd == fd && r.src == fSrc f && r.tag == fTag f) with
  | some r =>
    match r.reply with
    | some (old, st) => (post (dcount s kReplayHits 1) (reply s f fkAtomicResp st (st == stPoison) (oldBytes old)) fd, true)
    | none => (s, false)
  | none =>
    if dget s kReplayEntries ≤ replaySize s fd then (s, false)
    else match homeLoc s f.w1.toNat 8 with
      | .inl (.stack a) =>
        (atomicPut { s with replay := s.replay ++ [n none] }
          ⟨stackOf s a, a, fKind f - 4, leNat (f.payload.take 8), leNat (f.payload.drop 8), .home fd f, none, a⟩, true)
      | .inl _ => refuse stBounds
      | .inr st => refuse st

/-- Take from a queue the writes of a line up to its next READ or atomic: those, and the rest of the queue. DESIGN CHOICE (log entry 72). -/
def takeRun (s : State) (la : Nat) : List Ingress → List Ingress × List Ingress
  | [] => ([], [])
  | g :: t =>
    if lineOf s g.f != some la then let r := takeRun s la t; (r.1, g :: r.2)
    else if fKind g.f = 2 ∨ fKind g.f = 3 then let r := takeRun s la t; (g :: r.1, r.2)
    else ([], g :: t)

/-- A request whose attempts on the F-to-F link are exhausted is a failed line; the line of a write whose data is lost takes the marker
(R291, R460). DESIGN CHOICE (log entry 147). -/
def crossFailed (s : State) (g : Ingress) (e : Nat) : State :=
  if 4 ≤ fKind g.f then post s (reply s g.f fkAtomicResp 0x85 false (oldBytes 0)) g.fd
  else if fKind g.f = 1 then post s (reply s g.f fkReadResp 0x83 false (List.replicate 128 0)) g.fd
  else
    let t := match lineOf s g.f with
      | some la => if e = 1 then (writeLine s la (List.replicate 128 none) true (.home g.fd g.f)).1 else s
      | none => s
    answer t (.home g.fd g.f) (reply s g.f fkWriteAck 0x83 false [])

/-- Serve a waiting request: the state, the requests served with it and the rest of the queue, or that it waits. -/
def ingressServe (s : State) (g : Ingress) (rest : List Ingress) : State × Bool × List Ingress × List Ingress :=
  let one := fun (r : State × Bool) => (r.1, r.2, [g], rest)
  let x := routeTry s (fabRoute (8 + g.port / 32) g.fd)
  if x.2 != 0 then one (crossFailed x.1 g x.2, true)
  else let s := x.1
  if 4 ≤ fKind g.f then one (atomicEnter s g.fd g.f)
  else match homeLoc s g.f.w1.toNat 128 with
    | .inl (.stack la) =>
      if !stackFree s (stackOf s la) || !dirIdle s [(la, 128)] then one (s, false)
      else if fKind g.f = 1 then one (lineRequest s g.fd la g.f)
      else
        let r := takeRun s la rest
        let old := r.1.filter (fun h => tooOld s h.f)
        let w := lineWrites s g.fd la g.f ((r.1.filter (fun h => !tooOld s h.f)).map (·.f))
        if w.2 then (dcount w.1 kLifetimeDrops old.length, true, g :: r.1, r.2) else (w.1, false, [g], rest)
    | .inl l => one (if fKind g.f = 1 then homeRead s g.fd g.f l else homeWrite s g.fd g.f l, true)
    | .inr st => one (post s (if fKind g.f = 1 then reply s g.f fkReadResp st false (List.replicate 128 0) else reply s g.f fkWriteAck st false []) g.fd, true)

/-- One pass over the queue, in order: a request waits behind an earlier one of its line (structural in fuel). -/
def ingressGo : Nat → State → List Ingress → List Ingress → State × List Ingress
  | 0, s, kept, q => (s, kept ++ q)
  | _, s, kept, [] => (s, kept)
  | n + 1, s, kept, g :: q =>
    if tooOld s g.f then ingressGo n (creditBack (dcount s kLifetimeDrops 1) g.port g.f) kept q
    else if kept.any (fun h => h.fd == g.fd && (lineOf s h.f).isSome && lineOf s h.f == lineOf s g.f) then ingressGo n s (kept ++ [g]) q
    else
      let r := ingressServe s g q
      if r.2.1 then ingressGo n (r.2.2.1.foldl (fun s h => creditBack s h.port h.f) r.1) kept r.2.2.2
      else ingressGo n r.1 (kept ++ [g]) q

/-! ### Segments that are passed on (R376, R397) -/

/-- The ECC of the sequencer's staging buffer over what it takes for core `k`: a correctable word is corrected and counted, an uncorrectable
one is delivered poisoned (R460). DESIGN CHOICE (log entry 147). -/
def stagingCheck (s : State) (k : Nat) : State × Bool :=
  match tblGet (fun _ => 0) s.bufErr (320 + k) with
  | 0 => (s, false)
  | e =>
    let fd := fdOfCore k
    (detect { s with bufErr := tblSet (fun _ => 0) s.bufErr (320 + k) 0 } 0x0B (unitCoord s fd 0x7E0) 0 (.fdieMacro fd), e == 2)

/-- A WRITE of another package into staging is remembered until the SEG_DONE of its segment (R396, R397). DESIGN CHOICE (log entry 140). -/
def noteLanding (s : State) (la : Nat) (f : Flit) : State :=
  let b := dget s kStagingBase
  if fKind f != 2 && fKind f != 3 || fSrc f == ownPkg s || la < b || b + dget s kStagingSize ≤ la then s
  else match s.landed.find? (fun x => x.src == fSrc f && x.base + 128 * x.lines == la) with
    | some x => { s with landed := s.landed.map (fun y => if y == x then { y with lines := y.lines + 1 } else y) }
    | none => { s with landed := s.landed ++ [⟨fSrc f, la, 1⟩] }

/-- A segment leaves for the next package: its line writes, and SEG_DONE when they are acknowledged (R376, R397). DESIGN CHOICE (log entry 140). -/
def relaySeg (w : RelayWait) (bs : List FB) (s : State) (l : Nat) : State :=
  let r := freeBytes s 8
  let base := 2 ^ 63 + l * 2 ^ 46 + leNat r.2 % 2 ^ 33 * 128
  let o := writeRemote r.1 (match w.core with | some k => fdOfCore k | none => 0) base 0 bs false (fun _ => .relay w.id w.inst w.seg)
  { o.s with relays := o.s.relays ++ [⟨w.id, w.inst, w.rop, l, w.seg, (linesOf base bs.length).length, badFB bs, !o.failed.isEmpty⟩] }

/-- The bytes of a segment to be passed on, once its lines can be read (R283, R293, R361); free ones where its place is not known. DESIGN CHOICE (log entry 140). -/
def relayRead (s : State) (w : RelayWait) : State × Option (List FB) :=
  match w.place with
  | none => let r := freeBytes s w.len; (r.1, some (r.2.map (fun b => some (b, w.poison))))
  | some (loc, a) =>
    let who := match w.core with | some k => Owner.coll k | none => .nobody
    let m := if loc then (s, true) else memReady s [(a, w.len)] [] who
    if !m.2 then (m.1, none)
    else match nmuLoc (w.core.getD 0) loc true a w.len with
      | none => (m.1, some [])
      | some l =>
        let r := readLocal m.1 who l 0 w.len
        let e := match w.core with | some k => stagingCheck r.1 k | none => (r.1, false)
        (e.1, some (flatten w.len (r.2.map (fun g => if g.st = 2 || e.2 then { g with st := 1 } else g))))

/-- Every segment that waits to be passed on leaves, if its bytes can be read. -/
def relayGo (s : State) : State :=
  s.relayQ.foldl (fun s w =>
    match relayRead s w with
    | (s, none) => s
    | (s, some bs) => w.dests.foldl (relaySeg w bs) { s with relayQ := s.relayQ.erase w }) s

/-- The requests that wait at their home F-dies are served, those that can be, and the segments that wait to be passed on leave (R357,
R360, R369, R397). DEDUCED (log entry 139). -/
def drainIngress (s0 : State) : State :=
  let s := relayGo s0
  if s.ingress.isEmpty then s
  else
    let r := ingressGo (s.ingress.length + 1) { s with ingress := [] } [] s.ingress
    { r.1 with ingress := r.2 }

/-- A request arrives at its home: it takes its place among those that wait for their lines, in the queue of hot lines where its
line is hot (R368), and is served as soon as it can be. DEDUCED (log entry 139). -/
def homeRequest (s : State) (p : Nat) (f : Flit) : State :=
  let fd := match lineOf s f with | some la => homeFd s la | none => p / 32
  let h := hotTouch s fd false (f.w1.toNat / 128)
  match lineOf s f with
  | some la =>
    if fKind f = 2 ∧ f.co = 3 then agentWriteBack (creditBack h.1 p f) fd la f
    else
      let t := noteLanding h.1 la f
      drainIngress { t with ingress := t.ingress ++ [⟨fd, p, h.2, f⟩] }
  | none => drainIngress { h.1 with ingress := h.1.ingress ++ [⟨fd, p, h.2, f⟩] }

/-- A row of requests. -/
def requestRow (kind p : Nat) (f : Flit) (s : State) : State :=
  if fKind f != kind && !malformed f then s
  else match arrive s p f with
    | (s', some g) => homeRequest s' p g
    | (s', none) => s'

/-- ATOMIC_IADD flit (R356). -/
def execAtomicIadd (port : Nat) (f : Flit) (s : State) : Host.Outcome State Fault Refusal := whenUp s (requestRow 4 port f s)
/-- ATOMIC_FADD flit (R356). -/
def execAtomicFadd (port : Nat) (f : Flit) (s : State) : Host.Outcome State Fault Refusal := whenUp s (requestRow 5 port f s)
/-- ATOMIC_MIN flit (R356). -/
def execAtomicMin (port : Nat) (f : Flit) (s : State) : Host.Outcome State Fault Refusal := whenUp s (requestRow 6 port f s)
/-- ATOMIC_MAX flit (R356). -/
def execAtomicMax (port : Nat) (f : Flit) (s : State) : Host.Outcome State Fault Refusal := whenUp s (requestRow 7 port f s)
/-- ATOMIC_SWAP flit (R356). -/
def execAtomicSwap (port : Nat) (f : Flit) (s : State) : Host.Outcome State Fault Refusal := whenUp s (requestRow 8 port f s)
/-- ATOMIC_CAS flit (R356). -/
def execAtomicCas (port : Nat) (f : Flit) (s : State) : Host.Outcome State Fault Refusal := whenUp s (requestRow 9 port f s)

/-! ### Atomics at their NMU (R303) -/

/-- Give an atomic's result to whoever waits for it. -/
def atomicGive (s : State) (q : AtomicOp) (old st : Nat) : State :=
  match q.who with
  | .de k => atomicBack s k old st
  | .hart h => hartDone s h q.pa old st 7
  | .home fd f =>
    let s1 := { s with replay := s.replay.map (fun r =>
      if r.fd == fd && r.src == fSrc f && r.tag == fTag f then { r with reply := some (old, st) } else r) }
    answer s1 q.who (reply s f fkAtomicResp st (st == stPoison) (oldBytes old))
  | _ => s

/-- Slot, iteration and offset of the descriptor that issued a local atomic. -/
def atomicFrom (s : State) : Owner → Nat × Nat × Nat
  | .de k => match (deAt s k).job with
    | some j => (slotOf (coreAt s k), j.x.iter, j.x.off)
    | none => (0, 0, 0)
  | _ => (0, 0, 0)

/-- Writes and atomics that wait as their part becomes NOT_COPIED are held by copy-on-write (R302). -/
def heldCow (s : State) : State :=
  if s.snap.state != 1 then s
  else { s with held := s.held.map (fun h => if notCopied s h.line then { h with kind := 0 } else h) }

/-- An atomic of the fabric has outlived REQUEST_LIFETIME, and takes no effect (R353, R358). DEDUCED (log entry 58). -/
def atomicOld (s : State) (q : AtomicOp) : Bool :=
  match q.who with
  | .home _ f => tooOld s f
  | _ => false

/-- An atomic may be applied: its line takes writes, and no earlier access to it waits (R302, R303). DEDUCED (log entry 58). -/
def atomicFree (s : State) (q : AtomicOp) : Bool := (lineShut s (q.addr / 128 * 128)).isNone && atomicTurn s q

/-- An atomic that is too old is discarded, and its replay entry with it. -/
def atomicDrop (s : State) (q : AtomicOp) : State :=
  let t := dcount (atomicGone s q) kLifetimeDrops 1
  match q.who with
  | .home fd f => { t with replay := t.replay.filter (fun r => !(r.fd == fd && r.src == fSrc f && r.tag == fTag f)) }
  | _ => t

/-- NMU_ATOMIC_APPLY: of the atomics at the stack's NMU the first that no part NOT_COPIED, boot image or earlier access to its line
holds is applied, once the snoops of its line are answered (R302, R303, R361); one that is too old is discarded (R353). DEDUCED (log entry 58). -/
def execNmuAtomicApply (st : Nat) (s0 : State) : Host.Outcome State Fault Refusal :=
  let s := heldCow s0
  whenUp s0 (match s.atomics.find? (fun q => q.st == st && (atomicOld s q || atomicFree s q)) with
    | none => s
    | some q =>
      if atomicOld s q then drainIngress (atomicDrop s q)
      else
        let m := memReady s [] [(q.addr / 128 * 128, 128)] q.who
        if !m.2 then m.1
        else
          let r := atomicApply (atomicGone m.1 q) q (atomicFrom m.1 q.who)
          drainIngress (atomicGive r.1 q r.2.1 r.2.2))

/-! ### Replies at the issuer (R352, R354) -/

/-- The request that a reply answers. DEDUCED (log entry 65). -/
def reqOf (s : State) (f : Flit) (ks : Nat → Bool) : Option Req :=
  s.reqs.find? (fun r => r.tag == fTag f && fDst r.f == fSrc f && ks (fKind r.f))

/-- A read ends for its issuer: bytes of its line and a status. -/
def readEnds (s : State) (r : Req) (bs : List Byte) (st : Nat) : State :=
  let la := r.f.w1.toNat
  match r.who with
  | .deRead k off =>
    match (deAt s k).job with
    | none => s
    | some j =>
      let a := dSrc j.x
      let n := (dExt s j.x).1
      let g : Seg := ⟨off, clipLine a n la (if bs.length = 128 then bs else List.replicate 128 0),
        if st = stOk then 0 else if st = stChecksum then 3 else if st = stPoison then 1 else 2⟩
      deNext (modJob s k (fun j => jobMeet (segCond [g]) (segFailed (.remote a) [g]) (segOffs [g]) { j with got := j.got ++ [g] })) k
  | .hartFill h pa key cause =>
    if key = 0 then s
    else if st = stOk then hInsert s key { bytes := bs, excl := cause == 0 || cause == 7, hart := h }
    else if cause = 0 then hartAsync s h pa st
    else hartDone s h pa 0 st cause
  | .hartLoad h pa size cause => hartDone s h pa (leNat ((bs.drop (pa % 128)).take size)) st cause
  | .restore k o =>
    if s.snap.state != 4 then s
    else
    let v := (bs, if st = stOk then 1 else if st = stPoison || st = stChecksum then 2 else 3)
    { s with snap := { s.snap with lines := tblSet (fun _ => ([], 0)) s.snap.lines (k * 2 ^ 40 + o) v } }
  | _ => s

/-- Bytes that a write flit carries. -/
def flitCount (f : Flit) : Nat := ((flitMask f).filter Option.isSome).length

/-- A write ends for its issuer. -/
def writeEnds (s : State) (r : Req) (st : Nat) : State :=
  match r.who with
  | .deWrite k off =>
    if st = stOk then (if fPoison r.f then notePoison s k 3 [2 ^ 64 + r.f.w1.toNat / 128] else s)
    else modJob s k (fun j => { jobMeet stPartial [2 ^ 64 + r.f.w1.toNat / 128] [off] j with written := j.written - flitCount r.f })
  | .coll k u =>
    if st = stOk then (if fPoison r.f && (coreAt s k).collCmd.any (·.uid == u) then notePoison s k 4 [2 ^ 64 + r.f.w1.toNat / 128] else s)
    else modCore s k (fun c => if c.collCmd.any (·.uid == u) then { c with coll := { c.coll with lost := true } } else c)
  | .relay id i seg =>
    if st = stOk then s
    else { s with relays := s.relays.map (fun r => if r.id == id && r.inst == i && r.seg == seg then { r with lost := true } else r) }
  | .hartStore h pa => if st = stOk then s else hartAsync s h pa st
  | .stripe => if st = stOk then s else { s with snap := { s.snap with stripeFail := true } }
  | _ => s

/-- An atomic ends for its issuer. -/
def atomicEnds (s : State) (r : Req) (old st : Nat) : State :=
  match r.who with
  | .deAtomic k => atomicBack s k old st
  | .hartAmo h pa => hartDone (if st = 0x84 then dcount s kAtomicsUnknown 1 else s) h pa old (if st = 0x84 then stAtomicUnknown else st) 7
  | _ => s

/-- A request ends for its issuer with a failure. -/
def failEnds (s : State) (r : Req) (st : Nat) : State :=
  if fKind r.f = 1 then readEnds s r [] st else if fKind r.f ≤ 3 then writeEnds s r st else atomicEnds s r 0 st

/-- Requests that were held before their issue are issued in order (R354, R502). -/
def issueHeld (s : State) : State :=
  s.issueQ.foldl (fun s r =>
    let x := issue s r.fd (fKind r.f) r.f.w1.toNat (fPoison r.f) r.f.payload r.who r.f.co
    if x.2 = 0 then x.1 else failEnds x.1 r x.2) { s with issueQ := [] }

/-- Once no request of the old epoch, nor a leaf sent under it, is outstanding, JOB_EPOCH changes and issue is released (R502); requests that waited for a tag
are issued when one is free (R354). DEDUCED (log entry 84). -/
def epochTry (s : State) : State :=
  match s.epochAdv with
  | none => if s.issueQ.isEmpty then s else issueHeld s
  | some v =>
    if !s.reqs.isEmpty || s.ctxs.any (fun c => !c.2.awaits.isEmpty) then s
    else issueHeld (dcount (dset { s with epochAdv := none } kJobEpoch v) kEpochAdvances 1)

/-- Sub-index of a monitor's round-trip source for a request. -/
def tripSub (f : Flit) : List Nat :=
  [0] ++ (if fKind f = fkRead then [1] else if 4 ≤ fKind f then [2] else []) ++ (if fVl f = 3 then [3] else [])

/-- A reply takes its request off the books and samples its round trip (R474); one that answers none is late (R354). -/
def replyRow (kind p : Nat) (ks : Nat → Bool) (f : Flit) (s : State) (h : State → Req → Flit → State) : State :=
  flitRow kind p f s (fun s g =>
    match reqOf s g ks with
    | none => dcount s kLateReplies 1
    | some r =>
      let x := routeTry s (fabRoute (8 + p / 32) r.fd)
      let s := x.1
      let g := if x.2 = 0 then g else { g with w1 := BitVec.ofNat 64 (0x83 * 2 ^ 56) }
      let s1 := { s with reqs := s.reqs.filter (fun q => !(q.fd == r.fd && q.tag == r.tag)) }
      let s2 := (tripSub r.f).foldl (fun s sub => monSample s 3 sub r.fd (timeNs s - r.first)) s1
      epochTry (h s2 r g))

/-- A READ_RESP ends the READ that it answers (R352). -/
def readResp (s : State) (port : Nat) (f : Flit) : State :=
  replyRow 0x0A port (· == 1) f s (fun s r g => readEnds s r g.payload (fStatus g))
/-- An ATOMIC_RESP ends the atomic that it answers (R352). -/
def atomicResp (s : State) (port : Nat) (f : Flit) : State :=
  replyRow 0x0C port (fun k => 4 ≤ k) f s (fun s r g => atomicEnds s r (leNat (g.payload.take 8)) (fStatus g))

/-! ### Snoops (R361) -/

/-- H-die cache key of a board-coherent address. -/
def boardKey (a : Nat) : Nat := (2 ^ 54 + a % 2 ^ 50) / 128

/-- A line that is under way to the H-die is not to be kept when it comes. -/
def dropFill (s : State) (key : Nat) : State :=
  { s with reqs := s.reqs.map (fun r => match r.who with
      | .hartFill h pa k cause => if k == key then { r with who := .hartFill h pa 0 cause } else r
      | _ => r) }

/-- Answer a snoop: a held line's data in SNP_DATA, where it is modified or only to be shared; else SNP_ACK. DESIGN CHOICE (log entry 113). -/
def snoopAnswer (s : State) (f : Flit) (inv : Bool) : State :=
  let k := boardKey f.w1.toNat
  let h := hLine s k
  let data := h.dirty || (!inv && !h.bytes.isEmpty)
  let s := if data then lineWords s k (List.range 16) else s
  let s1 := if inv then dropFill (hdieDrop s k) k
    else if h.bytes.isEmpty then s else hdieMod s k (fun h => { h with dirty := false, excl := false })
  post s1 (mkFlit 2 (if data then fkSnpData else fkSnpAck) (fEpoch f) (fSrc f) (ownPkg s) (data && h.bad != 0) f.w1.toNat (fTag f) 0 (fIssue f)
    (if data then h.bytes else []))

/-- SNP_INV (R361). -/
def execSnpInv (port : Nat) (f : Flit) (s : State) : Host.Outcome State Fault Refusal :=
  whenUp s (flitRow 0x0D port f s (fun s g => snoopAnswer s g true))
/-- SNP_RD (R361). -/
def execSnpRd (port : Nat) (f : Flit) (s : State) : Host.Outcome State Fault Refusal :=
  whenUp s (flitRow 0x0E port f s (fun s g => snoopAnswer s g false))

/-- A snoop is answered at the directory: its data is written back, an agent without the line is no holder, and the requests that
waited for it proceed (R361, R362). -/
def snoopBack (s : State) (f : Flit) (data : Bool) : State :=
  match s.snoops.find? (fun n => n.tag == fTag f && n.ag / 2 == fSrc f % 4) with
  | none => s
  | some n =>
    let s1 := { s with snoops := s.snoops.erase n }
    let s2 := if data then lineBack s1 (128 * n.line) f.payload (fPoison f) (.home n.fd f) else agentEvict s1 (128 * n.line) n.ag
    drainIngress (flushReplies s2)

/-- SNP_ACK (R361). -/
def execSnpAck (port : Nat) (f : Flit) (s : State) : Host.Outcome State Fault Refusal :=
  whenUp s (flitRow 0x0F port f s (fun s g => snoopBack s g false))
/-- SNP_DATA (R361). -/
def execSnpData (port : Nat) (f : Flit) (s : State) : Host.Outcome State Fault Refusal :=
  whenUp s (flitRow 0x10 port f s (fun s g => snoopBack s g true))

/-! ### Beyond the chassis (R371) -/

/-- SYS_ACK: every flit before the acknowledged SEQ leaves the window, and waiting flits take their places. -/
def execSysAck (port : Nat) (f : Flit) (s : State) : Host.Outcome State Fault Refusal :=
  whenUp s (flitRow 0x11 port f s (fun s g =>
    let d := fSrc g
    sysRefill (modSysTx s d (fun t => { t with un := t.un.filter (fun u => (u.1 + 2 ^ 24 - fSeq g) % 2 ^ 24 < 2 ^ 23) })) d))

/-- SYS_RESEND: an unacknowledged flit is resent after each SYS_RETRY_INTERVAL, counted from its last send, until its age reaches
REQUEST_LIFETIME, when it leaves the window (R371). -/
def execSysResend (dst seq at_ : Nat) (s0 : State) : Host.Outcome State Fault Refusal :=
  let s := atTime s0 at_
  whenUp s0 (match (sysTxAt s dst).un.find? (fun u => u.1 == seq) with
    | none => s
    | some (_, last, f) =>
      if dget s kRequestLifetime ≤ ageNs s f then
        sysRefill (modSysTx s dst (fun t => { t with un := t.un.filter (fun u => u.1 != seq) })) dst
      else if timeNs s < last + dget s kSysRetryInterval then s
      else
        let t := modSysTx s dst (fun t => { t with un := t.un.map (fun u => if u.1 == seq then (seq, timeNs s, f) else u) })
        dcount (emit t f (pChassis dst % 2)).1 kE2eRetries 1)

/-! ### Links (R334–R336) -/

/-- F-die of a port. -/
def portFd (p : Nat) : Nat := p / 32
/-- Set the state code of a port. -/
def setPortSt (s : State) (p v : Nat) : State := dset s (kPortState + p) (setBits (dget s (kPortState + p)) 31 24 v)

/-- A port goes down: its unacknowledged flits are discarded and its proof pass starts (R336). -/
def portDown (s : State) (p : Nat) : State :=
  let s1 := setPortSt (portClear s p) p 0
  drainOut (detect (dcount s1 kPortsLost 1) 7 (unitCoord s (portFd p) 0x7E0) 0x1FF (.port p))

/-- LINK_FLIT_RECEIVE_FAIL: an uncorrectable codeword; the flit and every later one are discarded until it comes again (R334). DEDUCED (log entry 70). -/
def execLinkFlitReceiveFail (port lseq : Nat) (s : State) : Host.Outcome State Fault Refusal :=
  whenUp s (if 64 ≤ port || !portUp s port then s
    else
      let s1 := dcount (modPort s port (fun x => if lseq % 4096 = x.rxNext then { x with bad := some x.rxNext } else x)) kFecUncorrected 1
      detect s1 6 (unitCoord s (portFd port) 0x7E0) (if portSt s port = 3 then 0x1FF else 0xFF) (.port port))

/-- LINK_RETRY_RESEND: the sender resends all it has not seen acknowledged; once a flit has been sent 16 times the port goes down (R334). -/
def execLinkRetryResend (port : Nat) (s : State) : Host.Outcome State Fault Refusal :=
  let x := portAt s port
  whenUp s (if 64 ≤ port || !portUp s port || x.unacked.isEmpty then s
    else if x.tries.any (15 ≤ ·) then portDown s port
    else dcount (modPort s port (fun x => { x with tries := x.tries.map (· + 1) })) kLinkRetries x.unacked.length)

/-- Start training of a port unless it trains already or is OFF (R335, R337). DEDUCED (log entry 70). -/
def trainPort (s : State) (p : Nat) : State :=
  if portSt s p = 1 || portLevel s p = 0 then s else setPortSt (portClear s p) p 1

/-- Phases that accept PORT_RETRAIN and STACK_RETRAIN. -/
def retrainPhase (s : State) : Bool := phase s == phIdle || phase s == phTest || phase s == phRecovery

/-- PORT_RETRAIN (R335): bit n names port n. -/
def portRetrain (s : State) (v : Nat) : State :=
  (List.range 64).foldl (fun s p => if bitOf v p then trainPort s p else s) s

/-- PORT_RETRAIN: accepted in IDLE, TEST and RECOVERY. -/
def execPortRetrain (v : Word) (s : State) : Host.Outcome State Fault Refusal :=
  whenUp s (dictWrite kPortRetrain v.toNat (fun s => if retrainPhase s then portRetrain s v.toNat else s) s)

/-- The system network, as the package bits of the coordinate with which it announces itself (R338). DEDUCED (log entry 71). -/
abbrev sysPeer : Nat := 2 ^ 18 - 1

/-- A peer agrees with the port's level (R338). -/
def peerOk (s : State) (p q : Nat) : Bool :=
  match portLevel s p with
  | 1 => q != sysPeer && q / 4 == ownPkg s / 4 && q != ownPkg s
  | 2 => q != sysPeer && pChassis q == pChassis (ownPkg s) && q / 4 != ownPkg s / 4
  | 3 => q == sysPeer
  | _ => false

/-- PORT_STATE of a peer: the system network reads all ones (R374). -/
def peerBits (x : Nat × Nat) : Nat := x.1 % 2 ^ 18 * 64 + x.2 % 64

/-- Failed lanes among the 9 of a direction (R333). -/
def failedLanes (l : List Nat) : List Nat := (l.filter (· < 9)).eraseDups

/-- PORT_TRAINING_DONE: spare lanes, peers, and the port's new state (R335). A port that no peer answers stays DOWN. DEDUCED (log entry 70, 71). -/
def execPortTrainingDone (port : Nat) (o : PortEyes) (s : State) : Host.Outcome State Fault Refusal :=
  whenUp s (if 64 ≤ port || portSt s port != 1 then s
    else
      let rx := failedLanes o.rxFailed
      let tx := failedLanes o.txFailed
      let unit := unitCoord s (portFd port) 0x7E0
      let put := fun st => dset s (kPortState + port) (st * 2 ^ 24 + (match o.peer with | some q => peerBits q | none => 0))
      let down := fun (s : State) (bad : Bool) => calEvent s 0x06 unit (port + b2n bad * 2 ^ 31)
      match o.peer with
      | none => down (put 0) false
      | some q =>
        if 2 ≤ rx.length || 2 ≤ tx.length then down (put 0) false
        else if !peerOk s port q.1 then down (put 4) true
        else
          let sp := rx ++ tx
          drainOut (sp.foldl (fun s l => calEvent s 0x04 unit (port * 256 + l)) (if sp.isEmpty then put 2 else put 3)))

/-! ### End-to-end retry and timeouts (R354, R357, R368) -/

/-- Set RETRY. -/
def withRetry (f : Flit) : Flit := { f with w0 := f.w0 ||| 4 }

/-- E2E_RETRY: a READ or atomic without a reply is resent at each multiple of E2E_RETRY_INTERVAL below REQUEST_LIFETIME (R354). -/
def execE2eRetry (fd tag at_ : Nat) (s0 : State) : Host.Outcome State Fault Refusal :=
  let s := atTime s0 at_
  whenUp s0 (match s.reqs.find? (fun r => r.fd == fd && r.tag == tag) with
    | none => s
    | some r =>
      let due := (r.retries + 1) * dget s kE2eRetryInterval
      if fKind r.f = 2 || fKind r.f = 3 || dget s kRequestLifetime ≤ due || timeNs s < r.first + due then s
      else
        let s1 := { s with reqs := s.reqs.map (fun q => if q.fd == fd && q.tag == tag then { q with retries := q.retries + 1 } else q) }
        dcount (post s1 (withRetry r.f) r.fd) kE2eRetries 1)

/-- A request without a reply within REPLY_TIMEOUT ends NO_REPLY (R354, R358). -/
def replyTimeout (fd tag : Nat) (s : State) : State :=
  match s.reqs.find? (fun r => r.fd == fd && r.tag == tag) with
  | none => s
  | some r =>
    if timeNs s < r.first + dget s kReplyTimeout then s
    else epochTry (failEnds { s with reqs := s.reqs.filter (fun q => !(q.fd == fd && q.tag == tag)) } r 0x84)

/-- REPLAY_ENTRY_EXPIRY: an entry ends 200 µs after its creation, and an atomic waiting at ingress proceeds if it is not too
old (R356, R357). -/
def execReplayEntryExpiry (fd src tag at_ : Nat) (s0 : State) : Host.Outcome State Fault Refusal :=
  let s := atTime s0 at_
  whenUp s0 (match s.replay.find? (fun r => r.fd == fd && r.src == src && r.tag == tag) with
    | none => s
    | some r =>
      if timeNs s < r.expiry then s
      else drainIngress { s with replay := s.replay.erase r })

/-- HOT_LINE_COOL: after 8 µs below the threshold a line is no longer hot (R368). -/
def execHotLineCool (fd : Nat) (egress : Bool) (line at_ : Nat) (s0 : State) : Host.Outcome State Fault Refusal :=
  let s := atTime s0 at_
  whenUp s0 { s with hot := s.hot.map (fun h =>
    if h.fd == fd && h.egress == egress && h.line == line && h.hot && decide (h.since + 8000 ≤ timeNs s) then { h with hot := false } else h) }

/-- A write of a translation entry updates both copies (R348). -/
def transWrite (s : State) (l v m : Nat) : State :=
  transPut (transPut s 0 l (mrg (transAt s 0 l) v m)) 1 l (mrg (transAt s 1 l) v m)

/-- A write of OPEN, or of ABANDON where it is accepted (R423): the leaves that the old invocation had sent are awaited no more (R502).
DEDUCED (log entry 84). -/
def ctxLeaves (s : State) (c : Nat) (open_ : Bool) : State :=
  if open_ then (if ctxOpenOk s c then epochTry (ctxOpen s c) else s)
  else if (ctxAt s c).state = 1 then epochTry (ctxDiscard s c) else s

/-- CONTEXT_OPEN (R423). -/
def execContextOpen (c : Nat) (s : State) : Host.Outcome State Fault Refusal := whenUp s (if c < 16 then ctxLeaves s c true else s)

/-- CONTEXT_ABANDON, accepted in OPEN only (R423). -/
def execContextAbandon (c : Nat) (s : State) : Host.Outcome State Fault Refusal := whenUp s (if c < 16 then ctxLeaves s c false else s)

/-- LEAF_ARRIVAL: a leaf comes from another package, or the end of one that this package sent (R427, R428); one of another epoch is dropped
(R366). -/
def execLeafArrival (c : Nat) (l : LeafMsg) (s : State) : Host.Outcome State Fault Refusal :=
  whenUp s (if 16 ≤ c ∨ 2 ≤ l.cls ∨ l.digest.length ≠ 48 ∨ 2 ^ 32 ≤ l.off then s
    else if l.epoch ≠ dget s kJobEpoch then dcount s kEpochDrops 1
    else match l.ended with
      | some st => epochTry (leafEnds s c l.cls l.off st)
      | none => leafArrives s c l)

/-- TRANSLATION_ENTRY_WRITE (R348). -/
def execTranslationEntryWrite (l : Nat) (v : Word) (s : State) : Host.Outcome State Fault Refusal :=
  whenUp s (if l < 16384 then transWrite s l v.toNat (2 ^ 64 - 1) else s)

end Sys2Proof.Machine
end

