-- ==== Sys2Proof/Machine/CollOps.lean ====
section
/-! DEFINITION. Collectives' shared machinery (R375–R399): fields, ranks and leaves, harebell operators, the orders of bulk
reductions, reads and writes of SRC and DST, and harebell flits. -/
namespace Sys2Proof.Machine
open Sys2Proof Config

/-! ### Fields (R160) -/

/-- ROP. -/
def qRop (x : Cmd) : Nat := fld x.w0 27 24
/-- NUMFMT. -/
def qFmt (x : Cmd) : Nat := fld x.w0 23 16
/-- COLL_ID. -/
def qId (x : Cmd) : Nat := fld x.w0 15 0
/-- Group of COLL_ID (R379). -/
def qGroup (x : Cmd) : Nat := qId x / 256
/-- SRC. -/
def qSrc (x : Cmd) : Nat := x.w1.toNat
/-- DST. -/
def qDst (x : Cmd) : Nat := x.w2.toNat
/-- LENGTH. -/
def qLen (x : Cmd) : Nat := fld x.w3 63 32
/-- TIMEOUT_US. -/
def qTmo (x : Cmd) : Nat := fld x.w3 31 6
/-- NVAL. -/
def qNval (x : Cmd) : Nat := fld x.w3 5 3
/-- FASTEST. -/
def qFast (x : Cmd) : Bool := x.w3.getLsbD 2
/-- SRC_LOCAL. -/
def qSrcL (x : Cmd) : Bool := x.w3.getLsbD 1
/-- DST_LOCAL. -/
def qDstL (x : Cmd) : Bool := x.w3.getLsbD 0

/-- A bulk reduction. -/
def isReduce (op : Nat) : Bool := 4 ≤ op && op ≤ 6

/-- Timeout of a command in ns (R400). -/
def qTimeout (s : State) (x : Cmd) : Nat := if qTmo x = 0 then dget s kCollTimeoutDefault else qTmo x * 1000

/-! ### Groups (R375–R378) -/

/-- Core `n` is a local member. -/
def isMember (g : CollGroup) (n : Nat) : Bool := bitOf g.members n
/-- Ordinal of a local member. -/
def localOrd (g : CollGroup) (n : Nat) : Nat := popCount (g.members % 2 ^ n)
/-- Rank of a local member (R377). -/
def rankOf (g : CollGroup) (n : Nat) : Nat := g.rankBase + localOrd g n
/-- Leaves of local member `i` (R378). -/
def leavesAt (g : CollGroup) (i : Nat) : Nat :=
  if g.localCount = 0 then 0 else g.leafCount / g.localCount + b2n (decide (i < g.leafCount % g.localCount))
/-- First leaf of local member `i`. -/
def firstLeaf (g : CollGroup) (i : Nat) : Nat := (List.range i).foldl (fun a j => a + leavesAt g j) g.leafBase

/-- Contributions that a member presents (R391): its leaves under CANON, else one. -/
def contribs (s : State) (g : CollGroup) (op n : Nat) : Nat :=
  if isReduce op && dget s kDeterminismScope == 2 then leavesAt g (localOrd g n) else 1

/-- The group spans packages: it has a tree parent or children. -/
def hasTree (g : CollGroup) : Bool := g.parent != 0xFFFF || g.childCount != 0

/-! ### Data -/

/-- Place of SRC or DST: the issuing core's store or this package's stack memory (R384). -/
def collLoc (k : Nat) (loc : Bool) (a n : Nat) : Option Loc := nmuLoc k loc true a n

/-- Read of SRC or DST: a line that failed is delivered poisoned (R292, R395), and a tile is verified at the command's first read of it
(R276). DEDUCED (log entry 80). -/
def collRead (s : State) (k : Nat) (loc : Bool) (a n : Nat) : State × List FB × Nat :=
  match collLoc k loc a n with
  | none => (s, [], stOk)
  | some l =>
    let r := readSeen s (coreAt s k).coll.seen (.coll k) l 0 n
    let e := stagingCheck r.1 k
    let gs := r.2.2.map (fun g => if g.st = 2 || e.2 then { g with st := 1 } else g)
    (modCore e.1 k (fun c => { c with coll := { c.coll with seen := r.2.1 } }), flatten n gs, segCond gs)

/-- Tiles at offset `o` that bad bytes reach. -/
def badTiles (o : Nat) (bs : List FB) : List Nat :=
  (tilesOf o bs.length).filter (fun t => badFB ((bs.drop (4096 * t - o)).take (4096 * t + 4096 - max o (4096 * t))))

/-- Write into DST at an offset: whether a line failed. Bad bytes poison their tiles and lines (R395), as does CORE_INTERNAL
(R468). -/
def collPut (s : State) (k : Nat) (x : Cmd) (off : Nat) (bs : List FB) : State × Bool :=
  match collLoc k (qDstL x) (qDst x + off) bs.length with
  | none => (s, false)
  | some l =>
    let int := (coreAt s k).internal
    let w := writeLocal s (.coll k) l off bs int
    match l with
    | .store _ o =>
      let ts := if int then tilesOf o bs.length else badTiles o bs
      (if ts.isEmpty then w.s else poisonTiles w.s k 4 ts, !w.failed.isEmpty)
    | _ => (w.s, !w.failed.isEmpty)

/-- Poison a line of stack memory: a write of its marker alone, which waits as any other does (R283, R293, R302). -/
def poisonLine (s : State) (la : Nat) : State := (writeLine s la (List.replicate 128 none) true .nobody).1

/-- Poison every tile and line of an extent (R402). -/
def poisonExtent (s : State) (k : Nat) (loc : Bool) (a n : Nat) : State :=
  if n = 0 then s
  else if loc then (if a + n ≤ 0x80000 then poisonTiles s k 4 (tilesOf a n) else s)
  else if inStack a n then notePoison ((linesOf a n).foldl poisonLine s) k 4 ((linesOf a n).map (2 ^ 64 + · / 128))
  else s

/-- Bytes as good ones. -/
def goodFB (bs : List Byte) : List FB := bs.map (fun b => some (b, false))
/-- Bytes of an FB list. -/
def bytesFB (bs : List FB) : List Byte := bs.map (fun b => (fbByte b).getD 0)
/-- Little-endian 32-bit words. -/
def u32s (bs : List Byte) : List Nat := (chunks 4 bs).map leNat
/-- 4M rounded up to 64. -/
def sizesBytes (m : Nat) : Nat := roundUp (4 * m) 64

/-- Extents of SRC and DST before any size is read (R386, R391, R399). -/
def collExt (s : State) (g : CollGroup) (n : Nat) (x : Cmd) : Nat × Nat :=
  let len := qLen x
  let op := w0Op x.w0
  match op with
  | 2 => (8 * (qNval x + 1), 8 * (qNval x + 1))
  | 3 => (len, g.total * len)
  | 4 => (contribs s g op n * len, if g.total = 0 then 0 else len / g.total)
  | 5 => (contribs s g op n * len, len)
  | 6 => (contribs s g op n * len, len)
  | 7 => (if rankOf g n = g.rootRank then len else 0, len)
  | 8 => (g.total * len, g.total * len)
  | 9 => (sizesBytes g.total, 64 + sizesBytes g.total)
  | _ => (0, 0)

/-- DST extent of a taken command, the capacity of ALLTOALLV included. -/
def collDstLen (s : State) (g : CollGroup) (n : Nat) (x : Cmd) (cap : Nat) : Nat :=
  (collExt s g n x).2 + if w0Op x.w0 = 9 then cap else 0

/-- An illegal overlap of SRC and DST (R384). -/
def collOverlap (s : State) (g : CollGroup) (n : Nat) (x : Cmd) : Bool :=
  let e := collExt s g n x
  let op := w0Op x.w0
  qSrcL x == qDstL x && overlap (qSrc x) e.1 (qDst x) e.2 &&
  !((op == 5 || op == 6) && qSrc x == qDst x) && !(op == 7 && qSrc x == qDst x) &&
  !(op == 3 && qSrc x == qDst x + rankOf g n * qLen x)

/-- Reservation of a reduction (R396). -/
def stagingNeed (s : State) (x : Cmd) : Nat :=
  if isReduce (w0Op x.w0) then (if dget s kDeterminismScope = 2 then 4 else 2) * roundUp (qLen x) 4096 else 0

/-- NUMFMT of an operator (R161, R384). -/
def collFmtOk (s : State) (x : Cmd) : Bool :=
  match qRop x with
  | 6 => bitsOf (qFmt x) 7 4 == 12 && bitsOf (qFmt x) 3 0 == 0
  | 7 => qFmt x == 0
  | 8 => match numFmt s true (qFmt x) with | some f => addFmt f | none => false
  | _ => qFmt x == 0

/-- Operators and fields of an opcode (R161, R386). -/
def collOpOk (x : Cmd) : Bool :=
  match w0Op x.w0 with
  | 1 => qRop x == 15 && qLen x == 0 && qNval x == 0 && x.w1 == 0 && x.w2 == 0 && !qSrcL x && !qDstL x
  | 2 => qRop x ≤ 7 && qLen x == 0 && qSrc x % 8 == 0 && qDst x % 8 == 0 && (qRop x != 6 || qNval x == 2 || qNval x == 5)
  | 3 => qRop x == 15 && qNval x == 0
  | 4 => qRop x == 8 && qNval x == 0
  | 5 => qRop x == 8 && qNval x == 0
  | 6 => qRop x == 8 && qNval x == 0
  | 7 => qRop x == 15 && qNval x == 0
  | 8 => qRop x == 15 && qNval x == 0
  | 9 => qRop x == 15 && qNval x == 0 && qLen x == 0
  | _ => false

/-- SRC is a field that the member reads: not that of a BROADCAST beside the root (R391). -/
def srcRead (g : CollGroup) (n : Nat) (x : Cmd) : Bool := w0Op x.w0 != 7 || rankOf g n == g.rootRank

/-- A command is illegal or inconsistent (R44, R161, R379, R384, R391, R396). -/
def collIllegal (s : State) (n : Nat) (x : Cmd) : Bool :=
  let unitBad := fun (a : Nat) => spaceOf a == 3 && addrBad a
  let g := collGroup s (qGroup x)
  let op := w0Op x.w0
  let sz := match numFmt s true (qFmt x) with | some f => nfW f / 8 | none => 1
  !g.valid || !isMember g n || !collOpOk x || !collFmtOk s x ||
  (1 ≤ qTmo x && qTmo x ≤ 9) || 60000000 < qTmo x || (qFast x && op != 4 && op != 6) ||
  (3 ≤ op && 65536 < g.total) || (isReduce op && (qLen x % sz != 0 || dget s kStagingSize < stagingNeed s x)) ||
  (op == 4 && qLen x % (g.total * sz) != 0) || collOverlap s g n x ||
  (op != 1 && ((srcRead g n x && !qSrcL x && unitBad (qSrc x)) || (!qDstL x && unitBad (qDst x))))

/-- Skip code of a CQ command before any byte is read (R19, R367, R394). DESIGN CHOICE (log entry 128). -/
def collSkip (s : State) (n k : Nat) (x : Cmd) : Option Nat :=
  let g := collGroup s (qGroup x)
  let op := w0Op x.w0
  let e := collExt s g n x
  firstSkip [(epochStale s k, stEpochStale), (collIllegal s n x, stIllegal),
    (op != 1 && ((srcRead g n x && !qSrcL x && addrFused s (qSrc x)) || (!qDstL x && addrFused s (qDst x))), stFused),
    ((op == 8 || op == 9) && !(phase s == phStart || phase s == phTest || phase s == phRecovery), stPhase),
    (locked s && qFast x, stDet),
    (isReduce op && dget s kDeterminismScope == 2 && (2 ^ g.leavesLog2 != dget s kLeafCount || g.leafCount == 0), stDet),
    ((collLoc k (qSrcL x) (qSrc x) e.1).isNone && op != 1 && e.1 != 0, stBounds),
    ((collLoc k (qDstL x) (qDst x) e.2).isNone && op != 1 && e.2 != 0, stBounds)]

/-! ### Orders of bulk reductions (R392, R393) -/

/-- A partial: value, whether a bad byte entered it, and the flags so far. -/
structure RedV where
  v : Nat
  bad : Bool
  fl : Flags := noFlags
  deriving DecidableEq, Repr

/-- One addition, rounded once. DESIGN CHOICE (log entry 144). -/
def redAdd (s : State) (f : Fmt) (a b : RedV) : RedV :=
  let r := nmuSum s f a.v b.v
  ⟨r.1, a.bad || b.bad, orFlags (orFlags a.fl b.fl) r.2⟩

/-- No contribution. -/
def redNone : RedV := ⟨0, false, noFlags⟩

/-- Ring order from contribution b + 1 (R392). -/
def ringSum (s : State) (f : Fmt) (vs : List RedV) (b : Nat) : RedV :=
  let m := vs.length
  ((List.range (m - 1)).map (fun i => vs.getD ((b + i + 2) % m) redNone)).foldl (redAdd s f) (vs.getD ((b + 1) % m) redNone)

/-- Combine neighbours of one level; a lone one passes up. -/
def pairUp (s : State) (f : Fmt) : List RedV → List RedV
  | a :: b :: t => redAdd s f a b :: pairUp s f t
  | l => l

/-- Tree order: slots beyond the contributions are absent (R392). -/
def treeSum (s : State) (f : Fmt) : Nat → List RedV → RedV
  | 0, vs => vs.headD redNone
  | n + 1, vs => if vs.length ≤ 1 then vs.headD redNone else treeSum s f n (pairUp s f vs)

/-- Partials combined pairwise in an order that is not specified (R392, FASTEST). DESIGN CHOICE (log entry 17). -/
def fastSum (s : State) (f : Fmt) (key : Nat) : Nat → List RedV → RedV
  | 0, vs => vs.headD redNone
  | n + 1, vs =>
    if vs.length ≤ 1 then vs.headD redNone
    else
      let i := fastestPick key (2 * n) % vs.length
      let r := vs.eraseIdx i
      let j := fastestPick key (2 * n + 1) % r.length
      fastSum s f key n (r.eraseIdx j ++ [redAdd s f (vs.getD i redNone) (r.getD j redNone)])

/-- One element of a reduction: `e` of `cnt`, from the contributions in order (R392). -/
def redElem (s : State) (f : Fmt) (x : Cmd) (m cnt e : Nat) (vs : List RedV) : RedV :=
  let op := w0Op x.w0
  if dget s kDeterminismScope = 2 then treeSum s f 20 vs
  else if qFast x then fastSum s f (s.freeCount * 2 ^ 40 + e) vs.length vs
  else if op = 6 then treeSum s f 20 vs
  else ringSum s f vs (if op = 4 then e / (cnt / m) else e / cdiv cnt m)

/-- Elements of a contribution as partials. -/
def redEls (sz : Nat) (bs : List FB) : List RedV :=
  (elemsFB sz bs).map (fun e => match e with | some (v, b) => (⟨v, b, noFlags⟩ : RedV) | none => redNone)

/-- The maximal nodes of the canonical tree within leaves lo to hi − 1: first leaf and height (R394). -/
def alignedNodes : Nat → Nat → Nat → List (Nat × Nat)
  | 0, _, _ => []
  | f + 1, lo, hi =>
    if hi ≤ lo then []
    else
      let k := (List.range 17).foldl (fun a k => if lo % 2 ^ k = 0 && lo + 2 ^ k ≤ hi then k else a) 0
      (lo, k) :: alignedNodes f (lo + 2 ^ k) hi

/-- The bytes of one node of the canonical tree over the contributions of its leaves (R392, R394). -/
def nodeBytes (s : State) (f : Fmt) (cs : List (List FB)) : List FB :=
  let sz := fmtWidth f / 8
  let els := cs.map (redEls sz)
  (List.range ((els.headD []).length)).flatMap (fun e =>
    let v := treeSum s f 17 (els.map (fun c => c.getD e redNone))
    (leBytes sz v.v).map (fun b => some (b, v.bad)))

/-- The whole reduction: elements in order. -/
def reduceAll (s : State) (x : Cmd) (f : Fmt) (m : Nat) (cs : List (List FB)) : List RedV :=
  let sz := fmtWidth f / 8
  let els := cs.map (redEls sz)
  let cnt := qLen x / sz
  (List.range cnt).map (fun e => redElem s f x m cnt e (els.map (fun c => c.getD e redNone)))

/-! ### Harebell (R386–R388, R405) -/

/-- A value position of a partial: the value or P, N, and the special bits in the order NaN, signalling NaN, +∞, −∞. -/
structure HbVal where
  a : Int
  n : Nat := 0
  sp : Nat := 0
  deriving DecidableEq, Repr

/-- One 64-bit input under an operator; `flush` for ROP 0x7. -/
def hbIn (flush : Bool) (rop v : Nat) : HbVal :=
  match rop with
  | 0 => ⟨v, 0, 0⟩
  | 1 => ⟨toSigned 64 v, 0, 0⟩
  | 2 => ⟨toSigned 64 v, 0, 0⟩
  | 7 => match fread flush .fp64 v with
    | .nan sig => ⟨0, 0, 1 + 2 * b2n sig⟩
    | .inf neg => ⟨0, 0, if neg then 8 else 4⟩
    | .fin neg m e =>
      let i := m * 2 ^ (e + 1074).toNat
      if neg then ⟨0, i, 0⟩ else ⟨i, 0, 0⟩
  | _ => ⟨v, 0, 0⟩

/-- The value positions of a member's NVAL + 1 words. -/
def hbInputs (flush : Bool) (rop : Nat) (ws : List Nat) : List HbVal :=
  if rop = 6 then (chunks 3 ws).map (fun c => ⟨toSigned 192 (c.getD 0 0 + c.getD 1 0 * 2 ^ 64 + c.getD 2 0 * 2 ^ 128), 0, 0⟩)
  else ws.map (hbIn flush rop)

/-- Combine two partials of one position (R386–R388). -/
def hbComb (rop : Nat) (x y : HbVal) : HbVal :=
  match rop with
  | 0 => ⟨(x.a + y.a) % 2 ^ 64, 0, 0⟩
  | 1 => ⟨min x.a y.a, 0, 0⟩
  | 2 => ⟨max x.a y.a, 0, 0⟩
  | 3 => ⟨(Nat.land x.a.toNat y.a.toNat : Nat), 0, 0⟩
  | 4 => ⟨(Nat.lor x.a.toNat y.a.toNat : Nat), 0, 0⟩
  | 5 => ⟨(Nat.xor x.a.toNat y.a.toNat : Nat), 0, 0⟩
  | 6 => ⟨x.a + y.a, 0, 0⟩
  | _ => ⟨x.a + y.a, x.n + y.n, Nat.lor x.sp y.sp⟩

/-- Combine partials position by position. -/
def hbMerge (rop : Nat) : List HbVal → List HbVal → List HbVal
  | x :: xs, y :: ys => hbComb rop x y :: hbMerge rop xs ys
  | xs, [] => xs
  | [], ys => ys

/-- The root's result of one position: 64-bit words and flags (R387, R388). -/
def hbFinal (s : State) (rop : Nat) (v : HbVal) : List Nat × Flags :=
  match rop with
  | 6 =>
    let lo := -((2 ^ 191 : Nat) : Int)
    let hi := ((2 ^ 191 : Nat) : Int) - 1
    let c := max lo (min hi v.a)
    let u := ofSigned 192 c
    ([u % 2 ^ 64, u / 2 ^ 64 % 2 ^ 64, u / 2 ^ 128], if c = v.a then noFlags else flOvf)
  | 7 =>
    if bitOf v.sp 0 || (bitOf v.sp 2 && bitOf v.sp 3) then
      ([fqnan .fp64], if bitOf v.sp 1 || (bitOf v.sp 2 && bitOf v.sp 3) then flInv else noFlags)
    else if bitOf v.sp 2 then ([finfBits .fp64 false], noFlags)
    else if bitOf v.sp 3 then ([finfBits .fp64 true], noFlags)
    else
      let d := v.a - (v.n : Int)
      let rm := rmCode (dget s kDefaultRounding)
      if d = 0 then ([if rm == .rdn && v.n != 0 then 2 ^ 63 else 0], noFlags)
      else
        let r := roundFin .fp64 rm (flushOn s) .ieee (d < 0) d.natAbs (-1074) false
        ([r.1], r.2)
  | _ => ([ofSigned 64 v.a], noFlags)

/-- The whole result. -/
def hbResult (s : State) (rop : Nat) (vs : List HbVal) : List Nat × Flags :=
  vs.foldl (fun a v => let r := hbFinal s rop v; (a.1 ++ r.1, orFlags a.2 r.2)) ([], noFlags)

/-- The nonzero 64-bit words of one sign's sum at a position, as items (R405). -/
def hbWords (p sg i : Nat) : List Nat :=
  (List.range 34).filterMap (fun w =>
    let d : Nat := i / 2 ^ (64 * w) % 2 ^ 64
    if d = 0 then none else some (p * 2 ^ 120 + sg * 2 ^ 119 + w * 2 ^ 112 + d))

/-- Items of a set of partials, 128-bit numbers (R405). -/
def hbItems (rop : Nat) (vs : List HbVal) : List Nat :=
  match rop with
  | 6 => vs.flatMap (fun v => let u := ofSigned 224 v.a; [u % 2 ^ 128, (if v.a < 0 then u / 2 ^ 128 + (2 ^ 32 - 1) * 2 ^ 96 else u / 2 ^ 128)])
  | 7 =>
    (idx vs).flatMap (fun p =>
      hbWords p.1 0 p.2.a.toNat ++ hbWords p.1 1 p.2.n ++ (if p.2.sp = 0 then [] else [p.1 * 2 ^ 120 + 0x7F * 2 ^ 112 + p.2.sp]))
  | _ => vs.map (fun v => ofSigned 64 v.a)

/-- Partials of `n` positions from items. -/
def hbOfItems (rop n : Nat) (is : List Nat) : List HbVal :=
  match rop with
  | 6 => (List.range (n / 3)).map (fun i => ⟨toSigned 224 (is.getD (2 * i) 0 + is.getD (2 * i + 1) 0 % 2 ^ 96 * 2 ^ 128), 0, 0⟩)
  | 7 => (List.range n).map (fun p =>
      (is.filter (fun i => i != 0 && bitsOf i 127 120 == p)).foldl (fun (v : HbVal) i =>
        let w := bitsOf i 118 112
        let d := i % 2 ^ 64
        if w = 0x7F then { v with sp := Nat.lor v.sp (d % 16) }
        else if bitOf i 119 then { v with n := v.n + d * 2 ^ (64 * w) } else { v with a := v.a + ((d * 2 ^ (64 * w) : Nat) : Int) }) ⟨0, 0, 0⟩)
  | _ => (List.range n).map (fun i =>
      let v := is.getD i 0 % 2 ^ 64
      ⟨if rop = 1 || rop = 2 then toSigned 64 v else v, 0, 0⟩)

/-- The 16-byte control of a collective flit (R406). -/
def hbControl (id inst rop nval : Nat) (solver : Bool) (part : Nat) (last : Bool) (count code : Nat) (poison : Bool) (lines : Nat := 0) :
    List Byte :=
  leBytes 8 (id * 2 ^ 48 + inst % 2 ^ 24 * 2 ^ 24 + rop * 2 ^ 20 + nval * 2 ^ 17 + b2n solver * 2 ^ 16 + part % 2 ^ 8 * 2 ^ 8 + b2n last * 2 ^ 7) ++
  leBytes 8 (count % 2 ^ 32 * 2 ^ 32 + code * 2 ^ 24 + b2n poison * 2 ^ 23 + lines % 2 ^ 23)

/-- Words of a control. -/
def ctl0 (f : Flit) : Nat := leNat (f.payload.take 8)
/-- Word 1 of a control. -/
def ctl1 (f : Flit) : Nat := leNat ((f.payload.drop 8).take 8)

/-- Physical package of a logical one (R348). -/
def pkgOf (s : State) (l : Nat) : Option Nat :=
  let e := tblGet (fun _ => 0) s.trans0 l
  if 16384 ≤ l || !bitOf e 63 then none else some (e % 2 ^ 18)

/-- Send a collective flit to a logical package. DEDUCED (log entry 75). -/
def sendColl (s : State) (kind l : Nat) (pl : List Byte) : State :=
  match pkgOf s l with
  | none => s
  | some d => post s (mkFlit (if kind = 0x1C then 2 else 4) kind (dget s kJobEpoch) d (ownPkg s) false 0 0 0 (issueT (timeNs s)) pl)

/-- Logical packages of a group's children. -/
def childrenOf (g : CollGroup) : List Nat := (List.range g.childCount).map (fun c => tblGet (fun _ => 0) g.child c)

/-- Data areas of items: eight to a flit, at least one. -/
def dataAreas (is : List Nat) : List (List Byte) :=
  let cs := if is.isEmpty then [[]] else chunks 8 is
  cs.map (fun c => ((c.map (leBytes 16)).flatten ++ List.replicate 128 0).take 128)

/-- Send a set of partials upward, or a result downward. -/
def sendSet (s : State) (kind l id inst rop nval count code : Nat) (poison : Bool) (is : List Nat) (solver : Bool := false) : State :=
  let as := dataAreas is
  (idx as).foldl (fun s p => sendColl s kind l
    (hbControl id inst rop nval solver p.1 (p.1 + 1 == as.length) count code poison ++ p.2)) s

end Sys2Proof.Machine
end

