-- ==== Sys2Proof/Machine/Coll.lean ====
section
/-! DEFINITION. The collective queue and the harebell (R375–R410): takes, staging, entry rounds, data phases, completion,
timeouts and aborts, and the collective flits. -/
namespace Sys2Proof.Machine
open Sys2Proof Config

/-! ### Members of this package -/

/-- The collective control of a physical core. -/
def collAt (s : State) (k : Nat) : CollCtl := (coreAt s k).coll
/-- Change it. -/
def modColl (s : State) (k : Nat) (f : CollCtl → CollCtl) : State := modCore s k (fun c => { c with coll := f c.coll })
/-- CQ collectives of group `g` that core `n` has taken (R381). -/
def cqTakenOf (s : State) (n g : Nat) : Nat := tblGet (fun _ => 0) s.cqTaken (256 * n + g)
/-- Change a group entry. -/
def modGroup (s : State) (g : Nat) (f : CollGroup → CollGroup) : State :=
  { s with collGroups := tblMod (fun _ => {}) s.collGroups g f }

/-- Insert a member in the order of logical numbers. -/
def insMember (x : Nat × Nat × Cmd) : List (Nat × Nat × Cmd) → List (Nat × Nat × Cmd)
  | [] => [x]
  | y :: t => if x.1 < y.1 then x :: y :: t else y :: insMember x t

/-- Members of group `g` whose collective passes `p`: core, key and command, in rank order. -/
def running (s : State) (g : Nat) (p : CollCtl → Bool) : List (Nat × Nat × Cmd) :=
  (s.cores.filterMap (fun c => match c.2.collCmd with
    | some x => if qGroup x = g && c.2.coll.stage != 0 && p c.2.coll then some (logicalOf s c.1, c.1, x) else none
    | none => none)).foldl (fun l x => insMember x l) []

/-- Local members of a group as (core, key), those in service. -/
def localMembers (s : State) (g : CollGroup) : List (Nat × Nat) :=
  (List.range 10240).filterMap (fun n => if isMember g n then (keyOf s n).map (fun k => (n, k)) else none)

/-! ### What a joint solve brings (R252, R260) -/

/-- A value of a joint solve's reduction as a harebell partial: an integer of the reduction's scale, or the sums P and N and the special
bits of an exact FP64 sum (R252, R260, R387). DEDUCED (log entry 43). -/
def seVal (rop : Nat) (u : Int) : FVal → HbVal
  | .nan sig => if rop = 7 then ⟨0, 0, 1 + 2 * b2n sig⟩ else ⟨0, 0, 0⟩
  | .inf neg => if rop = 7 then ⟨0, 0, if neg then 8 else 4⟩ else ⟨0, 0, 0⟩
  | .fin neg m e =>
    let i : Nat := m * 2 ^ (e - u).toNat / 2 ^ (u - e).toNat
    if rop = 7 then (if neg then ⟨0, i, 0⟩ else ⟨i, 0, 0⟩) else ⟨if neg then -(i : Int) else i, 0, 0⟩

/-- The values of a joint solve's reduction: those of its systems in order, then the lapse count (R260, R265). DEDUCED (log entry 142). -/
def seVals (j : SolveJob) : List HbVal :=
  (List.range j.env.batch).flatMap (fun q =>
    let u : Int := if j.it.ph = 4 then 0 else redUnit j.env q
    (j.it.out.getD q []).map (seVal (seRop j) u)) ++ (if seLapses j then [⟨b2n j.it.lapse, 0, 0⟩] else [])

/-- What a joint solve brings to the harebell operation that is instance `i` of its group. -/
def sePart (j : SolveJob) (i : Nat) : List HbVal := ((seVals j).drop ((i - j.inst) * sePer j)).take (sePer j)

/-- NVAL of a joint solve's operation (R386, R406). -/
def seNval (j : SolveJob) (i : Nat) : Nat := let n := (sePart j i).length; (if seRop j = 6 then 3 * n else n) - 1

/-- The abort record that a member of a collective originates (R401, R406). -/
def cqRec (x : Cmd) (cause origin : Nat) : AbortRec := ⟨qId x, cause, origin, qRop x, qNval x⟩
/-- That of a member of a joint solve. -/
def seRec (j : SolveJob) (cause origin : Nat) : AbortRec := ⟨j.jid, cause, origin, seRop j, seNval j j.inst⟩

/-! ### Ends and aborts (R400–R403) -/

/-- The collective in progress leaves the sequencer; a bound gather window learns of its end (R197). -/
def collFree (s : State) (k : Nat) (x : Cmd) (skipped : Bool) : State :=
  modCore s k (fun c => { gatherEnded c x.uid skipped with
    collCmd := none, collReady := [],
    coll := { c.coll with stage := 0, reserved := 0, waitFrom := 0, cond := 0, result := [], known := false, segs := [], lost := false,
                          sends := [], seen := [], wrote := false, fl := 0, cap := 0, bads := [], wants := [], sizes := [] } })

/-- TIME spent waiting for staging, where the command still waits (R396). -/
def stagingWaited (s : State) (c : CollCtl) : State := if c.stage = 1 then dcount s kStagingWaitNs (timeNs s - c.waitFrom) else s

/-- A request belongs to a core's collective. -/
def ofColl (k : Nat) (r : Req) : Bool := match r.who with | .coll k' _ => k' == k | _ => false

/-- The memory accesses of a core's collective are dropped where they wait: held writes, and requests not yet issued (R402). -/
def collStop (s : State) (k : Nat) : State :=
  { s with held := s.held.filter (fun h => h.who != .coll k), issueQ := s.issueQ.filter (fun r => !ofColl k r) }

/-- An abort ends the command of a running member: DST is poisoned, the record held, the command ends and posts (R402). -/
def collAbortEnd (s : State) (n k : Nat) (x : Cmd) (r : AbortRec) (st : Nat) : State :=
  let g := collGroup s (qGroup x)
  let c := collAt s k
  let s := poisonExtent (collStop (stagingWaited s c) k) k (qDstL x) (qDst x) (collDstLen s g n x c.cap)
  let s := modColl s k (fun c => { holdRecord (timeNs s) false r c with lastAbort := c.lastAbort ++ [(qGroup x, c.inst)] })
  retire (dcount (collFree s k x false) kCollAborts 1) k 4 x st

/-- A member's own record goes up the tree; at the root it is one more of an instance whose first stands (R401). -/
def sendUp (s : State) (g i : Nat) (solver : Bool) (r : AbortRec) : State :=
  let e := collGroup s g
  if e.parent = 0xFFFF then s else sendColl s 0x1A e.parent (hbControl r.id i r.rop r.nval solver 0 false r.origin r.cause false)

/-- The record of instance `i` reaches the members of this package (R402). A member whose own timeout has come ends COLL_TIMEOUT and
originates its own record (R20, R403); where its expiry meets the record, as for the members `meets`, it keeps the one that arrives
(R577). DEDUCED (log entry 78). -/
def applyAbort (s : State) (g i : Nat) (r : AbortRec) (meets : List Nat) : State :=
  (localMembers s (collGroup s g)).foldl (fun s m =>
    let c := coreAt s m.2
    match (if c.coll.stage != 0 && c.coll.inst == i then c.collCmd.filter (fun x => qGroup x == g) else none) with
    | some x =>
      let due := c.coll.taken + qTimeout s x
      if due ≤ timeNs s then
        let own := cqRec x 0x80 (rankOf (collGroup s g) m.1)
        sendUp (dcount (collAbortEnd s m.1 m.2 x (if meets.contains m.1 then r else own) stCollTimeout) kCollTimeouts 1) g i false own
      else collAbortEnd s m.1 m.2 x r stCollAbort
    | none =>
      if i < cqTakenOf s m.1 g && !c.coll.lastAbort.contains (g, i) then modColl s m.2 (holdRecord (timeNs s) true r) else s) s

/-- Engines whose joint solve is in instance `i` of the group's solver reductions end (R262, R402, R403); a member past the instance
holds the record. DEDUCED (log entry 78). -/
def applySolverAbort (s : State) (g i : Nat) (r : AbortRec) (meets : List Nat) : State :=
  let s := (List.range 64).foldl (fun s e =>
    match (engineAt s e).job with
    | some j =>
      if j.jid / 256 = g && j.got.isNone && (seInsts j).contains i then
        let due := j.since + dget s kCollTimeoutDefault
        if due ≤ timeNs s then
          let own := seRec j 0x80 (rankOf (collGroup s g) j.n)
          sendUp (dcount (seAbortBy e stCollTimeout (if meets.contains j.n then r else own) s) kCollTimeouts 1) g i true own
        else seAbortBy e stCollAbort r s
      else s
    | none => s) s
  (localMembers s (collGroup s g)).foldl (fun s m =>
    if i < seTakenOf s m.1 g && !(collAt s m.2).lastSe.contains (g, i) then modColl s m.2 (holdRecord (timeNs s) true r) else s) s

/-- A record accepted for an instance: its node ends, it goes down to every package and is applied here (R401); `meets` are
the members whose own expiry meets it (R403). -/
def acceptAbort (s : State) (g i : Nat) (solver : Bool) (r : AbortRec) (meets : List Nat := []) : State :=
  if s.collAborts.any (fun a => a.g == g && a.inst == i && a.solver == solver) then s
  else
    let s := { s with
      collAborts := s.collAborts ++ [⟨g, i, solver, r⟩],
      hbNodes := s.hbNodes.filter (fun h => !(h.id / 256 == g && h.inst == i % 2 ^ 24 && h.solver == solver)) }
    let s := (childrenOf (collGroup s g)).foldl (fun s l => sendColl s 0x1A l (hbControl r.id i r.rop r.nval solver 0 false r.origin r.cause false)) s
    if solver then applySolverAbort s g i r meets else applyAbort s g i r meets

/-- An abort originates here: up the tree, or accepted at the root (R401). DEDUCED (log entry 77). -/
def originate (s : State) (g i : Nat) (solver : Bool) (r : AbortRec) (meets : List Nat := []) : State :=
  if (collGroup s g).parent = 0xFFFF then acceptAbort s g i solver r meets else sendUp s g i solver r

/-! ### Takes (R380, R381, R383, R396) -/

/-- A skip: the command posts, and a gather window bound to it learns of it (R197). -/
def collSkipEnd (s : State) (k : Nat) (x : Cmd) (st : Nat) : State :=
  let s := if st = stEpochStale then dcount s kEpochStaleSkips 1 else s
  retire (modCore s k (fun c => gatherEnded c x.uid true)) k 4 x st

/-- The member takes its place in the group's order (R375, R381). -/
def takePlace (s : State) (n g : Nat) : State :=
  let i := cqTakenOf s n g
  let s := { s with cqTaken := tblSet (fun _ => 0) s.cqTaken (256 * n + g) (i + 1) }
  if (collGroup s g).instCq = i then modGroup s g (fun x => { x with instCq := i + 1 }) else s

/-- Staging bytes reserved by the commands of this package. -/
def stagingUsed (s : State) : Nat := s.cores.foldl (fun a c => a + c.2.coll.reserved) 0

/-- Reserve staging, or wait for it (R396). -/
def reserveStaging (s : State) (k : Nat) (x : Cmd) : State :=
  let n := stagingNeed s x
  if n + stagingUsed s ≤ dget s kStagingSize then modColl s k (fun c => { c with stage := 2, reserved := n })
  else s

/-- ALLTOALLV: the send sizes, as read. -/
def vSends (s : State) (k : Nat) (g : CollGroup) (x : Cmd) : State × List Nat × Nat :=
  let a := collRead s k (qSrcL x) (qSrc x) (4 * g.total)
  (a.1, u32s (bytesFB a.2.1), a.2.2)

/-- What the take of ALLTOALLV reads: the capacity, the condition of its reads, and the skip that the sizes bring, an illegal overlap
before an extent outside its window (R384, R399). -/
structure VTake where
  s : State
  cap : Nat := 0
  cond : Nat := 0
  skip : Option Nat := none

/-- ALLTOALLV: send sizes and capacity are read at the take (R399). -/
def vTake (s : State) (k : Nat) (g : CollGroup) (x : Cmd) : VTake :=
  let a := vSends s k g x
  let b := collRead a.1 k (qDstL x) (qDst x) 8
  let cap := leNat (bytesFB b.2.1)
  let sl := sizesBytes g.total + a.2.1.foldl (· + ·) 0
  let dl := 64 + sizesBytes g.total + cap
  { s := b.1, cap := cap, cond := worse a.2.2 b.2.2,
    skip := firstSkip [(qSrcL x == qDstL x && overlap (qSrc x) sl (qDst x) dl, stIllegal),
      ((collLoc k (qSrcL x) (qSrc x) sl).isNone || (collLoc k (qDstL x) (qDst x) dl).isNone, stBounds)] }

/-- A command that keeps its place but is skipped is the last taken, and aborts the collective for every member (R383, R407, R410). DEDUCED (log entry 78). -/
def peerSkipped (s : State) (n k g : Nat) (x : Cmd) (st : Nat) : State :=
  let i := cqTakenOf s n g
  let s := dcount (takePlace s n g) kHarebellOps (b2n (w0Op x.w0 == 1 || w0Op x.w0 == 2))
  let s := modColl s k (fun c => { c with lastAbort := c.lastAbort ++ [(g, i)], id := qId x, inst := i })
  originate (collSkipEnd s k x st) g i false (cqRec x 0x82 (rankOf (collGroup s g) n))

/-- The take of a collective command. -/
def collTake (e : Ex) (s : State) : State :=
  let x := e.x
  let g := qGroup x
  let gr := collGroup s g
  match collSkip s e.n e.k x with
  | some st =>
    if st = stEpochStale || !gr.valid || !isMember gr e.n then collSkipEnd s e.k x st else peerSkipped s e.n e.k g x st
  | none =>
    let op := w0Op x.w0
    let s := modColl s e.k (fun c => { c with seen := [] })
    let v : VTake := if op = 9 then vTake s e.k gr x else { s := s }
    match v.skip with
    | some st => peerSkipped v.s e.n e.k g x st
    | none =>
      let i := cqTakenOf s e.n g
      let s := dcount (takePlace v.s e.n g) kHarebellOps (b2n (op == 1 || op == 2))
      let now := timeNs s
      let s := modCore s e.k (fun c => { c with
        collCmd := some x, collReady := [],
        coll := { c.coll with id := qId x, inst := i, stage := 1, taken := now, waitFrom := now, cap := v.cap, cond := v.cond } })
      match s.collAborts.find? (fun a => a.g == g && a.inst == i && !a.solver) with
      | some a => collAbortEnd s e.n e.k x a.ar stCollAbort
      | none => reserveStaging s e.k x

/-- The ranges of stack memory that the take of ALLTOALLV reads. -/
def vRanges (s : State) (x : Cmd) : List (Nat × Nat) :=
  if w0Op x.w0 = 9 then
    (if qSrcL x then [] else [(qSrc x, 4 * (collGroup s (qGroup x)).total)]) ++ (if qDstL x then [] else [(qDst x, 8)])
  else []

/-- The collective queue holds a command in progress (R380), or its head waits for lines that it reads at its take (R293, R360). -/
def collBusy (s : State) (k : Nat) (c : Core) : Bool :=
  c.coll.stage != 0 || (match c.cq with | x :: _ => !(memReady s (vRanges s x) [] (.coll k)).2 | [] => false)

/-- The snoops that the head of CQ needs, if it waits for them (R361). -/
def cqPrep (s : State) (n : Nat) (mine : Cmd → Bool) : State :=
  match keyOf s n with
  | none => s
  | some k =>
    let c := coreAt s k
    match c.cq with
    | x :: _ => if headReady c .cq && !x.void && mine x && c.coll.stage == 0 then (memReady s (vRanges s x) [] (.coll k)).1 else s
    | [] => s

/-- The commands of a row of the collective queue: its opcode and operator, or a reserved one of them. -/
def collMine (op : Nat) (rop : Option Nat) (x : Cmd) : Bool :=
  (w0Op x.w0 == op && (match rop with | some r => qRop x == r || 7 < qRop x | none => true)) || 9 < w0Op x.w0

/-- A row of the collective queue. -/
def collRow (op : Nat) (rop : Option Nat) (n : Nat) (s : State) : State :=
  engineRow n .cq (collMine op rop) collBusy collTake (cqPrep s n (collMine op rop))

/-- BARRIER: a harebell pass without values (R386). -/
def execBarrier (n : Nat) (s : State) : Host.Outcome State Fault Refusal := whenUp s (collRow 1 none n s)
/-- HBREDUCE, integer sum (R386). -/
def execHbreduceIntegerSum (n : Nat) (s : State) : Host.Outcome State Fault Refusal := whenUp s (collRow 2 (some 0) n s)
/-- HBREDUCE, signed minimum (R386). -/
def execHbreduceMinimum (n : Nat) (s : State) : Host.Outcome State Fault Refusal := whenUp s (collRow 2 (some 1) n s)
/-- HBREDUCE, signed maximum (R386). -/
def execHbreduceMaximum (n : Nat) (s : State) : Host.Outcome State Fault Refusal := whenUp s (collRow 2 (some 2) n s)
/-- HBREDUCE, bitwise and (R386). -/
def execHbreduceAnd (n : Nat) (s : State) : Host.Outcome State Fault Refusal := whenUp s (collRow 2 (some 3) n s)
/-- HBREDUCE, bitwise or (R386). -/
def execHbreduceOr (n : Nat) (s : State) : Host.Outcome State Fault Refusal := whenUp s (collRow 2 (some 4) n s)
/-- HBREDUCE, bitwise exclusive or (R386). -/
def execHbreduceXor (n : Nat) (s : State) : Host.Outcome State Fault Refusal := whenUp s (collRow 2 (some 5) n s)
/-- HBREDUCE, FX192 sum (R388). -/
def execHbreduceFx192Sum (n : Nat) (s : State) : Host.Outcome State Fault Refusal := whenUp s (collRow 2 (some 6) n s)
/-- HBREDUCE, exact FP64 sum (R387). -/
def execHbreduceExactFp64Sum (n : Nat) (s : State) : Host.Outcome State Fault Refusal := whenUp s (collRow 2 (some 7) n s)
/-- ALLGATHER (R391). -/
def execAllgather (n : Nat) (s : State) : Host.Outcome State Fault Refusal := whenUp s (collRow 3 none n s)
/-- REDUCE_SCATTER (R391, R392). -/
def execReduceScatter (n : Nat) (s : State) : Host.Outcome State Fault Refusal := whenUp s (collRow 4 none n s)
/-- ALLREDUCE_RING (R391, R392). -/
def execAllreduceRing (n : Nat) (s : State) : Host.Outcome State Fault Refusal := whenUp s (collRow 5 none n s)
/-- ALLREDUCE_TREE (R391, R392). -/
def execAllreduceTree (n : Nat) (s : State) : Host.Outcome State Fault Refusal := whenUp s (collRow 6 none n s)
/-- BROADCAST (R391). -/
def execBroadcast (n : Nat) (s : State) : Host.Outcome State Fault Refusal := whenUp s (collRow 7 none n s)
/-- ALLTOALL (R399). -/
def execAlltoall (n : Nat) (s : State) : Host.Outcome State Fault Refusal := whenUp s (collRow 8 none n s)
/-- ALLTOALLV (R399). -/
def execAlltoallv (n : Nat) (s : State) : Host.Outcome State Fault Refusal := whenUp s (collRow 9 none n s)

/-- STAGING_RESERVED: a reduction that waited obtains its staging (R396). -/
def execStagingReserved (n at_ : Nat) (s0 : State) : Host.Outcome State Fault Refusal :=
  let s := atTime s0 at_
  whenUp s0 (match keyOf s n with
    | none => s
    | some k =>
      let c := collAt s k
      match (coreAt s k).collCmd with
      | none => s
      | some x =>
        if c.stage != 1 then s
        else
          let r := reserveStaging s k x
          if (collAt r k).stage = 2 then stagingWaited r c else s)

/-! ### The entry round (R382) -/

/-- Entry words of a member. -/
def entryWords (s : State) (g : CollGroup) (n : Nat) (x : Cmd) : List Nat :=
  let op := w0Op x.w0
  [qId x * 2 ^ 48 + op * 2 ^ 41 + qRop x * 2 ^ 37 + qFmt x * 2 ^ 29 + b2n (qFast x) * 2 ^ 28,
   qLen x * 2 ^ 32 + qNval x,
   2 ^ 32 + (if isReduce op && dget s kDeterminismScope == 2 then contribs s g op n else 0)]

/-- All words at one place are equal: their AND and OR agree. -/
def sameWords (i : Nat) (ws : List (List Nat)) : Bool :=
  match ws with
  | [] => true
  | w :: t => t.all (fun v => v.getD i 0 == w.getD i 0)

/-- The entry round ends in a mismatch (R382). -/
def entryMismatch (s : State) (g : CollGroup) (op : Nat) (ws : List (List Nat)) : Bool :=
  !sameWords 0 ws || !sameWords 1 ws ||
  ws.foldl (fun a w => a + w.getD 2 0 / 2 ^ 32) 0 != g.total ||
  (isReduce op && dget s kDeterminismScope == 2 && ws.foldl (fun a w => a + w.getD 2 0 % 2 ^ 32) 0 != 2 ^ g.leavesLog2)

/-- Bytes of 64-bit words that rank `r` brings; those of a bad word are bad. -/
def wordsFB (bad : List (Nat × Nat)) (r : Nat) (ws : List Nat) : List FB :=
  (idx ws).flatMap (fun w => (leBytes 8 w.2).map (fun b => some (b, bad.contains (r, w.1))))

/-- What a member's SRC holds, with its condition. -/
structure CollSrc where
  n : Nat
  k : Nat
  x : Cmd
  bs : List FB
  cond : Nat

/-- Read the SRC of every member that contributes (R391, R395, R399). -/
def readAllSrc (s : State) (g : CollGroup) (ms : List (Nat × Nat × Cmd)) : State × List CollSrc :=
  ms.foldl (fun a m =>
    let e := collExt a.1 g m.1 m.2.2
    let len := if w0Op m.2.2.w0 = 9 then
        let r := vSends a.1 m.2.1 g m.2.2
        e.1 + r.2.1.foldl (· + ·) 0
      else e.1
    let r := collRead a.1 m.2.1 (qSrcL m.2.2) (qSrc m.2.2) len
    (r.1, a.2 ++ [⟨m.1, m.2.1, m.2.2, r.2.1, r.2.2⟩])) (s, [])

/-- Bytes of `bs` from `o`, `n` of them. -/
def sliceFB (bs : List FB) (o n : Nat) : List FB := (bs.drop o).take n

/-- A segment lands in a member's DST: written, marked received unless a line failed, bad bytes noted (R395, R397). The answer says
whether a line failed. -/
def landSeg (s : State) (k : Nat) (x : Cmd) (seg off : Nat) (bs : List FB) : State × Bool :=
  let r := collPut s k x off bs
  let s := modCore r.1 k (fun c =>
    let c := { c with coll := { c.coll with cond := if badFB bs then worse c.coll.cond stPoison else c.coll.cond } }
    if r.2 then c
    else
      let c := { c with coll := { c.coll with segs := insNat seg c.coll.segs } }
      if w0Op x.w0 = 3 then gatherReady c x.uid seg else c)
  (s, r.2)

/-- Sum of the first `i` numbers. -/
def sumTake (i : Nat) (l : List Nat) : Nat := (l.take i).foldl (· + ·) 0

/-- Send sizes of every rank, each with whether it was read from a bad tile or line (R395, R399). -/
abbrev Sizes := List (Nat × List (Nat × Bool))

/-- Sizes as 32-bit words. -/
def sizesFB (bs : List FB) : List (Nat × Bool) := (chunks 4 bs).map (fun c => (leNat (bytesFB c), badFB c))

/-- The size of what rank `q` sends to rank `r`. -/
def sizeAt (vs : Sizes) (q r : Nat) : Nat × Bool := (((vs.find? (fun p => p.1 == q)).map (·.2)).getD []).getD r (0, false)

/-- What the member with rank `r` receives from the member of `a` (rank `q`): offset in DST and bytes; `vs` are the send sizes of every rank
for ALLTOALLV. -/
def segFor (g : CollGroup) (a : CollSrc) (q r : Nat) (vs : Sizes) : Option (Nat × List FB) :=
  let len := qLen a.x
  match w0Op a.x.w0 with
  | 3 => some (q * len, a.bs)
  | 7 => if q = g.rootRank then some (0, a.bs) else none
  | 8 => some (q * len, sliceFB a.bs (r * len) len)
  | _ =>
    let mine := u32s (bytesFB (a.bs.take (4 * g.total)))
    let before := (List.range q).foldl (fun t j => t + (sizeAt vs j r).1) 0
    some (64 + sizesBytes g.total + before, sliceFB a.bs (sizesBytes g.total + sumTake r mine) (mine.getD r 0))

/-- Local segments of a collective that moves data (R391, R397, R399); the answer names senders whose line write failed. -/
def moveLocal (s : State) (g : CollGroup) (srcs : List CollSrc) (vs : Sizes) : State × List Nat :=
  srcs.foldl (fun a p => srcs.foldl (fun a q =>
    let r := rankOf g p.n
    let sr := rankOf g q.n
    match segFor g q sr r vs with
    | none => a
    | some (o, bs) =>
      let l := landSeg a.1 p.k p.x sr o bs
      (l.1, if l.2 then a.2 ++ [sr] else a.2)) a) (s, [])

/-- Consecutive bytes of one badness as runs (offset, bytes, bad). -/
def redRuns (sz : Nat) (vs : List RedV) : List (Nat × List Byte × Bool) :=
  ((idx vs).foldl (fun (a : List (Nat × List Byte × Bool)) p =>
    match a with
    | (o, bs, b) :: t => if b = p.2.bad then (o, bs ++ leBytes sz p.2.v, b) :: t else (p.1 * sz, leBytes sz p.2.v, p.2.bad) :: a
    | [] => [(p.1 * sz, leBytes sz p.2.v, p.2.bad)]) []).reverse

/-- Contributions of a reduction in their order: by rank, or by leaf under CANON; none when one is missing (R391, R392). Other
packages' members are named by their rank, or by their first leaf under CANON. DEDUCED (log entry 75). -/
def redContribs (s : State) (g : CollGroup) (srcs : List CollSrc) (o : EntryRemote) : Option (List (List FB)) :=
  let canon := dget s kDeterminismScope == 2
  let m := if canon then 2 ^ g.leavesLog2 else g.total
  let len := match srcs with | a :: _ => qLen a.x | [] => 0
  let mine := srcs.flatMap (fun a =>
    let f := if canon then firstLeaf g (localOrd g a.n) else rankOf g a.n
    (idx (if len = 0 then [] else chunks len a.bs)).map (fun p => (f + p.1, p.2)))
  let theirs := o.values.flatMap (fun r => (idx (if len = 0 then [] else chunks len (wordsFB o.bad r.1 r.2))).map (fun p => (r.1 + p.1, p.2)))
  let t : Tbl (List FB) := (mine ++ theirs).foldl (fun t p => tblSet (fun _ => []) t p.1 p.2) []
  let l := (List.range m).map (fun i => tblGet (fun _ => []) t i)
  if l.any List.isEmpty then none else some l

/-- The nodes of the canonical tree that a member with leaves lo to hi − 1 sends: it sends one, or the two that stand at the ends of its
leaves; those between them wait for what is combined with these, so that it sends at most twice what it does in FIXED (R394, R398). DESIGN CHOICE (log entry 140). -/
def endNodes (lo hi : Nat) : List (Nat × Nat) :=
  let l := alignedNodes 34 lo hi
  if l.length ≤ 2 then l else l.head?.toList ++ l.getLast?.toList

/-- The segments of other packages' members that a reduction awaits: their ranks, or the first leaves of the nodes that they send
(R394, R397). DEDUCED (log entry 75). DESIGN CHOICE (log entry 140). -/
def segsWanted (s : State) (len : Nat) (o : EntryRemote) : List Nat :=
  o.values.flatMap (fun r =>
    let n := if len = 0 then 0 else cdiv (8 * r.2.length) len
    if dget s kDeterminismScope = 2 then (endNodes r.1 (r.1 + n)).map (·.1) else (List.range n).map (r.1 + ·))

/-- The result of a bulk reduction, held until each member completes. -/
def setReduction (s : State) (g : CollGroup) (srcs : List CollSrc) (x : Cmd) (o : EntryRemote) : State :=
  match redContribs s g srcs o, numFmt s true (qFmt x) with
  | some cs, some f =>
    let sz := nfW f / 8
    let vs := reduceAll s x f.fmt cs.length cs
    let fl := flagsNat (vs.foldl (fun a v => orFlags a v.fl) noFlags)
    let s := { s with freeCount := s.freeCount + 1 }
    srcs.foldl (fun s a =>
      let mine := if w0Op x.w0 = 4 then
          let e := vs.length / g.total
          (vs.drop (rankOf g a.n * e)).take e
        else vs
      modColl s a.k (fun c => { c with result := redRuns sz mine, known := true, fl := fl, wants := segsWanted s (qLen x) o })) s
  | _, _ => s

/-! ### Harebell nodes (R385–R389) -/

/-- Words of a member's SRC. -/
def srcWords (bs : List FB) : List Nat := (chunks 8 (bytesFB bs)).map leNat

/-- A result reaches the local members of an instance: held until each completes (R389). -/
def hbGive (s : State) (g i : Nat) (ws : List Nat) (fl : Nat) (poison : Bool) : State :=
  (running s g (fun c => c.stage == 3 && c.inst % 2 ^ 24 == i % 2 ^ 24)).foldl (fun s m =>
    modColl s m.2.1 (fun c => { c with known := true, fl := fl, result := [(0, ws.flatMap (leBytes 8), poison)] })) s

/-- A result goes down to the children and to the local members. -/
def hbDownTo (s : State) (id i rop nval : Nat) (ws : List Nat) (fl : Nat) (poison : Bool) : State :=
  let is := if rop = 6 then hbItems 6 (hbInputs false 6 ws) else ws
  let s := (childrenOf (collGroup s (id / 256))).foldl (fun s l => sendSet s 0x19 l id i rop nval 0 fl poison is) s
  hbGive s (id / 256) i ws fl poison

/-- A child's set is complete: its last flit and every flit before it have come. -/
def kidDone (k : HbKid) : Bool :=
  match k.last with | some l => (List.range (l + 1)).all (fun i => k.parts.any (fun p => p.1 == i)) | none => false

/-- The harebell node of an instance, if any flit of it has come. -/
def hbNode (s : State) (id i : Nat) (solver : Bool := false) : Option HbNode :=
  s.hbNodes.find? (fun h => h.id == id && h.inst == i % 2 ^ 24 && h.solver == solver)
/-- Replace a node. -/
def putNode (s : State) (h : HbNode) : State :=
  { s with hbNodes := s.hbNodes.filter (fun x => !(x.id == h.id && x.inst == h.inst && x.solver == h.solver)) ++ [h] }
/-- Every child of a group has sent its whole set. -/
def kidsAll (g : CollGroup) (h : HbNode) : Bool := (childrenOf g).all (fun l => h.kids.any (fun k => k.pkg == l && kidDone k))

/-- Items of a child's flits, in order. -/
def kidItems (k : HbKid) : List Nat :=
  (List.range ((k.last.getD 0) + 1)).flatMap (fun i => (chunks 16 (((k.parts.find? (fun p => p.1 == i)).map (·.2)).getD [])).map leNat)

/-- The package node combines when every child's set is complete and every local member has entered (R385): up to the parent, or the
result down from the root; what it held is free for another instance. DEDUCED (log entry 76). -/
def hbTry (s : State) (id i : Nat) (rop nval : Nat) : State :=
  let gr := collGroup s (id / 256)
  let h := (hbNode s id i).getD { id := id, inst := i % 2 ^ 24, rop := rop, nval := nval }
  let own := h.own.getD ([], false, 0)
  if (h.own.isNone && gr.localCount != 0) || !kidsAll gr h then s
  else
    let all := ((if h.own.isSome then [hbOfItems rop (nval + 1) own.1] else []) ++
      h.kids.map (fun k => hbOfItems rop (nval + 1) (kidItems k))).foldl (hbMerge rop) []
    let bad := own.2.1 || h.kids.any (·.poison)
    let s := { s with hbNodes := s.hbNodes.erase h }
    if gr.parent = 0xFFFF then
      let q := hbResult s rop all
      hbDownTo s id i rop nval q.1 (flagsNat q.2) bad
    else sendSet s 0x18 gr.parent id i rop nval (own.2.2 + h.kids.foldl (fun a k => a + k.count) 0) 0 bad (hbItems rop all)

/-- What the members of an HBREDUCE bring: their values combined, with whether one was read from a bad tile or line (R389). -/
def hbMine (s : State) (g : CollGroup) (ms : List (Nat × Nat × Cmd)) (x : Cmd) : State × List HbVal × Bool :=
  let r := readAllSrc s g ms
  let fl := flushOn s
  (r.2.foldl (fun s a => modColl s a.k (fun c => { c with cond := worse c.cond a.cond })) r.1,
   (r.2.map (fun a => hbInputs fl (qRop x) (srcWords a.bs))).foldl (hbMerge (qRop x)) [], r.2.any (fun a => a.cond != 0))

/-- The members of this package enter an HBREDUCE: their values are read and stand at its node (R385, R386). DEDUCED (log entry 76). -/
def hbEnter (s : State) (g : CollGroup) (ms : List (Nat × Nat × Cmd)) (x : Cmd) (i : Nat) : State :=
  let r := hbMine s g ms x
  let h := (hbNode r.1 (qId x) i).getD { id := qId x, inst := i % 2 ^ 24, rop := qRop x, nval := qNval x }
  hbTry (putNode r.1 { h with own := some (hbItems (qRop x) r.2.1, r.2.2, ms.length) }) (qId x) i (qRop x) (qNval x)

/-- The result of an HBREDUCE whose members are all known: those here and those that the round brought. DEDUCED (log entry 76). -/
def hbDirect (s : State) (g : CollGroup) (ms : List (Nat × Nat × Cmd)) (x : Cmd) (i : Nat) (o : EntryRemote) : State :=
  let rop := qRop x
  let r := hbMine s g ms x
  let fl := flushOn s
  let q := hbResult s rop ((o.values.map (fun p => hbInputs fl rop p.2)).foldl (hbMerge rop) r.2.1)
  hbGive r.1 (qGroup x) i q.1 (flagsNat q.2) (r.2.2 || o.values.any (fun p => o.bad.any (fun b => b.1 == p.1)))

/-- The node of a solver reduction combines when every child's set is complete and every local member has entered (R385): up to the parent,
or from the root down to the children; the local members take the result with SOLVER_REDUCTION_RETURN. DEDUCED (log entry 76). -/
def seTry (s : State) (id i : Nat) : State :=
  let gr := collGroup s (id / 256)
  let js := (List.range 64).filterMap (fun e =>
    match (engineAt s e).job with
    | some j => if j.jid / 256 = id / 256 then (((seInsts j).find? (fun x => x % 2 ^ 24 == i % 2 ^ 24)).map (fun x => (j, sePart j x))) else none
    | none => none)
  let o : HbNode := (hbNode s id i true).getD { id := id, inst := i % 2 ^ 24, rop := 6, nval := 5, solver := true }
  let h := match js with
    | p :: _ => { o with rop := seRop p.1, nval := seNval p.1 (p.1.inst + (i + 2 ^ 24 - p.1.inst % 2 ^ 24) % 2 ^ 24) }
    | [] => o
  if h.sent || !hasTree gr || js.length < gr.localCount || !kidsAll gr h then s
  else
    let kids := h.kids.map (fun k => hbOfItems h.rop (h.nval + 1) (kidItems k))
    let all := (js.map (·.2) ++ kids).foldl (hbMerge h.rop) []
    let s := if js.isEmpty then { s with hbNodes := s.hbNodes.erase o } else putNode s { h with sent := true, kids := [] }
    if gr.parent = 0xFFFF then
      let q := hbResult s h.rop all
      let is := if h.rop = 6 then hbItems 6 (hbInputs false 6 q.1) else q.1
      (childrenOf gr).foldl (fun s l => sendSet s 0x19 l id i h.rop h.nval 0 (flagsNat q.2) false is true) s
    else sendSet s 0x18 gr.parent id i h.rop h.nval (js.length + h.kids.foldl (fun a k => a + k.count) 0) 0 false (hbItems h.rop all) true

/-- An engine holds a solver reduction of a group. -/
def seHolds (s : State) (g i : Nat) : Bool :=
  (List.range 64).any (fun e => match (engineAt s e).job with
    | some j => j.jid / 256 == g && (seInsts j).any (fun x => x % 2 ^ 24 == i)
    | none => false)

/-- The solver reductions that the engines of this package hold send their partials on; a node that has sent, and whose reduction no engine
holds any more, is free for another instance (R385). -/
def solverUp (s0 : State) : State :=
  let s := { s0 with hbNodes := s0.hbNodes.filter (fun h => !(h.solver && h.sent) || seHolds s0 (h.id / 256) h.inst) }
  (List.range 64).foldl (fun s e =>
    match (engineAt s e).job with
    | some j => if j.jid = 0 then s else (seInsts j).foldl (fun s i => seTry s j.jid i) s
    | none => s) s

/-! ### Segments to other packages (R397) -/

/-- Logical packages to which a member sends its contribution: the tree neighbours for ALLREDUCE_TREE and for the root's BROADCAST, else the
next package of the ring. DESIGN CHOICE (log entry 140). -/
def sendTargets (g : CollGroup) (op n : Nat) : List Nat :=
  if g.total ≤ g.localCount || (op == 7 && rankOf g n != g.rootRank) then []
  else if op = 6 || op = 7 then childrenOf g ++ (if g.parent = 0xFFFF then [] else [g.parent])
  else [g.ringNext]

/-- A contribution leaves for a logical package as line writes; where the receiver's DST or staging lies there is not known here, and
free. DESIGN CHOICE (log entry 140). -/
def sendSeg (s : State) (k uid rop seg : Nat) (bs : List FB) (l : Nat) : State :=
  let r := freeBytes s 8
  let base := 2 ^ 63 + l * 2 ^ 46 + leNat r.2 % 2 ^ 33 * 128
  let w := writeRemote r.1 (fdOfCore k) base 0 bs false (fun _ => .coll k uid)
  modColl w.s k (fun c => { c with lost := c.lost || !w.failed.isEmpty, sends := c.sends ++ [⟨rop, l, seg, (linesOf base bs.length).length, badFB bs⟩] })

/-- The nodes of the canonical tree that a member alone holds and sends, as (member, first leaf, bytes) (R394, R398). DESIGN CHOICE (log entry 140). -/
def canonParts (s : State) (g : CollGroup) (a : CollSrc) : List (CollSrc × Nat × List FB) :=
  match numFmt s true (qFmt a.x) with
  | none => []
  | some f =>
    let i := localOrd g a.n
    let lo := firstLeaf g i
    let cs := chunks (qLen a.x) a.bs
    (endNodes lo (lo + leavesAt g i)).map (fun p => (a, p.1, nodeBytes s f.fmt ((cs.drop (p.1 - lo)).take (2 ^ p.2))))

/-- What the members of this package send: the nodes of the canonical tree, or each its contribution by rank (R394, R397). -/
def sendParts (s : State) (g : CollGroup) (srcs : List CollSrc) : List (CollSrc × Nat × List FB) :=
  let srcs := srcs.filter (fun a => !a.bs.isEmpty)
  if dget s kDeterminismScope = 2 && srcs.any (fun a => isReduce (w0Op a.x.w0)) then srcs.flatMap (canonParts s g)
  else srcs.map (fun a => (a, rankOf g a.n, a.bs))

/-- Every part that this package's members send leaves for the packages that take it. -/
def sendAll (s : State) (g : CollGroup) (srcs : List CollSrc) : State :=
  (sendParts s g srcs).foldl (fun s p =>
    (sendTargets g (w0Op p.1.x.w0) p.1.n).foldl (sendSeg · p.1.k p.1.x.uid (qRop p.1.x) p.2.1 p.2.2) s) s

/-- Some line write of a core's collective awaits its acknowledgement, or is held. -/
def collWaits (s : State) (k : Nat) : Bool :=
  let u := ((coreAt s k).collCmd.map (·.uid)).getD 0
  (s.reqs ++ s.issueQ).any (fun r => r.who == .coll k u) ||
  s.held.any (fun h => h.who == .coll k) || s.snoops.any (fun n => n.who == .coll k)

/-- A segment that this package passes on is settled: once its writes are acknowledged its SEG_DONE follows, and a failed one aborts the
collective with cause TRANSPORT (R376, R397). DEDUCED (log entry 77). DESIGN CHOICE (log entry 140). -/
def relaySettle (s : State) (r : SegRelay) : State :=
  let s' := { s with relays := s.relays.erase r }
  if r.lost then originate s' (r.id / 256) r.inst false ⟨r.id, 0x83, (collGroup s (r.id / 256)).rankBase, r.rop, 0⟩
  else if (s.reqs ++ s.issueQ).any (fun q => q.who == .relay r.id r.inst r.seg) then s
  else sendColl s' 0x1C r.pkg (hbControl r.id r.inst r.rop 0 false 0 false r.seg 0 r.poison r.lines)

/-- A line write of a member's collective has failed: the collective is aborted with cause TRANSPORT, and the member's data phase does not
complete but waits for the record (R397, R402). -/
def collFail (s : State) (n k : Nat) (x : Cmd) : State :=
  originate (modColl s k (fun c => { c with stage := 5, lost := false, sends := [] })) (qGroup x) (collAt s k).inst false
    (cqRec x 0x83 (rankOf (collGroup s (qGroup x)) n))

/-- A line write that failed aborts its collective with cause TRANSPORT; when every write of a member is acknowledged, SEG_DONE follows
(R397). -/
def collSettle (s : State) : State :=
  s.relays.foldl relaySettle (s.cores.foldl (fun s c =>
    let k := c.1
    let q := collAt s k
    match (coreAt s k).collCmd with
    | some x =>
      if q.lost then collFail s (logicalOf s k) k x
      else if q.sends.isEmpty || collWaits s k then s
      else q.sends.foldl (fun s o => sendColl s 0x1C o.pkg (hbControl q.id q.inst o.rop 0 false 0 false o.seg 0 o.poison o.lines))
        (modColl s k (fun c => { c with sends := [] }))
    | none => s) s)

/-! ### Data phases -/

/-- ALLTOALLV: the receive sizes of a member, and whether they exceed its capacity (R399). -/
def vReceive (g : CollGroup) (r : Nat) (vs : Sizes) : List (Nat × Bool) := (List.range g.total).map (fun j => sizeAt vs j r)

/-- ALLTOALLV: the receive sizes are written; those that come from a bad size poison what holds them, and a line that fails aborts the
collective (R395, R397, R399). -/
def writeSizes (s : State) (g : CollGroup) (m : Nat × Nat × Cmd) (vs : Sizes) : State × Bool :=
  let got := vReceive g (rankOf g m.1) vs
  let s := modColl s m.2.1 (fun c => { c with sizes := got.map (·.1) })
  let fb := got.flatMap (fun v => (leBytes 4 v.1).map (fun b => some (b, v.2)))
  let w := collPut s m.2.1 m.2.2 64 fb
  (if badFB fb then modColl w.1 m.2.1 (fun c => { c with cond := worse c.cond stPoison }) else w.1, w.2)

/-- The data phase of the members of one instance begins (R382). DEDUCED (log entry 75). -/
def dataPhase (s : State) (gi i : Nat) (ms : List (Nat × Nat × Cmd)) (x : Cmd) (o : EntryRemote) : State :=
  let g := collGroup s gi
  let op := w0Op x.w0
  let s := ms.foldl (fun s m => modColl s m.2.1 (fun c => { c with stage := 3 })) s
  if op = 1 || (3 ≤ op && op ≤ 8 && qLen x = 0) then ms.foldl (fun s m => modColl s m.2.1 (fun c => { c with known := true })) s
  else if op = 2 then
    if hasTree g && o.values.isEmpty then hbEnter s g ms x i else hbDirect s g ms x i o
  else
    let r := readAllSrc s g ms
    let s := r.2.foldl (fun s a => modColl s a.k (fun c => { c with cond := worse c.cond a.cond })) r.1
    if isReduce op then setReduction (sendAll s g r.2) g r.2 x o
    else
      let vs := if op = 9 then
          r.2.map (fun a => (rankOf g a.n, sizesFB (a.bs.take (4 * g.total)))) ++ o.values.map (fun p => (p.1, sizesFB (wordsFB o.bad p.1 p.2)))
        else []
      let past := if op = 9 then ms.find? (fun m => (collAt s m.2.1).cap < sumTake g.total ((vReceive g (rankOf g m.1) vs).map (·.1))) else none
      match past with
      | some m => originate s gi i false (cqRec m.2.2 0x84 (rankOf g m.1))
      | none =>
        let z := if op = 9 then ms.foldl (fun (a : State × List Nat) m =>
            let w := writeSizes a.1 g m vs
            (w.1, if w.2 then a.2 ++ [rankOf g m.1] else a.2)) (s, [])
          else (s, [])
        let mv := moveLocal (sendAll z.1 g r.2) g r.2 vs
        ms.foldl (fun s m =>
          if (z.2 ++ mv.2).contains (rankOf g m.1) && (collAt s m.2.1).stage = 3 then collFail s m.1 m.2.1 m.2.2 else s) mv.1

/-- The ranges of stack memory that a member of a starting data phase reads and writes. DEDUCED (log entry 51). -/
def phaseRanges (s : State) (g : CollGroup) (m : Nat × Nat × Cmd) : List (Nat × Nat) × List (Nat × Nat) :=
  let x := m.2.2
  let op := w0Op x.w0
  let e := collExt s g m.1 x
  let n := if op = 9 then e.1 + (vSends s m.2.1 g x).2.1.foldl (· + ·) 0 else e.1
  (if qSrcL x || n = 0 then [] else [(qSrc x, n)],
   if qDstL x || !(op = 3 || (7 ≤ op && op ≤ 9)) then [] else [(qDst x, collDstLen s g m.1 x (collAt s m.2.1).cap)])

/-- The data phase of these members can start: its lines can be accessed (R293, R360). -/
def phaseReady (s : State) (g : CollGroup) (ms : List (Nat × Nat × Cmd)) : State × Bool :=
  ms.foldl (fun (a : State × Bool) m =>
    let r := phaseRanges a.1 g m
    let w := memReady a.1 r.1 r.2 (.coll m.2.1)
    (w.1, a.2 && w.2)) (s, true)

/-- The entry round of a group that this package only relays: it is counted, its opcode says along which path its segments go, and the
root aborts it where it ends in a mismatch (R376, R382). DEDUCED (log entry 77). -/
def relayRound (s : State) (g : Nat) (o : EntryRemote) : State :=
  let gr := collGroup s g
  let i := cqTakenOf s 10240 g
  let ws := o.words.map (·.2)
  let w0 := (ws.headD []).headD 0
  let s := { s with
    cqTaken := tblSet (fun _ => 0) s.cqTaken (256 * 10240 + g) (i + 1), relayOps := s.relayOps ++ [(g, i, bitsOf w0 47 41)] }
  if gr.parent = 0xFFFF && entryMismatch s gr (bitsOf w0 47 41) ws then
    acceptAbort (dcount s kCollMismatches 1) g i false ⟨w0 / 2 ^ 48, 0x81, 0xFFFFFFFF, bitsOf w0 40 37, (ws.headD []).getD 1 0 % 8⟩
  else s

/-- COLL_ENTRY_ROUND_RESULT: the entry round of the oldest instance whose local members have all entered returns (R382). DEDUCED (log entry 77). -/
def execCollEntryRoundResult (g : Nat) (o : EntryRemote) (s : State) : Host.Outcome State Fault Refusal :=
  whenUp s (
    let gr := collGroup s g
    let at2 := running s g (fun c => c.stage == 2)
    let i := at2.foldl (fun a m => min a (collAt s m.2.1).inst) ((at2.head?.map (fun m => (collAt s m.2.1).inst)).getD 0)
    let ms := at2.filter (fun m => (collAt s m.2.1).inst == i)
    match ms with
    | [] => if gr.valid && gr.localCount == 0 && !o.words.isEmpty then relayRound s g o else s
    | m :: _ =>
      if ms.length < gr.localCount || (!hasTree gr && !o.words.isEmpty) then s
      else
        let ws := ms.map (fun m => entryWords s gr m.1 m.2.2) ++ o.words.map (·.2)
        if entryMismatch s gr (w0Op m.2.2.w0) ws then
          let s := dcount (ms.foldl (fun s m => modColl s m.2.1 (fun c => { c with stage := 4 })) s) kCollMismatches 1
          if gr.parent = 0xFFFF then acceptAbort s g i false (cqRec m.2.2 0x81 0xFFFFFFFF) else s
        else
          let w := phaseReady s gr ms
          if w.2 then collSettle (dataPhase w.1 g i ms m.2.2 o) else w.1)

/-! ### Collective flits (R405, R406) -/

/-- Logical package that a flit comes from, among the children of a group. -/
def kidOf (s : State) (g : CollGroup) (f : Flit) : Option Nat := (childrenOf g).find? (fun l => pkgOf s l == some (fSrc f))

/-- The instance of a group, counted in full, that a 24-bit number names: the nearest not above the takes begun here plus one turn. DEDUCED (log entry 79). -/
def fullInst (count i : Nat) : Nat :=
  let b := count / 2 ^ 24 * 2 ^ 24 + i % 2 ^ 24
  if b ≤ count + 2 ^ 23 || b < 2 ^ 24 then b else b - 2 ^ 24

/-- The instance that a collective flit names, counted in full: of the takes begun here, or of the rounds that a package without members
has relayed. -/
def flitInst (s : State) (g : Nat) (solver : Bool) (i : Nat) : Nat :=
  let gr := collGroup s g
  fullInst (if solver then gr.instSe else if gr.localCount = 0 then cqTakenOf s 10240 g else gr.instCq) i

/-- A partial of a child: kept until the node combines (R385, R405); an instance that is aborted takes none. DEDUCED (log entry 76). -/
def hbUpAt (s : State) (f : Flit) : State :=
  let c0 := ctl0 f
  let id := c0 / 2 ^ 48
  let i := bitsOf c0 47 24
  let gr := collGroup s (id / 256)
  let sol := bitOf c0 16
  if !gr.valid || s.collAborts.any (fun a => a.g == id / 256 && a.inst == flitInst s (id / 256) sol i && a.solver == sol) then s
  else match kidOf s gr f with
    | none => s
    | some l =>
      let h := (hbNode s id i sol).getD { id := id, inst := i, rop := bitsOf c0 23 20, nval := bitsOf c0 19 17, solver := sol }
      let k := (h.kids.find? (fun k => k.pkg == l)).getD { pkg := l }
      let part := bitsOf c0 15 8
      let k := { k with parts := k.parts ++ [(part, f.payload.drop 16)], last := if bitOf c0 7 then some part else k.last,
                        count := ctl1 f / 2 ^ 32, poison := k.poison || bitOf (ctl1 f) 23 }
      let h := { h with kids := h.kids.filter (fun x => x.pkg != l) ++ [k] }
      if sol then seTry (putNode s h) id i else hbTry (putNode s h) id i h.rop h.nval

/-- A result from the parent: passed down and given to the local members (R389, R405); a solver reduction's is passed down. DEDUCED (log entry 76). -/
def hbDownAt (s : State) (f : Flit) : State :=
  let c0 := ctl0 f
  let id := c0 / 2 ^ 48
  let i := bitsOf c0 47 24
  let gr := collGroup s (id / 256)
  if !gr.valid then s
  else
    let s := (childrenOf gr).foldl (fun s l => sendColl s 0x19 l f.payload) s
    if bitOf c0 16 then s
    else
      let n := bitsOf c0 19 17 + 1
      let part := bitsOf c0 15 8
      let items := (chunks 16 (f.payload.drop 16)).map leNat
      let ws := if bitsOf c0 23 20 = 6 then ((chunks 2 items).flatMap (fun p => let v := p.getD 0 0 + p.getD 1 0 * 2 ^ 128; [v % 2 ^ 64, v / 2 ^ 64 % 2 ^ 64, v / 2 ^ 128 % 2 ^ 64]))
        else items.map (· % 2 ^ 64)
      if part != 0 then s else hbGive s (id / 256) i (ws.take n) (bitsOf (ctl1 f) 27 24) (bitOf (ctl1 f) 23)

/-- An abort record: from a child up the tree, accepted at the root; from the parent it is the record accepted (R401, R402); `meets` are
the members whose own expiry meets it. -/
def hbAbortAt (meets : List Nat) (s : State) (f : Flit) : State :=
  let c0 := ctl0 f
  let id := c0 / 2 ^ 48
  let solver := bitOf c0 16
  let g := id / 256
  let gr := collGroup s g
  let i := flitInst s g solver (bitsOf c0 47 24)
  let r : AbortRec := ⟨id, bitsOf (ctl1 f) 31 24, ctl1 f / 2 ^ 32, bitsOf c0 23 20, bitsOf c0 19 17⟩
  if !gr.valid then s
  else if gr.parent != 0xFFFF && pkgOf s gr.parent == some (fSrc f) then acceptAbort s g i solver r meets
  else if (kidOf s gr f).isSome then originate s g i solver r meets
  else s

/-! ### Completion and expiry (R380, R400–R403) -/

/-- Every segment that the member receives has come (R397). -/
def segsAll (g : CollGroup) (x : Cmd) (c : CollCtl) : Bool :=
  match w0Op x.w0 with
  | 7 => c.segs.contains g.rootRank
  | op => (op == 3 || op == 8 || op == 9) && c.segs.length == g.total

/-- The part of DST that a segment fills, as offset and length, for a collective that moves data (R391, R399). DEDUCED (log entry 75). -/
def segRange (g : CollGroup) (x : Cmd) (c : CollCtl) (seg : Nat) : Nat × Nat :=
  match w0Op x.w0 with
  | 7 => (0, qLen x)
  | 9 => (64 + sizesBytes g.total + sumTake seg c.sizes, c.sizes.getD seg 0)
  | _ => (seg * qLen x, qLen x)

/-- A tile or line that holds part of an extent is poisoned. -/
def extentBad (s : State) (k : Nat) (loc : Bool) (a n : Nat) : Bool :=
  if n = 0 then false
  else if loc then (tilesOf a n).any (fun t => (tileAt (coreAt s k) t).poison)
  else (linesOf a n).any (marked s)

/-- The DST of a member has received poison with the segments of other packages; a reduction's elements say so themselves (R395). -/
def segPoison (s : State) (k : Nat) (x : Cmd) (c : CollCtl) : Bool :=
  let g := collGroup s (qGroup x)
  !isReduce (w0Op x.w0) && c.bads.any (fun seg => let r := segRange g x c seg; extentBad s k (qDstL x) (qDst x + r.1) r.2)

/-- The end condition of a completing collective (R389, R395, R468). DEDUCED (log entry 75). -/
def collCond (s : State) (k : Nat) (x : Cmd) (c : CollCtl) : Nat :=
  let bad := c.result.any (fun r => r.2.2) || segPoison s k x c
  let st := if bad then worse c.cond stPoison else c.cond
  let st := if w0Op x.w0 = 2 && qRop x = 6 && bitOf c.fl 1 then worse st stRangeSat else st
  if w0Op x.w0 = 1 || (3 ≤ w0Op x.w0 && w0Op x.w0 ≤ 8 && qLen x == 0) then st else internalCond s k st

/-- A member's result is written into its DST; a line that fails aborts the collective (R397). -/
def collWrite (s : State) (n k : Nat) (x : Cmd) : State :=
  let c := collAt s k
  let w := c.result.foldl (fun a r =>
    let p := collPut a.1 k x r.1 (r.2.1.map (fun b => some (b, r.2.2)))
    (p.1, a.2 || p.2)) (s, false)
  let s := modColl w.1 k (fun c => { c with wrote := true })
  if w.2 then collFail s n k x else s

/-- A member's data phase completes: flags, status, post (R380, R393, R395). -/
def collFinish (s : State) (n k : Nat) (x : Cmd) : State :=
  let c := collAt s k
  let st := collCond s k x c
  let fl := flagsOfNat c.fl
  let s := tallyFlags (modColl s k (fun c => { c with flags := c.flags ||| BitVec.ofNat 4 c.fl })) k 5 fl
  let s := retire (collFree s k x false) k 4 x st
  monSample (dcount s kCollectivesCompleted (b2n (st == 0))) 2 0 n (timeNs s - c.taken)

/-- The data phase of a member has all that it needs: its result with the segments that it was computed from, or every segment (R397). -/
def collKnown (s : State) (x : Cmd) (c : CollCtl) : Bool :=
  (c.known && c.wants.all c.segs.contains) || segsAll (collGroup s (qGroup x)) x c

/-- The ranges of stack memory that a member's result is written to. -/
def resultRanges (x : Cmd) (c : CollCtl) : List (Nat × Nat) :=
  if qDstL x then [] else c.result.map (fun r => (qDst x + r.1, r.2.1.length))

/-- COLL_ID of the confirmation of a snapshot (R490). -/
def snapId (s : State) : Nat := dget s kSnapHbGroup * 256 + 0xFF

/-- A harebell flit belongs to the confirmations of SNAP_HB_GROUP: they form a sequence of their own, which never meets a CQ collective or a
solver reduction (R490). DEDUCED (log entry 97). -/
def isSnapFlit (s : State) (f : Flit) : Bool := ctl0 f / 2 ^ 48 == snapId s && !bitOf (ctl0 f) 16

/-- A flit of the confirmations is of the generation that this package takes and has not left (R490, R492). DEDUCED (log entry 97). -/
def ofMySnap (s : State) (f : Flit) : Bool :=
  bitsOf (ctl0 f) 47 24 == s.snap.gen % 2 ^ 24 && s.snap.state != 0 && s.snap.state != 4

/-- The confirmation of generation `n` is decided: its node holds nothing of it any more (R490). -/
def snapForget (s : State) (id n : Nat) : State :=
  { s with hbNodes := s.hbNodes.filter (fun h => !(h.id == id && h.inst == n % 2 ^ 24 && !h.solver)) }

/-- An abort record that arrives in the same instant is taken first (R403); `meets` are the members whose own expiry is in that instant
(R577). DEDUCED (log entry 121). -/
def metAbort (meets : List Nat) (met : Option (Nat × Flit)) (s : State) : State :=
  match met with
  | some (p, f) => if isSnapFlit s f then s else flitRow 0x1A p f s (hbAbortAt meets)
  | none => s

/-- COLL_COMPLETE: a member's data phase completes before its timeout; where it meets an abort record, the abort stands (R380, R403). DEDUCED (log entry 121). -/
def execCollComplete (n : Nat) (at_ : EndAt) (s0 : State) : Host.Outcome State Fault Refusal :=
  whenUp s0 (
    let s := collSettle (metAbort [] at_.met (atTime s0 at_.time))
    match keyOf s n with
    | none => s
    | some k =>
      let c := collAt s k
      match (coreAt s k).collCmd with
      | none => s
      | some x =>
        if c.stage = 3 && timeNs s < c.taken + qTimeout s x && collKnown s x c && c.sends.isEmpty then
          let r := if c.wrote then (s, true) else memReady s [] (resultRanges x c) (.coll k)
          if !r.2 then r.1
          else
            let t := if c.wrote then s else collWrite r.1 n k x
            if (collAt t k).stage = 3 && !collWaits t k && !(collAt t k).lost then collFinish t n k x else t
        else s)

/-- The timeout of a member's collective expires: it ends with its own record and originates the abort (R400, R402). -/
def cqExpire (n k : Nat) (s : State) : State :=
  let c := collAt s k
  match (coreAt s k).collCmd with
  | some x =>
    if c.stage != 0 && c.taken + qTimeout s x ≤ timeNs s then
      let r := cqRec x 0x80 (rankOf (collGroup s (qGroup x)) n)
      originate (dcount (collAbortEnd s n k x r stCollTimeout) kCollTimeouts 1) (qGroup x) c.inst false r
    else s
  | none => s

/-- The timeout of the reduction that a member's joint solve waits in expires (R262, R400, R402). -/
def seExpire (n : Nat) (s : State) : State :=
  let e := engineOf s n
  match (engineAt s e).job with
  | some j =>
    if j.n = n && j.jid != 0 && j.got.isNone && j.since + dget s kCollTimeoutDefault ≤ timeNs s then
      let r := seRec j 0x80 (rankOf (collGroup s (j.jid / 256)) n)
      originate (dcount (seAbortBy e stCollTimeout r s) kCollTimeouts 1) (j.jid / 256) j.inst true r
    else s
  | none => s

/-- COLL_TIMEOUT_EXPIRY: the timeout of a member's collective, and of the reduction its joint solve waits in, expires; a record that
arrives in the same instant is the one kept (R262, R400, R402, R403). DEDUCED (log entry 121). -/
def execCollTimeoutExpiry (n : Nat) (at_ : EndAt) (s0 : State) : Host.Outcome State Fault Refusal :=
  whenUp s0 (
    let s := metAbort [n] at_.met (atTime s0 at_.time)
    match keyOf s n with
    | none => s
    | some k => seExpire n (cqExpire n k s))

/-! ### Segments from other packages, and the rows that settle what was sent (R397) -/

/-- Logical packages to which a segment that came with `f` is passed on, by the opcode of its collective: along the ring, or to the other
neighbours of the tree; where the opcode is not known here, as its sender stands (R376, R397). DEDUCED (log entry 77). DESIGN CHOICE (log entry 140). -/
def relayTargets (s : State) (g : CollGroup) (op : Option Nat) (seg : Nat) (f : Flit) : List Nat :=
  let from' := fun (l : Nat) => pkgOf s l == some (fSrc f)
  let tree := (childrenOf g ++ (if g.parent = 0xFFFF then [] else [g.parent])).filter (fun l => !from' l)
  let ring := if seg = (g.rankBase + g.localCount) % g.total then [] else [g.ringNext]
  match op with
  | some o => if o = 6 || o = 7 then tree else ring
  | none => if from' g.ringPrev then ring else tree

/-- Where a segment that has come lies: in the DST of a member, or in staging, where the oldest run of as many lines that its sender has
written there holds it (R396, R397). DESIGN CHOICE (log entry 140). -/
def relayFrom (s : State) (m : Option (Nat × Nat × Cmd)) (seg lines : Nat) (f : Flit) : State × Option (Bool × Nat) × Nat :=
  match m.filter (fun m => w0Op m.2.2.w0 == 3 || w0Op m.2.2.w0 == 7) with
  | some (_, _, x) => (s, some (qDstL x, qDst x + (if w0Op x.w0 = 3 then seg * qLen x else 0)), qLen x)
  | none =>
    match s.landed.find? (fun x => x.src == fSrc f && x.lines == lines) with
    | some x => ({ s with landed := s.landed.erase x }, some (false, x.base), 128 * lines)
    | none => (s, none, 128 * lines)

/-- SEG_DONE: a segment of another package's member is complete at every local member of the instance, one that has not begun its data phase
too, and is passed on once its bytes can be read (R376, R397). DEDUCED (log entry 81). -/
def segDoneAt (s : State) (f : Flit) : State :=
  let c0 := ctl0 f
  let id := c0 / 2 ^ 48
  let i := bitsOf c0 47 24
  let g := id / 256
  let gr := collGroup s g
  let seg := ctl1 f / 2 ^ 32
  let poison := bitOf (ctl1 f) 23
  let ms := running s g (fun c => (c.stage == 2 || c.stage == 3) && c.id == id && c.inst % 2 ^ 24 == i && !c.segs.contains seg)
  let s1 := ms.foldl (fun s m =>
    modCore s m.2.1 (fun c =>
      let c := { c with coll := { c.coll with segs := insNat seg c.coll.segs, bads := if poison then c.coll.bads ++ [seg] else c.coll.bads } }
      if w0Op m.2.2.w0 = 3 then gatherReady c m.2.2.uid seg else c)) s
  if !gr.valid || (ms.isEmpty && gr.localCount != 0) then s1
  else
    let op := (ms.head?.map (fun m => w0Op m.2.2.w0)).orElse
      (fun _ => (s.relayOps.find? (fun r => r.1 == g && r.2.1 % 2 ^ 24 == i)).map (·.2.2))
    match relayTargets s1 gr op seg f with
    | [] => s1
    | to' =>
      let p := relayFrom s1 ms.head? seg (bitsOf (ctl1 f) 22 0) f
      relayGo { p.1 with relayQ := p.1.relayQ ++ [⟨id, i, bitsOf c0 23 20, seg, poison, ms.head?.map (·.2.1), p.2.1, p.2.2, to'⟩] }

/-- A WRITE_ACK ends the write that it answers (R352, R397). -/
def writeAck (s : State) (port : Nat) (f : Flit) : State :=
  collSettle (replyRow 0x0B port (fun k => k == 2 || k == 3) f s (fun s r g => writeEnds s r (fStatus g)))


/-- CG: conjugate gradients, local or joint (R257, R258). -/
def execCg (e : Nat) (times : List Nat) (s : State) : Host.Outcome State Fault Refusal := whenUp s (solverUp (seRow 8 e times s))
/-- GMRES: restarted GMRES, local or joint (R257, R259). -/
def execGmres (e : Nat) (times : List Nat) (s : State) : Host.Outcome State Fault Refusal := whenUp s (solverUp (seRow 9 e times s))
/-- RANGE: analyse the operands of a solve and write its scale table (R251, R252). -/
def execRange (e : Nat) (times : List Nat) (s : State) : Host.Outcome State Fault Refusal := whenUp s (solverUp (seRow 1 e times s))
/-- SOLVER_REDUCTION_RETURN: the solver reduction that engine `e` waits for returns to every member of this package, once
they have all entered it; `sums` and `lapse` are what the members of other packages contributed (R260, R265, R381). Where it meets an
abort record, the abort stands (R403). DEDUCED (log entry 121). -/
def execSolverReductionReturn (e : Nat) (sums : List RedSum) (lapse : Nat) (at_ : EndAt) (s0 : State) : Host.Outcome State Fault Refusal :=
  whenUp s0 (solverUp (reductionReturn e sums lapse (metAbort [] at_.met (atTime s0 at_.time))))

/-- SEG_DONE (R397). -/
def execSegDone (port : Nat) (f : Flit) (s : State) : Host.Outcome State Fault Refusal :=
  whenUp s (collSettle (flitRow 0x1C port f s segDoneAt))

/-! ### The group table (R375, R376) -/

/-- Read of a group entry. -/
def groupRead (g : CollGroup) (o : Nat) : Nat :=
  if o < 0x500 then g.members / 2 ^ (8 * o) % 2 ^ 64
  else if 0x540 ≤ o && o < 0x580 then (List.range 4).foldl (fun a i => a + tblGet (fun _ => 0) g.child ((o - 0x540) / 2 + i) * 2 ^ (16 * i)) 0
  else match o with
    | 0x500 => b2n g.valid
    | 0x508 => g.leavesLog2 * 2 ^ 32 + g.total
    | 0x510 => g.localCount * 2 ^ 32 + g.rankBase
    | 0x518 => g.leafCount * 2 ^ 32 + g.leafBase
    | 0x520 => g.rootRank * 2 ^ 32 + g.childCount * 2 ^ 16 + g.parent
    | 0x528 => g.ringNext * 2 ^ 16 + g.ringPrev
    | 0x580 => g.instCq % 2 ^ 24
    | 0x588 => g.instSe % 2 ^ 24
    | _ => 0

/-- The conditions under which VALID is set (R376). -/
def groupOk (g : CollGroup) (cnt : Nat) : Bool :=
  1 ≤ g.total && g.leavesLog2 ≤ 16 && g.childCount ≤ 32 && g.rankBase + cnt ≤ g.total && g.rootRank < g.total &&
  g.leafBase + g.leafCount ≤ 2 ^ g.leavesLog2 && (g.leafCount == 0 || cnt ≤ g.leafCount)

/-- A write of VALID (R376). -/
def groupSetValid (s : State) (g : Nat) (v : Bool) : State :=
  let e := collGroup s g
  if !v then modGroup s g (fun x => { x with valid := false })
  else if e.valid then s
  else
    let cnt := popCount e.members
    modGroup s g (fun x => if groupOk x cnt then { x with valid := true, localCount := cnt } else { x with valid := false })

/-- A write of a field of a group entry (R375, R376). -/
def groupWrite (s : State) (gi o v m : Nat) : State :=
  let e := collGroup s gi
  let w := mrg (groupRead e o) v m
  if o = 0x500 then (if bitOf m 0 then groupSetValid s gi (bitOf v 0) else s)
  else if e.valid then s
  else if o < 0x500 then modGroup s gi (fun x => { x with members := namedBits s (putWord x.members (8 * o) w) })
  else if 0x540 ≤ o && o < 0x580 then
    modGroup s gi (fun x => { x with child := (List.range 4).foldl (fun t i => tblSet (fun _ => 0) t ((o - 0x540) / 2 + i) (bitsOf w (16 * i + 15) (16 * i))) x.child })
  else match o with
    | 0x508 => modGroup s gi (fun x => { x with leavesLog2 := bitsOf w 36 32, total := w % 2 ^ 32 })
    | 0x510 => modGroup s gi (fun x => { x with rankBase := w % 2 ^ 32 })
    | 0x518 => modGroup s gi (fun x => { x with leafCount := bitsOf w 48 32, leafBase := w % 2 ^ 16 })
    | 0x520 => modGroup s gi (fun x => { x with rootRank := bitsOf w 63 32, childCount := bitsOf w 23 16, parent := w % 2 ^ 16 })
    | 0x528 => modGroup s gi (fun x => { x with ringNext := bitsOf w 31 16, ringPrev := w % 2 ^ 16 })
    | _ => s

/-- COLL_GROUP_VALID_SET: a write of VALID of group entry `g` (R376). -/
def execCollGroupValidSet (g : Nat) (v : Word) (s : State) : Host.Outcome State Fault Refusal :=
  whenUp s (if g < 256 then groupSetValid s g (v.getLsbD 0) else s)

/-- Read of the collective control block of a core (R407). -/
def collBlkRead (c : CollCtl) (o : Nat) : Nat :=
  let st : Nat := match c.stage with | 0 => 0 | 3 => 2 | 5 => 2 | _ => 1
  match o with
  | 0x000 => c.flags.toNat
  | 0x008 => st * 2 ^ 62 + c.id * 2 ^ 24 + c.inst % 2 ^ 24
  | 0x010 => let r := c.abort.getD c.keep; b2n c.abort.isSome * 2 ^ 63 + b2n c.abortDone * 2 ^ 62 + r.cause * 2 ^ 48 + r.id * 2 ^ 32 + r.origin
  | 0x018 => c.abortTime
  | _ => 0

/-- Write of the collective control block (R407). -/
def collBlkWrite (c : CollCtl) (o v m : Nat) : CollCtl :=
  let x := Nat.land v m
  match o with
  | 0x000 => { c with flags := c.flags &&& ~~~(BitVec.ofNat 4 x) }
  | 0x010 => releaseAbort c (BitVec.ofNat 64 x) none
  | _ => c

end Sys2Proof.Machine
end

