-- ==== Sys2Proof/Machine/Mem.lean ====
section
/-! DEFINITION. The rows of stack memory (R280–R293, R302): scrub reads, training, zeroing, clears, and writes held by
copy-on-write. -/
namespace Sys2Proof.Machine
open Sys2Proof Config

/-! ### Scrub (R282) -/

/-- SCRUB_READ: the NMU reads line number `line` of stack memory; nothing with SCRUB_INTERVAL at 0 or while the stack is not serving. -/
def execScrubRead (line : Nat) (s : State) : Host.Outcome State Fault Refusal :=
  whenUp s (
    let la := 128 * line
    if dget s kScrubInterval = 0 || 2 ^ 40 ≤ la || !stackFree s (stackOf s la) then s else (lineRead s la).1)

/-! ### Work on a stack (R283, R289, R293) -/

/-- Work under way and queued for a stack. -/
def workOf (s : State) (st : Nat) : List Nat := tblGet (fun _ => []) s.stackWork st

/-- STACK_STATE while work `w` is under way, or when none is (R294). -/
def stackStateOf (s : State) (st : Nat) : List Nat → Nat
  | [] => if dget s (kOfflineChannels + st) = 0 then 0 else 3
  | 2 :: _ => 2
  | 4 :: _ => 2
  | _ => 1

/-- Replace the work of a stack, and STACK_STATE with it. -/
def setWork (s : State) (st : Nat) (w : List Nat) : State :=
  let s := { s with stackWork := tblSet (fun _ => []) s.stackWork st w }
  dset s (kStackState + st) (stackStateOf s st w)

/-- A write of STACK_RETRAIN (R293). DEDUCED (log entry 61). -/
def stackRetrain (s : State) (v : Nat) : State :=
  (List.range 16).foldl (fun s st => if bitOf v st && stackFree s st then setWork s st [3] else s) s

/-- A write of STACK_CLEAR (R283). DEDUCED (log entry 61). -/
def stackClear (s : State) (v : Nat) : State :=
  (List.range 16).foldl (fun s st => if bitOf v st then setWork s st (workOf s st ++ [4]) else s) s

/-- STACK_RETRAIN: accepted in IDLE, TEST and RECOVERY (R293). -/
def execStackRetrain (v : BitVec 16) (s : State) : Host.Outcome State Fault Refusal :=
  whenUp s (dictWrite kStackRetrain v.toNat (fun s => if retrainPhase s then stackRetrain s v.toNat else s) s)

/-- STACK_CLEAR: accepted in IDLE (R283). -/
def execStackClear (v : BitVec 16) (s : State) : Host.Outcome State Fault Refusal :=
  whenUp s (dictWrite kStackClear v.toNat (fun s => if phase s = phIdle then stackClear s v.toNat else s) s)

/-- Failed data, parity or spare lanes of a lane group. -/
def failedIn (o : StackEyes) (g : Nat) : List Nat := ((o.failedLanes.filter (fun p => p.1 == g)).map (·.2)).eraseDups

/-- The channel of `j` of a stack is bad: two failed lanes in a group, or a failed command lane (R289). -/
def channelBad (o : StackEyes) (j : Nat) : Bool :=
  2 ≤ (failedIn o (2 * j)).length || 2 ≤ (failedIn o (2 * j + 1)).length || o.failedCmd.contains j

/-- Set or clear a bit of a dictionary word. -/
def dbit (s : State) (k i : Nat) (b : Bool) : State :=
  let v := dget s k
  dset s k (if b then (if bitOf v i then v else v + 2 ^ i) else (if bitOf v i then v - 2 ^ i else v))

/-- One lane group after training (R289): its spare. DEDUCED (log entry 60). -/
def trainGroup (st : Nat) (o : StackEyes) (s : State) (g : Nat) : State :=
  match failedIn o g with
  | [] => dbit s (kLaneRepairs + st) g false
  | [l] => calEvent (dbit s (kLaneRepairs + st) g true) 0x04 (nmuCoord s st) (g * 256 + l)
  | _ => s

/-- One channel after training (R289, R292). -/
def trainChannel (st : Nat) (o : StackEyes) (s : State) (j : Nat) : State :=
  if channelBad o j then calEvent (dbit s (kOfflineChannels + st) j true) 0x05 (nmuCoord s st) (32 * st + j)
  else dbit s (kOfflineChannels + st) j false

/-- The proof pass of a lane group at training: one that passes is no longer suspect, and the errors that await the pass take its outcome
(R289, R466). -/
def groupPass (st : Nat) (o : StackEyes) (s : State) (g : Nat) : State :=
  let due := s.proofs.find? (fun p => p.1 == .stackLanes (64 * st + g))
  if !bitOf (dget s (kSuspectGroups + st)) g && due.isNone then s
  else
    let bad := (failedIn o g).length
    let out := if 2 ≤ bad || o.failedCmd.contains (g / 2) then 3 else if bad = 0 then 1 else 2
    let s1 := dcount (dcount s kProofPasses 1) (if out = 1 then kProofTransient else if out = 2 then kProofSpared else kProofNoSpare) 1
    let s2 := if out = 1 then dbit s1 (kSuspectGroups + st) g false else s1
    match due with
    | none => s2
    | some p => { errOutcome s2 p.2 out with proofs := s.proofs.filter (fun q => q.1 != p.1) }

/-- The outcome of training a stack, the proof pass of each of its suspect lane groups included (R289, R466). -/
def stackTrained (s : State) (st : Nat) (o : StackEyes) : State :=
  let s := (List.range 64).foldl (groupPass st o) s
  let s := (List.range 64).foldl (trainGroup st o) s
  (List.range 32).foldl (trainChannel st o) s

/-- The end of training by power-up (work 1) or retrain (work 3). -/
def trainingEnds (w st : Nat) (o : StackEyes) (s : State) : State :=
  match workOf s st with
  | h :: t => if h = w then (let s := stackTrained s st o; drainIngress (setWork s st t)) else s
  | [] => s

/-- STACK_TRAINING_DONE: training at power-up ends (R289). -/
def execStackTrainingDone (st : Nat) (o : StackEyes) (s : State) : Host.Outcome State Fault Refusal := whenUp s (trainingEnds 1 st o s)
/-- STACK_RETRAIN_DONE: a retrain ends, and waiting accesses proceed (R293). -/
def execStackRetrainDone (st : Nat) (o : StackEyes) (s : State) : Host.Outcome State Fault Refusal := whenUp s (trainingEnds 3 st o s)

/-- Every line of a stack becomes zeros with valid ECC and no marker; offline channels serve no write, and the lines of blocked rows
keep their markers (R283, R292, R469). DEDUCED (log entry 62). -/
def zeroStack (s : State) (st : Nat) : State :=
  let off := dget s (kOfflineChannels + st)
  let gone := fun (c : Nat) => c / 32 == st && !bitOf off (c % 32)
  let rowHas := fun (line : Nat) => tblGet (fun _ => false) s.blocked (line / 2 ^ 24 * 2 ^ 23 + line % 2 ^ 24 / 2)
  { s with mem := s.mem.filter (fun c => !gone (c.1 / 2 ^ 31)),
           marks := s.marks.filter (fun m => !gone (m.1 / 2 ^ 24) || rowHas m.1),
           ecc := s.ecc.filter (fun m => !gone (m.1 / 2 ^ 24)) }

/-- The end of the zeroing at power-up (work 2) or of a clear (work 4). -/
def zeroingEnds (w st : Nat) (s : State) : State :=
  match workOf s st with
  | h :: t => if h = w then drainIngress (setWork (zeroStack s st) st t) else s
  | [] => s

/-- STACK_ZEROING_DONE (R283). -/
def execStackZeroingDone (st : Nat) (s : State) : Host.Outcome State Fault Refusal := whenUp s (zeroingEnds 2 st s)
/-- STACK_CLEAR_DONE (R283). -/
def execStackClearDone (st : Nat) (s : State) : Host.Outcome State Fault Refusal := whenUp s (zeroingEnds 4 st s)

/-! ### Held writes (R302) -/

/-- A held write that failed, for its owner (R321, R351, R537). -/
def heldFailed (s : State) (h : HeldWrite) : State :=
  match h.who with
  | .de k => modJob s k (fun j => { jobMeet stPartial [h.line / 128] [h.rep] j with written := j.written - (h.bytes.filter Option.isSome).length })
  | .home _ _ => replyFailed s h.who
  | .hart n => hostFail s n h.rep 0x83
  | .coll k => modCore s k (fun c => { c with coll := { c.coll with lost := true } })
  | .nobody => s

/-- The held writes of the fabric that are combined with the first of a line: those behind it up to the next access of another kind (R369). DEDUCED (log entry 58). DESIGN CHOICE (log entry 72). -/
def heldRun (s : State) (h : HeldWrite) : List HeldWrite :=
  match h.who with
  | .home _ _ => ((s.held.filter (fun g => g.line == h.line && !g.back)).dropWhile (· != h)).tail.takeWhile
      (fun g => !g.bytes.isEmpty && (match g.who with | .home _ _ => true | _ => false))
  | _ => []

/-- A held write proceeds: it, and those combined with it; one of the fabric that is too old takes no effect (R302, R353, R365, R369). DEDUCED (log entry 58). -/
def heldProceeds (s0 : State) (h : HeldWrite) : State :=
  let old := fun (g : HeldWrite) => match g.who with | .home _ f => tooOld s0 f | _ => false
  let all := if h.back then [h] else h :: heldRun s0 h
  let hs := all.filter (fun g => !old g)
  let s := dcount { s0 with held := all.foldl (fun l g => l.erase g) s0.held } kCowHeldWrites (all.filter (fun g => g.kind == 0)).length
  let s := dcount { s with replies := s.replies.filter (fun x => !all.any (fun g => old g && g.who == x.1)) } kLifetimeDrops (all.length - hs.length)
  let s := dcount s kWritesCombined (hs.length - 1)
  let w := if hs.isEmpty then (s, false)
    else if h.back then lineOver s h.line [(h.bytes, h.poison)] h.who
    else putRun s h.line (hs.map (fun g => (g.bytes, g.poison))) h.who
  drainIngress (flushReplies (if w.2 then hs.foldl heldFailed w.1 else w.1))

/-- A held write may proceed: its part is no longer NOT_COPIED, no boot image loads there and its stack serves accesses. -/
def heldFree (s : State) (h : HeldWrite) : Bool := (lineShut s h.line).isNone

/-- The first held write that may proceed, after those in `before`: a write-back goes before the other accesses to its line, and these keep
their order (R303, R361). The place of an atomic has no bytes, and waits for the atomic. -/
def heldNext (s : State) : List HeldWrite → List HeldWrite → Option HeldWrite
  | _, [] => none
  | before, h :: t =>
    let first := if h.back then before.all (fun g => g.line != h.line || !g.back)
      else before.all (fun g => g.line != h.line) && !t.any (fun g => g.line == h.line && g.back)
    if first && !h.bytes.isEmpty && heldFree s h then some h else heldNext s (h :: before) t

/-- COW_HELD_WRITE_RELEASE: the first held write that may proceed does (R302), after the snoops that it needs (R361). -/
def execCowHeldWriteRelease (s : State) : Host.Outcome State Fault Refusal :=
  whenUp s (match heldNext s [] s.held with
    | none => s
    | some h =>
      let r := if h.back then (s, true) else memReady s [] [(h.line, 128)] h.who
      if r.2 then heldProceeds r.1 h else r.1)

end Sys2Proof.Machine
end

