-- ==== Sys2Proof/Machine/Snapshot.lean ====
section
/-! DEFINITION. Snapshots, restores, epochs and setup images (R484–R508), and the harebell flits, which carry the confirmation
of a snapshot beside collectives (R385, R490). -/
namespace Sys2Proof.Machine
open Sys2Proof Config

/-! ### Geometry (R485–R488) -/

/-- Change the snapshot block. -/
def modSnap (s : State) (f : Snap → Snap) : State := { s with snap := f s.snap }
/-- Z. -/
def snapZ (s : State) : Nat := dget s kSnapStripeSize
/-- Logical package at a position of the parity group. -/
def parityMember (s : State) (q : Nat) : Nat := dget s kSnapGroupMembers / 2 ^ (16 * q) % 65536
/-- This package's position, 8 when it holds none. -/
def parityPos (s : State) : Nat := ((List.range 8).find? (fun q => parityMember s q == dget s kOwnLogicalId)).getD 8
/-- Position that holds stripe `k` of the package at position `q`. -/
def stripeHolder (q k : Nat) : Nat := (q + 1 + k) % 8
/-- Address in space 10 of byte `o` of stripe `k` of generation `n` at its holder. -/
def stripeAddr (s : State) (n k o : Nat) : Nat :=
  2 ^ 63 + parityMember s (stripeHolder (parityPos s) k) * 2 ^ 46 + (dget s kSnapStripeBase + (7 * (n % 2) + k) * snapZ s + o)

/-- No two ranges of a list overlap. -/
def disjointRanges : List (Nat × Nat) → Bool
  | [] => true
  | r :: t => t.all (fun x => !overlap r.1 r.2 x.1 x.2) && disjointRanges t

/-- R485 and R486 hold. -/
def snapGeometry (s : State) : Bool :=
  let z := snapZ s
  let rs := stateRegions s
  let all := rs ++ [(dget s kSnapLocalBase, 6 * z), (dget s kSnapStripeBase, 14 * z), (dget s kStagingBase, dget s kStagingSize),
    (dget s kLeafTableBase, dget s kLeafTableSize)]
  z != 0 && z % 65536 == 0 && decide (imageSize s ≤ 6 * z) && rs.all (fun r => r.1 % 65536 == 0 && r.2 % 65536 == 0) &&
  all.all (fun r => inStack r.1 r.2) && disjointRanges all

/-- The group conditions of R488. -/
def snapGroupOk (s : State) : Bool :=
  let ms := (List.range 8).map (parityMember s)
  let es := ms.map (fun l => if l < 16384 then tblGet (fun _ => 0) s.trans0 l else 0)
  ms.eraseDups.length == 8 && ms.contains (dget s kOwnLogicalId) && es.all (fun e => bitOf e 63) &&
  (es.map (fun e => e % 2 ^ 18 / 4)).eraseDups.length == 8 && (collGroup s (dget s kSnapHbGroup)).valid

/-! ### Taking a generation (R488, R489) -/

/-- The outcome of a refused TAKE or RESTORE. -/
def snapRefuse (s : State) (code : Nat) : State := modSnap s (fun x => { x with last := code })

/-- CMD TAKE (R488, R489); a generation that was aborted before this package took it is decided (R490). -/
def snapTake (s : State) : State :=
  if phase s != phRun then snapRefuse s stPhase
  else if s.snap.state != 0 then snapRefuse s 0x80
  else if !snapGeometry s || !snapGroupOk s then snapRefuse s 0x81
  else
    let n := if s.snap.commitValid then (s.snap.commitGen + 1) % 2 ^ 32 else 1
    heldCow (modSnap s (fun x => { x with
      gen := n, localComplete := false, state := 1, copied := [], takenAt := timeNs s, striped := false, stripeFail := false,
      abortSent := false, decided := if x.early = some (n % 2 ^ 24) then some 2 else none, early := none, lines := [] }))

/-- TAKE (R488, R489). -/
def execTake (s : State) : Host.Outcome State Fault Refusal := whenUp s (snapTake s)

/-- Granules of page `p` of the image in stack `st`: image offsets. -/
def partOf (s : State) (st p : Nat) : List Nat :=
  let rs := stateRegions s
  ((List.range 256).map (fun i => 65536 * p + 256 * i)).filter (fun o =>
    match imageAddr rs o with | some a => stackOf s a == st | none => false)

/-- Stacks that hold a part of page `p`. -/
def pageStacks (s : State) (p : Nat) : List Nat :=
  let rs := stateRegions s
  (((List.range 256).filterMap (fun i => imageAddr rs (65536 * p + 256 * i))).map (stackOf s)).eraseDups

/-- Pages of the image. -/
def pages (s : State) : Nat := imageSize s / 65536

/-- The page that the NMU of stack `st` copies next: that of the first write it holds, else the least (R302). -/
def nextPart (s : State) (st : Nat) : Option Nat :=
  let todo := fun p => !(s.snap.copied.contains (st, p))
  match s.held.find? (fun h => h.kind == 0 && notCopied s h.line && stackOf s h.line == st) with
  | some h => (imageByte (stateRegions s) 0 h.line).map (· / 65536)
  | none => (List.range (pages s)).find? (fun p => todo p && (pageStacks s p).contains st)

/-- Copy one line of the snapshot image, its poison with it (R492, R496). -/
def copyLine (s : State) (src dst : Nat) : State :=
  let r := readLine s src .nobody
  (writeLine r.1 dst (r.2.1.map some) (r.2.2 != 0) .nobody).1

/-- SNAPSHOT_PART_COPIED: the NMU of stack `st` has copied its part of `page` into the local area (R302, R489). -/
def execSnapshotPartCopied (st page : Nat) (s : State) : Host.Outcome State Fault Refusal :=
  whenUp s (
    if s.snap.state != 1 || 16 ≤ st || !stackFree s st || nextPart s st != some page then s
    else
      let rs := stateRegions s
      let base := dget s kSnapLocalBase
      let part := partOf s st page
      let w := memReady s (part.filterMap (fun o => (imageAddr rs o).map (·, 256))) (part.map (base + ·, 256)) .nobody
      if !w.2 then w.1
      else
        let s := part.foldl (fun s o =>
          match imageAddr rs o with
          | some a => copyLine (copyLine s a (base + o)) (a + 128) (base + o + 128)
          | none => s) w.1
        modSnap s (fun x => { x with copied := x.copied ++ [(st, page)] }))

/-- Every part is COPIED. -/
def allCopied (s : State) : Bool :=
  (List.range (pages s)).all (fun p => (pageStacks s p).all (fun st => s.snap.copied.contains (st, p)))

/-- The local area of the image: base and length. -/
def localArea (s : State) : Nat × Nat := (dget s kSnapLocalBase, imageSize s)

/-- A line of the local area: bytes and whether it carries poison; beyond S zeros. -/
def localLine (s : State) (o : Nat) : State × List Byte × Bool :=
  if imageSize s ≤ o then (s, List.replicate 128 0, false)
  else
    let r := readLine s (dget s kSnapLocalBase + o) .nobody
    (r.1, r.2.1, r.2.2 != 0)

/-- Exclusive-or of six lines at one offset of stripes 0 to 5, with their poison (R487, R492). -/
def parityLine (s : State) (o : Nat) : State × List Byte × Bool :=
  (List.range 6).foldl (fun a k =>
    let r := localLine a.1 (k * snapZ s + o)
    (r.1, xorBytes a.2.1 r.2.1, a.2.2 || r.2.2)) (s, List.replicate 128 0, false)

/-- Issue one stripe line to its holder. -/
def stripeWrite (s : State) (k o : Nat) (bs : List Byte) (poison : Bool) : State :=
  let r := issue s 0 fkWrite (stripeAddr s s.snap.gen k o) poison bs .stripe
  if r.2 = 0 then r.1 else modSnap r.1 (fun x => { x with stripeFail := true })

/-- Every stripe line of the generation (R487, R489). DEDUCED (log entry 98). -/
def stripeAll (s : State) : State :=
  let z := snapZ s
  let n := imageSize s
  let s := (List.range 6).foldl (fun s k =>
    (List.range (min z (n - k * z) / 128)).foldl (fun s i =>
      let r := localLine s (k * z + 128 * i)
      stripeWrite r.1 k (128 * i) r.2.1 r.2.2) s) s
  (List.range (min z n / 128)).foldl (fun s i =>
    let r := parityLine s (128 * i)
    stripeWrite r.1 6 (128 * i) r.2.1 r.2.2) s

/-- SNAPSHOT_LOCAL_COPY_DONE: every part is COPIED; striping begins (R489). -/
def execSnapshotLocalCopyDone (s : State) : Host.Outcome State Fault Refusal :=
  whenUp s (
    if s.snap.state != 1 || !allCopied s then s
    else
      let w := memReady s [localArea s] [] .nobody
      if w.2 then stripeAll (modSnap w.1 (fun x => { x with localGen := x.gen, localComplete := true, state := 2, striped := true })) else w.1)

/-! ### Confirmation (R490) -/

/-- The decision that the five maxima give: 0 commit, 1 fail. -/
def snapDecide (ws : List Nat) : Nat :=
  let v := fun i => toSigned 64 (ws.getD i 0)
  if v 0 = 0 && v 1 = -(v 2) && v 3 = -(v 4) then 0 else 1

/-- The package's node of the confirmation combines once every child's set has come: the decision at the root, else up. DEDUCED (log entry 97). -/
def snapTry (s : State) : State :=
  let x := s.snap
  let id := snapId s
  let gr := collGroup s (id / 256)
  let h := (hbNode s id x.gen).getD { id := id, inst := x.gen % 2 ^ 24, rop := 2, nval := 4 }
  if x.state != 3 || h.sent || x.decided.isSome || !(childrenOf gr).all (fun l => h.kids.any (fun k => k.pkg == l && kidDone k)) then s
  else
    let z := snapZ s
    let own : List HbVal := [⟨b2n x.stripeFail, 0, 0⟩, ⟨x.gen, 0, 0⟩, ⟨-(x.gen : Int), 0, 0⟩, ⟨z, 0, 0⟩, ⟨-(z : Int), 0, 0⟩]
    let all := (h.kids.map (fun k => hbOfItems 2 5 (kidItems k))).foldl (hbMerge 2) own
    let s := putNode s { h with sent := true }
    if gr.parent = 0xFFFF then
      let ws := (hbResult s 2 all).1
      let s := (childrenOf gr).foldl (fun s l => sendSet s 0x19 l id x.gen 2 4 0 0 false ws) (snapForget s id x.gen)
      modSnap s (fun x => { x with decided := some (snapDecide ws) })
    else sendSet s 0x18 gr.parent id x.gen 2 4 (1 + h.kids.foldl (fun a k => a + k.count) 0) 0 false (hbItems 2 all)

/-- STRIPE_LINES_DONE: every stripe line has its reply or has failed; the package enters the confirmation (R489). -/
def execStripeLinesDone (s : State) : Host.Outcome State Fault Refusal :=
  whenUp s (
    if s.snap.state != 2 || s.reqs.any (fun r => r.who == .stripe) || s.issueQ.any (fun r => r.who == .stripe) then s
    else snapTry (modSnap s (fun x => { x with state := 3 })))

/-- Code of a decision. -/
def decisionCode : SnapDecision → Nat
  | .commit => 0
  | .fail => 1
  | .abort => 2

/-- Record the decision (R490, R491): what the node still holds of the generation leaves with it. DEDUCED (log entry 97). -/
def snapRecord (s0 : State) (d : Nat) : State :=
  let s := snapForget s0 (snapId s0) s0.snap.gen
  match d with
  | 0 => dcount (modSnap s (fun x => { x with
      commitValid := true, commitGen := x.gen, commitSlot := x.gen % 2, commitTag := x.stepTag, commitTime := timeNs s,
      last := 0, state := 0 })) kSnapCommits 1
  | 1 => dcount (modSnap s (fun x => { x with last := 0x82, state := 0 })) kSnapFailures 1
  | _ => dcount (modSnap s (fun x => { x with last := 0x83, state := 0 })) kSnapFailures 1

/-- SNAP_CONFIRM_DECISION: the root's decision is recorded (R490). At the root, and where a flit has brought it, it is that decision. DEDUCED (log entry 97). -/
def execSnapConfirmDecision (d : SnapDecision) (s : State) : Host.Outcome State Fault Refusal :=
  let x := s.snap
  let c := decisionCode d
  let root := (collGroup s (dget s kSnapHbGroup)).parent == 0xFFFF
  whenUp s (
    if x.state = 0 || x.state = 4 then s
    else match x.decided with
      | some e => if e = c then snapRecord s c else s
      | none => if !root && (c == 2 || x.state == 3) then snapRecord s c else s)

/-- The package knows how generation `i` ends (a 24-bit number): of its own, that a decision was made; of one that it has not taken, that it
was aborted (R490). DEDUCED (log entry 97). -/
def snapEnds (s : State) (i d : Nat) : State :=
  if s.snap.gen % 2 ^ 24 = i && s.snap.state != 4 then modSnap s (fun x => { x with decided := some (x.decided.getD d) })
  else if d = 2 then modSnap s (fun x => { x with early := some i })
  else s

/-- The end of generation `i` is known here. DEDUCED (log entry 97, 100). -/
def snapOver (s : State) (i : Nat) : Bool :=
  (s.snap.gen % 2 ^ 24 == i && s.snap.decided.isSome) || s.snap.early == some i

/-- An abort of the confirmation of generation `n`: accepted at the root while it has sent no decision, else sent up (R490). DEDUCED (log entry 100). -/
def snapAbort (s : State) (n origin : Nat) : State :=
  let id := snapId s
  let gr := collGroup s (id / 256)
  let pl := hbControl id n 2 4 false 0 false origin 0x80 false
  if gr.parent != 0xFFFF then sendColl s 0x1A gr.parent pl
  else if snapOver s (n % 2 ^ 24) then s
  else (childrenOf gr).foldl (fun s l => sendColl s 0x1A l pl) (snapEnds (snapForget s id n) (n % 2 ^ 24) 2)

/-- SNAP_TIMEOUT_EXPIRY: no decision SNAP_TIMEOUT after the TAKE (R490). -/
def execSnapTimeoutExpiry (at_ : Nat) (s0 : State) : Host.Outcome State Fault Refusal :=
  let s := atTime s0 at_
  let x := s.snap
  whenUp s0 (
    if x.state = 0 || x.state = 4 || x.decided.isSome || x.abortSent || timeNs s < x.takenAt + dget s kSnapTimeout then s
    else snapAbort (modSnap s (fun x => { x with abortSent := true })) x.gen (dget s kOwnLogicalId))

/-- The generation is abandoned: its node leaves the confirmation, and a decision that the root has sent stands; a RESTORE ends as it is, and
its reads stop (R492). DEDUCED (log entry 97). -/
def snapAbandon (s : State) : State :=
  if s.snap.state = 0 then s
  else if s.snap.state = 4 then
    modSnap { s with issueQ := s.issueQ.filter (fun r => match r.who with | .restore _ _ => false | _ => true) }
      (fun x => { x with state := 0, last := 0x84 })
  else
    let s := snapForget { s with issueQ := s.issueQ.filter (fun r => r.who != .stripe) } (snapId s) s.snap.gen
    dcount (modSnap s (fun x => { x with state := 0, last := 0x84 })) kSnapFailures 1

/-! ### Harebell flits (R385, R405, R490) -/

/-- A partial of a child; one of a generation whose end is known here, or that this package has left, comes too late (R490, R492). DEDUCED
(log entry 97). -/
def hbUpFlit (s : State) (f : Flit) : State :=
  if isSnapFlit s f then
    let id := snapId s
    let i := bitsOf (ctl0 f) 47 24
    match (if snapOver s i || (s.snap.gen % 2 ^ 24 == i && !ofMySnap s f) then none else kidOf s (collGroup s (id / 256)) f) with
    | none => s
    | some l =>
      let h := (hbNode s id i).getD { id := id, inst := i, rop := 2, nval := 4 }
      let k : HbKid := { pkg := l, parts := [(0, f.payload.drop 16)], last := some 0, count := ctl1 f / 2 ^ 32 }
      snapTry (putNode s { h with kids := h.kids.filter (fun x => x.pkg != l) ++ [k] })
  else hbUpAt s f

/-- A decision of the confirmation from the parent: passed down; a package that has left the generation does not record it (R490, R492). -/
def snapDown (s : State) (kind : Nat) (f : Flit) (d : Nat) : State :=
  let s1 := (childrenOf (collGroup s (dget s kSnapHbGroup))).foldl (fun s l => sendColl s kind l f.payload)
    (snapForget s (snapId s) (bitsOf (ctl0 f) 47 24))
  snapEnds s1 (bitsOf (ctl0 f) 47 24) d

/-- A result from the parent. -/
def hbDownFlit (s : State) (f : Flit) : State :=
  if isSnapFlit s f then snapDown s 0x19 f (snapDecide ((chunks 16 (f.payload.drop 16)).map (fun c => leNat c % 2 ^ 64)))
  else hbDownAt s f

/-- An abort record. -/
def hbAbortFlit (s : State) (f : Flit) : State :=
  if isSnapFlit s f then
    let gr := collGroup s (dget s kSnapHbGroup)
    if gr.parent != 0xFFFF && pkgOf s gr.parent == some (fSrc f) then snapDown s 0x1A f 2
    else if (kidOf s gr f).isSome then snapAbort s (bitsOf (ctl0 f) 47 24) (ctl1 f / 2 ^ 32) else s
  else hbAbortAt [] s f

/-- HB_UP (R385, R405). -/
def execHbUp (port : Nat) (f : Flit) (s : State) : Host.Outcome State Fault Refusal := whenUp s (flitRow 0x18 port f s hbUpFlit)
/-- HB_DOWN (R385, R389, R405). -/
def execHbDown (port : Nat) (f : Flit) (s : State) : Host.Outcome State Fault Refusal := whenUp s (flitRow 0x19 port f s hbDownFlit)
/-- HB_ABORT (R401, R402). -/
def execHbAbort (port : Nat) (f : Flit) (at_ : Nat) (s0 : State) : Host.Outcome State Fault Refusal :=
  whenUp s0 (let s := atTime s0 at_; flitRow 0x1A port f s hbAbortFlit)

/-! ### Restore (R495–R497) -/

/-- Every core is at a forme boundary with an empty launch queue, and every DE is idle. -/
def quiet (s : State) : Bool :=
  s.cores.all (fun c => c.2.run.isNone && c.2.launchQ.isEmpty && c.2.de.job.isNone && c.2.de.chain.isNone)

/-- Read one stripe line of the generation restored. -/
def stripeRead (s : State) (k o : Nat) : State :=
  let r := issue s 0 fkRead (stripeAddr s s.snap.gen k o) false [] (.restore k o)
  if r.2 = 0 then r.1 else modSnap r.1 (fun x => { x with lines := tblSet (fun _ => ([], 0)) x.lines (k * 2 ^ 40 + o) ([], 3) })

/-- Stripe 0–6 whose holder is excluded, if any (R496). -/
def excluded (s : State) : Option Nat := (List.range 7).find? (fun k => s.snap.exclude == stripeHolder (parityPos s) k)

/-- Data line `o` of stripe `k` lies below S. -/
def lineBelow (s : State) (k o : Nat) : Bool := decide (k * snapZ s + o < imageSize s)

/-- The reads that a remote restore begins with. -/
def restoreReads (s : State) : State :=
  let z := snapZ s
  let n := imageSize s
  let ex := excluded s
  (List.range 6).foldl (fun s k =>
    (List.range (min z (n - k * z) / 128)).foldl (fun s i => stripeRead s (if ex = some k then 6 else k) (128 * i)) s) s

/-- CMD RESTORE (R495, R496). -/
def snapRestore (s : State) : State :=
  if !(phase s == phStart || phase s == phRecovery) then snapRefuse s stPhase
  else if s.snap.state != 0 then snapRefuse s 0x80
  else if !snapGeometry s || !snapGroupOk s || s.snap.restoreGen = 0 then snapRefuse s 0x81
  else if !quiet s then snapRefuse s 0x85
  else
    let remote := !(s.snap.localGen == s.snap.restoreGen && s.snap.localComplete)
    let s := modSnap s (fun x => { x with
      state := 4, gen := x.restoreGen, decided := if x.gen = x.restoreGen then x.decided else none, rebuilt := 0, lost := 0, remote := remote, striped := !remote, lines := [],
      localComplete := x.localComplete && !remote })
    if remote then restoreReads s else s

/-- RESTORE (R495, R496). -/
def execRestore (s : State) : Host.Outcome State Fault Refusal := whenUp s (snapRestore s)

/-- A stripe line that has been read: bytes, and 0 not read, 1 good, 2 poisoned, 3 failed. -/
def gotLine (s : State) (k o : Nat) : List Byte × Nat := tblGet (fun _ => ([], 0)) s.snap.lines (k * 2 ^ 40 + o)

/-- A data line must be formed from parity (R496, R497). -/
def mustForm (s : State) (k o : Nat) : Bool := excluded s == some k || (gotLine s k o).2 != 1

/-- Form a data line: bytes, and whether it is lost (R497). -/
def formLine (s : State) (k o : Nat) : List Byte × Bool :=
  ((List.range 7).filter (· != k)).foldl (fun a j =>
    if j < 6 && !lineBelow s j o then a
    else
      let l := gotLine s j o
      (xorBytes a.1 (if l.1.length = 128 then l.1 else List.replicate 128 0), a.2 || l.2 != 1 || excluded s == some j))
    (List.replicate 128 0, false)

/-- Place one data line into the local area. DEDUCED (log entry 99). -/
def placeLine (s : State) (k o : Nat) : State :=
  let dst := dget s kSnapLocalBase + k * snapZ s + o
  let put := fun (s : State) (bs : List Byte) (p : Bool) => (writeLine s dst (bs.map some) p .nobody).1
  if !mustForm s k o then put s (gotLine s k o).1 false
  else
    let r := formLine s k o
    if r.2 then modSnap (put s r.1 true) (fun x => { x with rebuilt := x.rebuilt + 1, lost := x.lost + 1 })
    else modSnap (put s r.1 false) (fun x => { x with rebuilt := x.rebuilt + 1 })

/-- Data lines of the image as (stripe, offset). -/
def dataLines (s : State) : List (Nat × Nat) :=
  let z := snapZ s
  (List.range 6).flatMap (fun k => (List.range (min z (imageSize s - k * z) / 128)).map (fun i => (k, 128 * i)))

/-- RESTORE_REMOTE_DONE: the stripes read so far are enough, or parity lines are still to be read; the local area is then complete
(R496, R497). DEDUCED (log entry 98). -/
def execRestoreRemoteDone (s : State) : Host.Outcome State Fault Refusal :=
  let isR := fun (r : Req) => match r.who with | .restore _ _ => true | _ => false
  whenUp s (
    if s.snap.state != 4 || !s.snap.remote || s.snap.striped || s.reqs.any isR || s.issueQ.any isR then s
    else
      let ls := dataLines s
      let need := (((ls.filter (fun l => mustForm s l.1 l.2)).map (·.2)).eraseDups).filter (fun o => (gotLine s 6 o).2 == 0 && excluded s != some 6)
      if !need.isEmpty then need.foldl (fun s o => stripeRead s 6 o) s
      else
        let w := memReady s [] [localArea s] .nobody
        if !w.2 then w.1
        else modSnap (ls.foldl (fun s l => placeLine s l.1 l.2) w.1) (fun x => { x with localGen := x.gen, localComplete := true, striped := true, lines := [] }))

/-- RESTORE_COMPLETE: the local copy into the state regions ends (R496, R497). -/
def execRestoreComplete (s : State) : Host.Outcome State Fault Refusal :=
  whenUp s (
    if s.snap.state != 4 || !s.snap.striped then s
    else
      let rs := stateRegions s
      let base := dget s kSnapLocalBase
      let w := memReady s [localArea s] rs .nobody
      if !w.2 then w.1
      else
      let s := w.1
      let s := (List.range (imageSize s / 128)).foldl (fun s i =>
        match imageAddr rs (128 * i) with | some a => copyLine s (base + 128 * i) a | none => s) s
      let x := s.snap
      let s := modSnap s (fun x => { x with
        commitValid := true, commitGen := x.gen, commitSlot := x.gen % 2, commitTag := x.stepTag, commitTime := timeNs s,
        state := 0, last := if x.lost = 0 then 0 else 0x86 })
      dcount (dcount (dcount s (if x.remote then kRestoresRemote else kRestoresLocal) 1) kRestoreLinesRebuilt x.rebuilt) kRestoreLinesLost x.lost)

/-! ### Epochs (R501, R502) -/

/-- A write of EPOCH_ADVANCE is accepted (R502). -/
def epochAdvanceOk (s : State) (v : Nat) : Bool :=
  (phase s == phTest || phase s == phRecovery) && v != dget s kJobEpoch && s.epochAdv.isNone

/-- EPOCH_ADVANCE: issue is held, outstanding requests are fenced, and JOB_EPOCH changes (R502). -/
def execEpochAdvance (v : BitVec 16) (s : State) : Host.Outcome State Fault Refusal :=
  whenUp s (dictWrite kEpochAdvance v.toNat
    (fun s => if epochAdvanceOk s v.toNat then epochTry { s with epochAdv := some v.toNat } else s) s)

/-- A write of JOB_EPOCH is accepted (R374, R501). -/
def jobEpochOk (s : State) (v : Nat) : Bool := phase s == phIdle && v != dget s kLastEpoch

/-- JOB_EPOCH_WRITE (R501). -/
def execJobEpochWrite (v : BitVec 16) (s : State) : Host.Outcome State Fault Refusal :=
  whenUp s (dictWrite kJobEpoch v.toNat (fun s => if jobEpochOk s v.toNat then dset s kJobEpoch v.toNat else s) s)

/-! ### Setup images (R504–R506) -/

/-- Bytes of a group entry in a setup image: offsets 0x000–0x57F with RO fields zero (R504). -/
def groupImage (g : CollGroup) : List Byte :=
  (List.range 0xB0).flatMap (fun i => leBytes 8 (groupRead { g with localCount := 0 } (8 * i)))

/-- The byte string of a setup image (R504). -/
def setupBytes (own levels : Nat) (trans : Tbl Nat) (groups : Tbl CollGroup) : List Byte :=
  [4] ++ leBytes 2 own ++ leBytes 64 levels ++ (List.range 16384).flatMap (fun l => leBytes 8 (tblGet (fun _ => 0) trans l)) ++
  (List.range 256).flatMap (fun g => groupImage (tblGet (fun _ => {}) groups g))

/-- The image of the tables as they stand, with its digest. -/
def setupImage (s : State) : SetupImg :=
  let own := dget s kOwnLogicalId
  let lv := dget s kPortLevels
  ⟨own, lv, s.trans0, s.collGroups, leNat ((sha384 (setupBytes own lv s.trans0 s.collGroups)).take 16)⟩

/-- SETUP_SAVE (R506). DEDUCED (log entry 101). -/
def setupSave (s : State) : State :=
  let m := setupImage s
  let s := dset s kSetupActiveDigest m.digest
  let has := fun (o : Option SetupImg) => match o with | some x => x.digest == m.digest | none => false
  if has s.setup0 then { s with setupNew := 0 }
  else if has s.setup1 then { s with setupNew := 1 }
  else if s.setupNew = 0 then dset { s with setup1 := some m, setupNew := 1 } (kSetupSlotDigest + 1) m.digest
  else dset { s with setup0 := some m, setupNew := 0 } kSetupSlotDigest m.digest

/-- A write of SETUP_SAVE is accepted (R506). -/
def setupSaveOk (s : State) : Bool := phase s == phStart || phase s == phTest

/-- SETUP_SAVE: accepted in START and TEST (R506). -/
def execSetupSave (v : Nat) (s : State) : Host.Outcome State Fault Refusal :=
  whenUp s (dictWrite kSetupSave v (fun s => if v ≤ 1 && setupSaveOk s then setupSave s else s) s)

/-- PORT_LEVELS takes a new value: ports whose level changes are trained, ports set OFF go down (R335, R337), and the domains that their
training wakes are counted (R441, R458). -/
def setPortLevels (s0 : State) (v : Nat) : State :=
  let old := dget s0 kPortLevels
  let t := dset s0 kPortLevels v
  let s := dcount t kDomainWakes ((List.range 80).filter (fun i => portDomOff s0 (416 + i) && !portDomOff t (416 + i))).length
  (List.range 64).foldl (fun s p =>
    if old / 256 ^ p % 256 = v / 256 ^ p % 256 then s
    else
      let s := dset (portClear s p) (kPortState + p) 0
      trainPort s p) s

/-- Install a setup image: both copies of the translation table, and groups with LOCAL_COUNT computed as VALID is set (R505). DEDUCED (log entry 101). -/
def setupInstall (s : State) (m : SetupImg) : State :=
  let s := setPortLevels (dset s kOwnLogicalId m.own) m.levels
  let s := { s with trans0 := m.trans, trans1 := m.trans,
                    collGroups := tblMap (fun _ => {}) s.collGroups (fun g => { instCq := g.instCq, instSe := g.instSe }) }
  m.groups.foldl (fun s g =>
    let s := modGroup s g.1 (fun x => { g.2 with valid := false, localCount := 0, instCq := x.instCq, instSe := x.instSe })
    if g.2.valid then groupSetValid s g.1 true else s) s

/-- The search of R505 at a transition to START. DEDUCED (log entry 101). -/
def setupAtStart (s : State) : State :=
  let key := dget s kSetupKey
  if key = 0 then dset s kSetupResult 0
  else
    let hit := fun (o : Option SetupImg) => match o with | some x => x.digest == key | none => false
    let use := fun (o : Option SetupImg) (i : Nat) => match o with
      | some m => dcount (dset (dset (setupInstall { s with setupNew := i } m) kSetupResult 1) kSetupActiveDigest m.digest) kSetupReuses 1
      | none => s
    if hit s.setup0 then use s.setup0 0
    else if hit s.setup1 then use s.setup1 1
    else dset s kSetupResult 2

end Sys2Proof.Machine
end

