-- ==== Sys2Proof/Machine/Rings.lean ====
section
/-! DEFINITION. Dispatch rings (R117, R540–R544): the ring blocks, doorbells, records taken, delivered and completed. -/
namespace Sys2Proof.Machine
open Sys2Proof Config

/-- Every ring at reset. -/
def ringDflt : Nat → Ring := fun _ => {}
/-- Ring `r`. -/
def ringAt (s : State) (r : Nat) : Ring := tblGet ringDflt s.rings r
/-- Change ring `r`. -/
def modRing (s : State) (r : Nat) (f : Ring → Ring) : State := { s with rings := tblMod ringDflt s.rings r f }

/-- A write of a RING_CONFIG word: the fields but ENABLE (R540). -/
def ringConfig (x : Ring) (v : Nat) : Ring :=
  { x with dbMem := bitOf v 62, notEn := bitOf v 61, notMsix := bitOf v 60, target := bitsOf v 45 40, size := bitsOf v 4 0 }

/-- RING_CONFIG. -/
def ringConfigWord (x : Ring) : Nat :=
  b2n x.enable * 2 ^ 63 + b2n x.dbMem * 2 ^ 62 + b2n x.notEn * 2 ^ 61 + b2n x.notMsix * 2 ^ 60 + x.target * 2 ^ 40 + x.size

/-- Bytes of the record array. -/
def ringRecBytes (x : Ring) : Nat := 2 ^ x.size * 128
/-- Bytes of the completion array. -/
def ringCqBytes (x : Ring) : Nat := 2 ^ x.size * 16

/-- Two ranges share a byte. -/
def shareByte (a n b m : Nat) : Bool := decide (a < b + m) && decide (b < a + n)

/-- The checks of an enable (R541), on the fields as they then stand; `r` is the ring. -/
def ringFieldsOk (s : State) (r : Nat) (x : Ring) : Bool :=
  x.st == 0 && decide (x.size ≤ 16) && x.base % 4096 == 0 && x.cq % 4096 == 0 && (!x.dbMem || x.db % 8 == 0) &&
  inStack x.base (ringRecBytes x) && inStack x.cq (ringCqBytes x) && !shareByte x.base (ringRecBytes x) x.cq (ringCqBytes x) &&
  (!x.dbMem || (inStack x.db 8 && !shareByte x.db 8 x.base (ringRecBytes x) && !shareByte x.db 8 x.cq (ringCqBytes x) &&
    !s.rings.any (fun y => y.1 != r && y.2.enable && y.2.dbMem && y.2.db == x.db)))

/-- The overflow check of R543: more than a ring's length ahead of CONSUMER sends it to ERROR. -/
def ringCheck (x : Ring) : Ring :=
  if x.st = 1 && decide (2 ^ x.size < (x.producer + 2 ^ 32 - x.consumer) % 2 ^ 32) then { x with st := 2 } else x

/-- The ring reads the low 32 bits of its doorbell word, once its line can be read: an enable takes all three indices from it, a notification
PRODUCER (R272, R541–R543). A word that comes poisoned is taken as it comes. DEDUCED (log entry 119). -/
def doorbell (s : State) (r : Nat) : State :=
  let x := ringAt s r
  let m := memReady s [(x.db, 8)] [] .nobody
  if !m.2 then modRing m.1 r (fun x => { x with waitDb := true })
  else
    let l := readLine m.1 (x.db / 128 * 128) .nobody
    let p := leNat ((l.2.1.drop (x.db % 128)).take 4)
    modRing l.1 r (fun x => if x.st = 0 then { x with waitDb := false, st := 1, producer := p, consumer := p, completed := p }
      else ringCheck { x with waitDb := false, producer := p })

/-- A write of RING_CONFIG with ENABLE 1 to a ring not enabled: the other fields hold what is written, and a refused enable leaves
ENABLE 0 (R541). DEDUCED (log entry 119). -/
def ringEnable (s : State) (r v : Nat) : State :=
  let x := ringConfig (ringAt s r) v
  if (ringAt s r).enable then s
  else if !ringFieldsOk s r x then modRing s r (fun _ => x)
  else if x.dbMem then doorbell (modRing s r (fun _ => { x with enable := true })) r
  else modRing s r (fun _ => { x with enable := true, st := 1, consumer := x.producer, completed := x.producer })

/-- A write of ENABLE 0: no record is taken further, and the ring is DISABLED once nothing of it is in flight (R541). -/
def ringDisable (s : State) (r : Nat) : State :=
  modRing s r (fun x => { x with enable := false, waitDb := false, st := if x.recs.isEmpty then 0 else x.st })

/-- RING_ENABLE: a write of RING_CONFIG with ENABLE 1 (R541). -/
def execRingEnable (r : Nat) (v : Word) (s : State) : Host.Outcome State Fault Refusal :=
  whenUp s (if r < 16384 && v.getLsbD 63 then ringEnable s r v.toNat else s)

/-- RING_DISABLE (R541). -/
def execRingDisable (r : Nat) (s : State) : Host.Outcome State Fault Refusal :=
  whenUp s (if r < 16384 && (ringAt s r).enable then ringDisable s r else s)

/-- A new producer index (R543). -/
def ringProducer (s : State) (r p : Nat) : State := modRing s r (fun x => ringCheck { x with producer := p % 2 ^ 32 })

/-- RING_PRODUCER_ADVANCE: a PRODUCER write, ignored in memory doorbell mode, or a notification by the home NMU of DB_ADDR
(R542, R543). -/
def execRingProducerAdvance (r : Nat) (v : Option Nat) (s : State) : Host.Outcome State Fault Refusal :=
  whenUp s (
    let x := ringAt s r
    if 16384 ≤ r then s
    else match v with
      | some p => if x.dbMem then s else ringProducer s r p
      | none => if x.dbMem && x.enable then doorbell s r else s)

/-! ### Records (R114, R117, R543) -/

/-- Word `i` of a record. -/
def recWord (ws : List Word) (i : Nat) : Nat := (ws.getD i 0).toNat
/-- GROUP of a record. -/
def recGroup (ws : List Word) : Nat := bitsOf (recWord ws 1) 43 32
/-- A reserved field of a record is not zero (R114). -/
def recReserved (ws : List Word) : Bool :=
  bitsOf (recWord ws 0) 56 49 != 0 || bitsOf (recWord ws 1) 63 44 != 0 || (List.range 6).any (fun i => recWord ws (10 + i) != 0)

/-- Members of an imposition group in increasing order. -/
def impList (s : State) (g : Nat) : List Nat := (List.range 10240).filter (fun n => bitOf (impMembers s g) n)

/-- Ring status of a record read with outcome `st` (R22, R543). -/
def recStatus (s : State) (st : Nat) (ws : List Word) : Nat :=
  if st = 1 then stPoison
  else if st = 2 then stPartial
  else if recReserved ws || !impValid s (recGroup ws) then stIllegal
  else if phase s = phIdle || phase s = phTeardown then stPhase
  else 0

/-- RING_RECORD_TAKE: an ACTIVE ring takes the record at CONSUMER, decides its status, and holds it for delivery to the members
of its group, or completes it at once (R543). It waits for the line that it reads (R293, R360). -/
def execRingRecordTake (r : Nat) (s0 : State) : Host.Outcome State Fault Refusal :=
  whenUp s0 (
    let s := if (ringAt s0 r).waitDb then doorbell s0 r else s0
    let x := ringAt s r
    let a := x.base + 128 * (x.consumer % 2 ^ x.size)
    if 16384 ≤ r || x.st != 1 || !x.enable || x.consumer == x.producer ||
       decide (2 ^ x.size ≤ (x.consumer + 2 ^ 32 - x.completed) % 2 ^ 32) then s
    else
      let m := memReady s [(a, 128)] [] .nobody
      if !m.2 then m.1
      else
      let l := readLine m.1 a .nobody
      let ws := (chunks 8 l.2.1).map (fun b => BitVec.ofNat 64 (leNat b))
      let st := recStatus l.1 l.2.2 ws
      let todo := if st = 0 then impList l.1 (recGroup ws) else []
      modRing l.1 r (fun y => { y with
        consumer := (y.consumer + 1) % 2 ^ 32,
        recs := y.recs ++ [{ idx := x.consumer, tag := recWord ws 1 % 2 ^ 32, words := ws, status := st, todo := todo }] }))

/-- Change the record of index `i` of ring `r`. -/
def modRec (s : State) (r i : Nat) (f : RingRec → RingRec) : State :=
  modRing s r (fun x => { x with recs := x.recs.map (fun y => if y.idx == i then f y else y) })

/-- A core becomes a candidate for admission when it is at a boundary with a record queued (R445). -/
def candidate (now : Nat) (c : Core) : Core :=
  if c.run.isNone && !c.launchQ.isEmpty && c.candSince.isNone then { c with candSince := some now } else c

/-- Deliver a record to one member, or leave it in `todo` while the member's queue is full; a member out of service skips
it at once (R117, R473). -/
def deliverTo (r : Nat) (q : RingRec) (s : State) (n : Nat) : State :=
  match keyOf s n with
  | none => modRec s r q.idx (fun y => { y with todo := y.todo.filter (· != n), skipped := y.skipped + 1 })
  | some k =>
    if 4 ≤ (coreAt s k).launchQ.length then s
    else
      let now := timeNs s
      let s := modCore s k (fun c => candidate now { c with launchQ := c.launchQ ++ [⟨q.words, r, q.idx, now⟩] })
      modRec s r q.idx (fun y => { y with todo := y.todo.filter (· != n), out := y.out ++ [n] })

/-- RING_RECORD_DELIVERY: the oldest record that still has members to receive it is delivered to each whose launch queue has
room (R117). -/
def execRingRecordDelivery (r : Nat) (s : State) : Host.Outcome State Fault Refusal :=
  whenUp s (match (ringAt s r).recs.find? (fun y => !y.todo.isEmpty) with
    | none => s
    | some q => q.todo.foldl (deliverTo r q) s)

/-- A member has reached the forme boundary of a record's launch (R117). -/
def ringBoundary (s : State) (r i n : Nat) (skipped : Bool) : State :=
  modRec s r i (fun y => { y with out := y.out.filter (· != n), skipped := y.skipped + b2n skipped })

/-! ### Completion entries (R544) -/

/-- The 16 bytes of a completion entry. -/
def entryBytes (q : RingRec) : List Byte :=
  leBytes 8 (q.idx * 2 ^ 32 + q.status * 2 ^ 24 + q.skipped % 2 ^ 14) ++ leBytes 8 q.tag

/-- The MSI-X table at reset: every vector masked, as PCI Express has it. PRESUMED (log entry 114). -/
def msixDflt : Nat → Nat := fun i => if i % 2 = 1 then 2 ^ 32 else 0

/-- Words 2v and 2v + 1 of the MSI-X table: address, and data with the vector control above it. -/
def msixWord (s : State) (i : Nat) : Nat := tblGet msixDflt s.cxl.msix i

/-- Notify the host by MSI-X vector `v`: a message leaves, or pends while the vector is masked (R544, R546). DEDUCED (log entry 115). -/
def msixSend (s : State) (v : Nat) : State :=
  if bitOf (msixWord s (2 * v + 1)) 32 then
    { s with cxl := { s.cxl with msixPend := if bitOf s.cxl.msixPend v then s.cxl.msixPend else s.cxl.msixPend + 2 ^ v } }
  else { s with cxl := { s.cxl with msgs := s.cxl.msgs ++ [(msixWord s (2 * v), msixWord s (2 * v + 1) % 2 ^ 32)] } }

/-- A write of the MSI-X table; a vector unmasked with its bit pending sends at once. -/
def msixWrite (s : State) (i v : Nat) : State :=
  let s := { s with cxl := { s.cxl with msix := tblSet msixDflt s.cxl.msix i v } }
  let k := i / 2
  if bitOf s.cxl.msixPend k && !bitOf (msixWord s (2 * k + 1)) 32 then
    msixSend { s with cxl := { s.cxl with msixPend := s.cxl.msixPend - 2 ^ k } } k
  else s

/-- Set a bit of NOTIFY_PENDING (R539). -/
def notifyHart (s : State) (r : Nat) : State :=
  hartPoll (if bitOf s.notify r then s else { s with notify := s.notify + 2 ^ r }) (ringAt s r).target

/-- RING_COMPLETION_ENTRY: the oldest record in flight has completed, its entry is written, at once or when
the write is no longer held, and then the ring notifies (R544). -/
def execRingCompletionEntry (r : Nat) (s : State) : Host.Outcome State Fault Refusal :=
  whenUp s (
    let x := ringAt s r
    match x.recs with
    | [] => s
    | q :: rest =>
      let a := x.cq + 16 * (q.idx % 2 ^ x.size)
      let m := memReady s [] [(a, 16)] .nobody
      let waits := fun (s : State) => s.held.any (fun h => h.who == .nobody && h.line == a / 128 * 128)
      if !q.todo.isEmpty || !q.out.isEmpty then s
      else if !q.stored && !m.2 then m.1
      else
        let s := if q.stored then s
          else modRing (memStore m.1 a (entryBytes q) false .nobody).1 r (fun y => { y with recs := { q with stored := true } :: rest })
        if waits s then s
        else
          let s := dcount (dcount s kRingCompletions 1) kRingSkips (b2n (q.status != 0))
          let s := modRing s r (fun y => { y with
            completed := (q.idx + 1) % 2 ^ 32, recs := rest,
            st := if !y.enable && rest.isEmpty then 0 else y.st })
          if !x.notEn then s else if x.notMsix then msixSend s x.target else notifyHart s r)

/-! ### The ring block (R540) -/

/-- Read of a ring block. -/
def ringRead (x : Ring) (o : Nat) : Nat :=
  match o with
  | 0x00 => x.base
  | 0x08 => x.cq
  | 0x10 => ringConfigWord x
  | 0x18 => x.db
  | 0x20 => x.producer
  | 0x28 => x.completed * 2 ^ 32 + x.consumer
  | 0x30 => x.st * 2 ^ 62
  | _ => 0

/-- Write of a ring block under a bit mask: while ENABLE is 1 only ENABLE and PRODUCER take writes (R540, R541). -/
def ringWrite (s : State) (r o v m : Nat) : State :=
  let x := ringAt s r
  let w := mrg (ringRead x o) v m
  match o with
  | 0x00 => if x.enable then s else modRing s r (fun x => { x with base := w })
  | 0x08 => if x.enable then s else modRing s r (fun x => { x with cq := w })
  | 0x10 =>
    if x.enable then (if bitOf w 63 then s else ringDisable s r)
    else if bitOf w 63 then ringEnable s r w
    else modRing s r (fun x => ringConfig x w)
  | 0x18 => if x.enable then s else modRing s r (fun x => { x with db := w })
  | 0x20 => if x.dbMem then s else ringProducer s r w
  | _ => s

end Sys2Proof.Machine
end

