-- ==== Sys2Proof/Machine/Launch.lean ====
section
/-! DEFINITION. Launch admission and the forme boundary (R113, R118–R123). -/
namespace Sys2Proof.Machine
open Sys2Proof Config

/-- SLOT, FOLLOW, CARRY, STOP_EN and STOP_OFFSET, REPEAT of word 0 (R114), resolved by the held selection and carried count
(R118): slot and count. -/
def launchSlot (c : Core) (w0 : Nat) : Nat :=
  match c.selHeld with
  | some v => if bitOf w0 59 then v else bitsOf w0 63 60
  | none => bitsOf w0 63 60

/-- The repeat count of a launch (R118). -/
def launchCount (c : Core) (w0 : Nat) : Nat :=
  match c.carry with
  | some v => if bitOf w0 58 then v else bitsOf w0 31 0
  | none => bitsOf w0 31 0

/-- The forme check of R113 and R136: the instruction and template counts and the stop offset as an instruction index, or
none when the launch is skipped. -/
def formeCheck (c : Core) (slot w0 : Nat) : Option (Nat × Nat × Option Nat) :=
  let b := slotBase c slot
  let h0 := formeWord c b
  let h1 := formeWord c (b + 8)
  let ni := bitsOf h0 47 32
  let nt := bitsOf h0 31 24
  let so := bitsOf w0 48 32
  let bad := !slotValid c slot || bitsOf h0 63 56 != 1 || bitsOf h0 51 48 != 0 || bitsOf h0 23 0 != 0 || bitsOf h1 63 24 != 0 ||
    bitsOf h1 21 20 != 0 || formeWord c (b + 16) != 0 || formeWord c (b + 24) != 0 || decide (65536 < b + formeSize ni nt) ||
    (bitOf w0 57 && (so % 4 != 0 || decide (so < 0x40) || decide (0x40 + 4 * ni < so)))
  if bad then none else some (ni, nt, if bitOf w0 57 then some ((so - 0x40) / 4) else none)

/-- The bytes of a forme (R426). -/
def formeBytes (c : Core) (slot ni nt : Nat) : List Byte := memRead c.forme (slotBase c slot) (formeSize ni nt)

/-- The context a launch of group `g` is bound to (R421, R424): bound launches of a context that is not OPEN are counted. -/
def bindingOf (s : State) (g : Nat) : State × Option (Nat × Nat) :=
  let b := tblGet (fun _ => 0) s.bindings g
  let c := b % 16
  if !bitOf b 7 then (s, none)
  else if (ctxAt s c).state = 1 then (s, some (c, (ctxAt s c).invocation))
  else (dcount s kUncoveredLaunches 1, none)

/-- The registers at admission (R100). -/
def admitRegs (ws : List Word) : CcRegs :=
  (List.range 8).foldl (fun r i => gSet r (2 + i) (ws.getD (2 + i) 0)) { svl := 8 }

/-- After an admission the slot is the last launch's (R138) and the next record is the head of the queue from now on. -/
def popLaunch (now : Nat) (c : Core) : Core :=
  { c with launchQ := match c.launchQ.tail with | [] => [] | l :: t => { l with at_ := now } :: t,
           granted := false, candSince := none, selHeld := none, carry := none,
           lastSlot := match c.launchQ with | [] => c.lastSlot | l :: _ => launchSlot c (recWord l.words 0) }

/-- What holds off an admission besides the budget scheduler: core stores being zeroed (R279), a saved lifetime record (R481), a due
proof pass or sparing of the core (R466, R471), its cluster not ON or settling (R441, R443), and the phase (R22). -/
def admitOpen (s : State) (k : Nat) (c : Core) : Bool :=
  let d := domAt s (clusterOf k)
  c.run.isNone && (phase s == phStart || phase s == phRun || phase s == phTest || phase s == phRecovery) && !s.zeroing &&
  dget s kLifetimeState != 2 && !c.marked && d.st == 2 && !d.settling &&
  !s.proofs.any (fun p => match p.1 with | .core j => j == k | .sram j => j / 16 == k | _ => false)

/-- A launch that runs (R100, R118), bound as `bind` says: its state, the log of its program leaf and its run. DEDUCED (log entry 37). -/
def launchRun (s : State) (n k : Nat) (l : LaunchRec) (slot count : Nat) (f : Nat × Nat × Option Nat) (bind : Option (Nat × Nat)) : State :=
  let g := recGroup l.words
  let c := coreAt s k
  let run : Run := {
    ring := l.ring, idx := l.idx, slot := slot, count := count, ninsn := f.1, ntmpl := f.2.1, stop := f.2.2,
    group := g, rank := popCount (impMembers s g % 2 ^ n), size := popCount (impMembers s g), epoch := dget s kJobEpoch, bind := bind }
  let leaf := sha384 (0x10 :: formeBytes c slot f.1 f.2.1)
  let s := contribute s bind (fun x => addProgLeaf x leaf)
  dcount (modCore s k (fun c => beginIter { c with
    regs := admitRegs l.words, tokens := [], waits := [], ccWait := none, masks := [],
    launchSeq := (c.launchSeq + 1) % 2 ^ 16, lut := {}, amax := 0, boundUids := [], blocked := false, lastSlot := slot } run 0))
    kLaunchesAdmitted 1

/-- A launch that runs nothing reaches its boundary at once (R113, R118), and its cluster may rest from then (R441). DEDUCED (log entry 37). -/
def launchEmpty (s : State) (n k : Nat) (l : LaunchRec) (skipped : Bool) : State :=
  ringBoundary (restCluster (modCore s k (candidate (timeNs s))) k) l.ring l.idx n skipped

/-- LAUNCH_ADMISSION (R118): the head record of a core that the budget scheduler has granted is admitted. DEDUCED (log entry 37). -/
def execLaunchAdmission (n : Nat) (s : State) : Host.Outcome State Fault Refusal :=
  whenUp s (match keyOf s n with
    | none => s
    | some k =>
      let c := coreAt s k
      match c.launchQ with
      | [] => s
      | l :: _ =>
        if !c.granted || !admitOpen s k c then s
        else
          let now := timeNs s
          let w0 := recWord l.words 0
          let slot := launchSlot c w0
          let count := launchCount c w0
          let s := dcount (monSample s 4 0 n (now - l.at_)) kAdmissionWaitNs (now - c.candSince.getD now)
          let s := modCore s k (fun c => { popLaunch now c with amax := if count = 0 then c.amax else 0 })
          let b := bindingOf s (recGroup l.words)
          let s := contribute b.1 b.2 (fun x => { x with members := insNat n x.members })
          if count = 0 then launchEmpty s n k l false
          else match formeCheck (coreAt s k) slot w0 with
            | none =>
              let s := logEvent (dcount s kLaunchesAdmitted 1) k 6 stIllegal 0 0
              let s := contribute s b.2 (fun x => { x with skip := satAdd max32 x.skip 1 })
              launchEmpty s n k l true
            | some f => launchRun s n k l slot count f b.2)

/-- Everything that the launch pushed has retired (R120). -/
def drainedCore (s : State) (k : Nat) (c : Core) : Bool :=
  c.mq.isEmpty && c.vq.isEmpty && c.dq.isEmpty && c.cq.isEmpty && c.sq.isEmpty && c.meJob.isNone && c.veJob.isNone &&
  c.de.job.isNone && c.de.chain.isNone && c.coll.stage == 0 && !c.seBusy && c.ccWait.isNone && !s.atomics.any (fun a => a.who == .de k)

/-- The selection of a launch that ends (R122). -/
def resolveSel (c : Core) (r : Run) : Option Nat :=
  match r.sel with
  | some v => some v
  | none =>
    let w1 := formeWord c (slotBase c r.slot + 8)
    let f := candField w1 (bitsOf w1 23 22)
    if f.1 then some f.2 else none

/-- The core at its forme boundary (R120, R137, R192): its image holds the registers as the last executed instruction left them. DEDUCED (log entry 126). -/
def boundaryCore (now : Nat) (c : Core) (r : Run) : Core :=
  candidate now { c with
    image := c.atEnd, selHeld := resolveSel c r, run := none, lastSlot := r.slot, lastIter := r.iter, galley := [],
    lut := {}, internal := false }

/-- FORME_BOUNDARY (R120): every iteration has run and every command has retired; the image is written and the selection
resolved. -/
def execFormeBoundary (n : Nat) (s : State) : Host.Outcome State Fault Refusal :=
  whenUp s (match keyOf s n with
    | none => s
    | some k =>
      let c := coreAt s k
      match c.run with
      | none => s
      | some r =>
        if !r.finished || !drainedCore s k c then s
        else
          let now := timeNs s
          let s := dcount s kGalleyDiscards c.galley.length
          let s := restCluster (putCore s k (boundaryCore now c r)) k
          ringBoundary s r.ring r.idx n false)

end Sys2Proof.Machine
end

