-- ==== Sys2Proof/Machine/Power.lean ====
section
/-! DEFINITION. Sensing, the budget scheduler, the hold, thermal emergencies, power domains and the time base (R439–R458,
R570, R571). -/
namespace Sys2Proof.Machine
open Sys2Proof Config

/-! ### Free numbers -/

/-- A free number below 2^(8m) that the outside world supplies. DESIGN CHOICE (log entry 5, 16). -/
def freeNat (s : State) (m : Nat) : State × Nat := let r := freeBytes s m; (r.1, leNat r.2)

/-! ### Domains (R439–R442, R457) -/

/-- Domains that run at a V-step (R442). -/
def hasVstep (d : Nat) : Bool := d < 416 || (496 ≤ d && d < 512)

/-- Coordinate named for a domain in the calendar: its core, engine, NMU or die; R480 gives no coordinate for a cluster. DEDUCED (log entry 82). -/
def domCoord (s : State) (d : Nat) : Nat :=
  if d < 336 then unitCoord s (d / 42) (d % 42 * 32)
  else if d < 400 then unitCoord s ((d - 336) / 8) (0x600 + (d - 336) % 8)
  else if d < 416 then nmuCoord s (d - 400)
  else if 508 ≤ d then unitCoord s ((d - 508) / 2) 0x7E0
  else unitCoord s 0 0x7F0

/-- Logical cores held by a cluster: number and key. -/
def clusterCores (s : State) (d : Nat) : List (Nat × Nat) :=
  (List.range 1280).filterMap (fun l =>
    let n := 1280 * (d / 42) + l
    match keyOf s n with
    | some k => if clusterOf k = d then some (n, k) else none
    | none => none)

/-- State of a domain: OFF in reset (R566); ports and optical engines follow PORT_LEVELS, and engines of GZ-9S are OFF (R441). -/
def domState (s : State) (d : Nat) : Nat :=
  if !s.up then 0
  else if 416 ≤ d && d < 496 then (if portDomOff s d then 0 else 2)
  else if 336 ≤ d && d < 400 && s.grade == 3 then 0
  else (domAt s d).st

/-- Byte of DOMAIN_STATE (R457). -/
def domByte (s : State) (d : Nat) : Nat :=
  let x := domAt s d
  let v := if hasVstep d then x.vstep else 3
  domState s d * 64 + b2n x.em * 32 + b2n (x.held || (s.hold && d < 400)) * 16 + v

/-! ### Wear (R478) -/

/-- The largest n below 2^b, added to `acc`, with (acc + n)^100 at most `x` (structural in the bits). -/
def root100 (x : Nat) : Nat → Nat → Nat
  | 0, acc => acc
  | b + 1, acc => if (acc + 2 ^ b) ^ 100 ≤ x then root100 x b (acc + 2 ^ b) else root100 x b acc

/-- 2^(t / 100) in units of 2^-32, for t in 0.01 steps of the exponent, rounded down. -/
def pow2Hundredth (t : Int) : Nat :=
  let q := t / 100
  let r := (t % 100).toNat
  let m := root100 (2 ^ (3200 + r)) 34 0
  if 0 ≤ q then m * 2 ^ q.toNat else m / 2 ^ (-q).toNat

/-- a of R478 in hundredths. DEDUCED (log entry 89). -/
def wearRate (st v : Nat) : Nat :=
  if st = 0 then 0 else if st = 1 then 2 else [30, 45, 67, 100, 145, 210].getD v 210

/-- Wear of one reading in units of 2^-32 ms: 0.01 ms × a × 2^((T − 75)/10), T in 0.1 °C. DEDUCED (log entry 89). -/
def wearAdd (s : State) (d t : Nat) : Nat :=
  wearRate (domState s d) (if hasVstep d then (domAt s d).vstep else 3) * pow2Hundredth ((t : Int) - 750) / 10000

/-! ### IPv6 addresses (R510) -/

/-- MAC_ADDRESS in transmission order. -/
def macBytes (s : State) : List Byte := leBytes 6 (dget s kMacAddress)

/-- The link-local address: fe80::/64 with the modified EUI-64 of MAC_ADDRESS. -/
def linkLocal (s : State) : Nat :=
  let m := macBytes s
  0xFE80 * 2 ^ 112 + beNat ([Nat.xor (m.getD 0 0).toNat 2].map (BitVec.ofNat 8) ++ (m.drop 1).take 2 ++ [0xFF, 0xFE] ++ m.drop 3)

/-- Sum of big-endian 16-bit words, a lone last byte being the high one. -/
def sum16 : List Byte → Nat
  | [] => 0
  | [a] => a.toNat * 256
  | a :: b :: t => a.toNat * 256 + b.toNat + sum16 t

/-- An ICMPv6 message with its checksum (RFC 4443). PRESUMED (log entry 109). -/
def icmp (src dst : Nat) (ty : Nat) (body : List Byte) : List Byte :=
  let m := fun (c : Nat) => [BitVec.ofNat 8 ty, 0] ++ beBytes 2 c ++ body
  let sum := sum16 (beBytes 16 src ++ beBytes 16 dst ++ beBytes 4 (4 + body.length) ++ [0, 0, 0, 58] ++ m 0)
  let f := sum % 65536 + sum / 65536
  m (65535 - (f % 65536 + f / 65536))

/-- The solicited-node group of an address (RFC 4291). PRESUMED (log entry 109). -/
def solicitedNode (a : Nat) : Nat := 0xFF02 * 2 ^ 112 + 2 ^ 32 + 0xFF000000 + a % 2 ^ 24

/-- The neighbour solicitation by which the package asks whether its own address is in use, to the solicited-node group (R510). PRESUMED (log entry 109). -/
def dadProbe (s : State) : NetOut :=
  let me := linkLocal s
  ⟨solicitedNode me, 0, 0, icmp 0 (solicitedNode me) 135 ([0, 0, 0, 0] ++ beBytes 16 me)⟩

/-- A message leaves for an address; a neighbour not resolved yet is solicited first, and its advertisement is taken to come. Nothing leaves
once the own address is a duplicate (R510). PRESUMED (log entry 109). -/
def netOut (s : State) (dst port src : Nat) (bs : List Byte) : State :=
  if s.netDup then s
  else
    let ask : NetOut := ⟨solicitedNode dst, 0, 0,
      icmp (linkLocal s) (solicitedNode dst) 135 ([0, 0, 0, 0] ++ beBytes 16 dst ++ [1, 1] ++ macBytes s)⟩
    let t := if dst / 2 ^ 120 = 0xFF || s.neigh.contains dst then s
      else { s with sent := s.sent ++ [ask], neigh := s.neigh ++ [dst] }
    { t with sent := t.sent ++ [⟨dst, port, src, bs⟩] }

/-! ### Reset by trip, under-voltage or PKGRST_N (R566, R571) -/

/-- The package in reset: volatile state is lost; the NVM, what the fuses and the sealed and committed entries hold, and the latent
faults of the hardware remain. DESIGN CHOICE (log entry 13). -/
def resetDict (s : State) : Tbl Nat :=
  [kAssetTag, kBundleSeq, kHdieWaysDisabled, kBootMinVersion, kOwnerState, kOwnerKeys, kOwnerKeyDigest, kPartNumber, kSerial, kMacAddress,
   kManufactureDay, kPolbexKeyDigest, kIdentityPublicKeys].foldl
    (fun t k => tblSet dictDflt t k (dget s k)) []

/-- Enter reset (R566): a cycle that ends before it has reached SAFE is unclean, one whose records were still loading too (R481). -/
def enterReset (s : State) : State :=
  let nv := fun (n : Nvm) => { n with safe := n.safe && (!s.up || recordsSafe s) }
  { pending := s.pending, up := false, grade := s.grade, nvmA := nv s.nvmA, nvmB := nv s.nvmB, tripped := s.tripped, freeCount := s.freeCount,
    vinOk := s.vinOk, rstLow := s.rstLow,
    meFault := s.meFault, seFault := s.seFault, parity := s.parity, dieParity := s.dieParity, dict := resetDict s }

/-! ### Readings (R444, R450, R451) -/

/-- The limit of a thermal emergency in 0.1 °C. -/
def tLimit (s : State) : Nat := 10 * dget s kThermalLimit

/-- A thermal emergency begins (R451, R452). -/
def emBegin (s : State) (d : Nat) : State :=
  let s := setVstep s d ((domAt s d).vstep - 2)
  let s := modDom s d (fun x => { x with em := true, stepAt := timeNs s, coolFrom := none })
  calEvent (dcount s kThermalEmergencies 1) 0x0E (domCoord s d) d

/-- The reading of one domain's temperature: wear is counted until SAFE (R478, R481), and an emergency begins or ends its count, but not
before core stores are zeroed at power-up; after a reading below the limit, the 20 µs run from the first one that is not (R451, R458). -/
def tempReading (s0 : State) (p : Nat × Nat) : State :=
  let d := p.1
  if 512 ≤ d then s0
  else
    let w := if recordsSafe s0 then 0 else wearAdd s0 d p.2
    let s := monSample (modDom s0 d (fun x => { x with temp := p.2, wear := x.wear + w })) 0x11 0 d p.2
    let now := timeNs s
    if !hasVstep d || powerUpZeroing s then s
    else if (domAt s d).em then
      modDom s d (fun x => { x with
        stepAt := if p.2 < tLimit s || (domAt s0 d).temp < tLimit s then now else x.stepAt,
        coolFrom := if p.2 + 50 < tLimit s then some (x.coolFrom.getD now) else none })
    else if tLimit s ≤ p.2 && domState s d != 0 then emBegin s d
    else s

/-- The reading of one domain's power, while the domain is ON (R444). -/
def powerReading (s : State) (p : Nat × Nat) : State :=
  if p.1 < 512 && domState s p.1 == 2 then monSample (modDom s p.1 (fun x => { x with power := p.2 })) 0x12 0 p.1 p.2 else s

/-- Time held so far enters HOLD_NS (R450). DEDUCED (log entry 87). -/
def holdCount (s : State) : State :=
  if s.hold then { dcount s kHoldNs (timeNs s - s.holdSince) with holdSince := timeNs s } else s

/-- The hold engages or releases as a reading completes; solves that waited it out go on (R450). -/
def holdReading (s : State) : State :=
  let c := dget s kPowerCeiling
  let s := holdCount s
  if decide (c * 11 < s.p10 * 10) || decide (c < s.p1m) then { s with hold := true, holdSince := timeNs s }
  else if decide (s.p10 ≤ c) && decide (s.p1m * 100 ≤ c * 98) then (List.range 64).foldl seResume { s with hold := false }
  else s

/-- A P10 reading: P1M is the average of those of the last 1 ms, of fewer while fewer have been read (R444). DEDUCED (log entry 146). -/
def p10Reading (s : State) (p : Nat) : State :=
  let ps := (p :: s.p10s).take 100
  { s with p10 := p, p10s := ps, p1m := ps.foldl (· + ·) 0 / ps.length }

/-- SENSOR_READING: a set of readings completes; a trip resets the package, and otherwise emergencies begin and the hold is judged
(R444, R450, R451, R570, R571). DEDUCED (log entry 8). -/
def execSensorReading (r : Reading) (at_ : Nat) (s : State) : Host.Outcome State Fault Refusal :=
  if s.up && r.temp.any (fun p => 1250 ≤ p.2) then .next (enterReset { s with tripped := true })
  else whenUp s (
    let s := atTime s at_
    let s := monSample (p10Reading s r.p10) 0x14 0 0 r.p10
    let s := r.power.foldl powerReading s
    holdReading (r.temp.foldl tempReading s))

/-! ### The budget scheduler (R445–R447) -/

/-- Power factor of a V-step in hundredths (R445). -/
def powerFactor (v : Nat) : Nat := [41, 57, 77, 100, 125, 154].getD v 154

/-- A candidate: its number, key, candidacy TIME and cost in mW at V-step 3, none when it runs nothing (R447). -/
structure Cand where
  n : Nat
  k : Nat
  since : Nat
  cost : Option Nat
  deriving DecidableEq, Repr

/-- Cost of the launch at the head of a core's queue (R445, R447). -/
def candCost (s : State) (c : Core) : Option Nat :=
  match c.launchQ with
  | [] => none
  | l :: _ =>
    let w0 := recWord l.words 0
    let slot := launchSlot c w0
    if launchCount c w0 = 0 then none
    else match formeCheck c slot w0 with
      | none => none
      | some _ =>
        let e := bitsOf (formeWord c (slotBase c slot)) 55 52
        some (dget s kEnergyClassCost / 65536 ^ e % 65536)

/-- Insert a candidate by candidacy TIME, then number (R446). -/
def insCand (x : Cand) : List Cand → List Cand
  | [] => [x]
  | y :: t => if x.since < y.since || (x.since == y.since && x.n < y.n) then x :: y :: t else y :: insCand x t

/-- The candidates in order (R446). -/
def candidates (s : State) : List Cand :=
  s.cores.foldl (fun l p =>
    let c := p.2
    match c.candSince with
    | none => l
    | some t =>
      let n := logicalOf s p.1
      if c.granted || c.marked || keyOf s n != some p.1 then l else insCand ⟨n, p.1, t, candCost s c⟩ l) []

/-- A cluster is free: no core of it runs or has been admitted, and no emergency is in force (R446). DEDUCED (log entry 87). -/
def clusterFree (s : State) (d : Nat) : Bool :=
  !(domAt s d).em && !s.cores.any (fun p => clusterOf p.1 == d && (p.2.run.isSome || p.2.granted))

/-- CLUSTER_VSTEP_CAP of a cluster. -/
def vstepCap (s : State) (d : Nat) : Nat := dget s kClusterVstepCap / 256 ^ d % 256

/-- Demand of the free candidates at V-step `v`, in 0.01 mW. -/
def demand (s : State) (v : Nat) (cs : List Cand) : Nat :=
  cs.foldl (fun a c => a + c.cost.getD 0 * powerFactor (min v (vstepCap s (clusterOf c.k)))) 0

/-- The highest V-step of VSTEP_MIN to `lo + fuel` that fits, VSTEP_MIN when none does. DEDUCED (log entry 87). -/
def pickVstep (s : State) (used budget : Nat) (cs : List Cand) (lo : Nat) : Nat → Nat
  | 0 => lo
  | f + 1 => if used + demand s (lo + f + 1) cs ≤ budget then lo + f + 1 else pickVstep s used budget cs lo f

/-- Admit the candidates that run nothing: each fits at once (R447). DEDUCED (log entry 87). -/
def grantIdle (cs : List Cand) (s : State) : State :=
  cs.foldl (fun s c => if c.cost.isNone then modCore s c.k (fun x => { x with granted := true }) else s) s

/-- Admit candidates in order while they fit (R446); one that does not holds back every later one that has a cost. -/
def grantGo (budget : Nat) : List Cand → Nat → State → State
  | [], _, s => s
  | c :: t, used, s =>
    match c.cost with
    | none => grantGo budget t used (modCore s c.k (fun x => { x with granted := true }))
    | some m =>
      let e := m * powerFactor (domAt s (clusterOf c.k)).vstep
      if used + e ≤ budget then
        let s := modCore s c.k (fun x => { x with granted := true })
        grantGo budget t (used + e) { s with admits := s.admits ++ [(timeNs s, e)] }
      else grantIdle t s

/-- BUDGET_DECISION (R446): no decision while the hold is engaged (R450) or core stores are being zeroed (R458). -/
def execBudgetDecision (s : State) : Host.Outcome State Fault Refusal :=
  whenUp s (
    if s.hold || s.zeroing then s
    else
      let now := timeNs s
      let s := { s with admits := s.admits.filter (fun a => now < a.1 + dget s kAdmitSettle) }
      let budget := dget s kPowerCeiling * (100 - dget s kPowerMargin) * 1000
      let used := s.p10 * 100000 + s.admits.foldl (fun a x => a + x.2) 0
      let cs := candidates s
      let free := cs.filter (fun c => c.cost.isSome && clusterFree s (clusterOf c.k))
      let lo := dget s kVstepMin
      let v := pickVstep s used budget free lo (dget s kVstepMax - lo)
      let s := free.foldl (fun s c => setVstep s (clusterOf c.k) (min v (vstepCap s (clusterOf c.k)))) s
      grantGo budget cs used s)

/-- VSTEP_SETTLED: a change of V-step has settled (R443). -/
def execVstepSettled (dom : Nat) (at_ : Nat) (s : State) : Host.Outcome State Fault Refusal :=
  whenUp s (modDom (atTime s at_) dom (fun d => { d with settling := false }))

/-- THERMAL_EMERGENCY_STEP: each further 20 µs at or above the limit (R451). -/
def execThermalEmergencyStep (dom : Nat) (at_ : Nat) (s : State) : Host.Outcome State Fault Refusal :=
  whenUp s (
    let s := atTime s at_
    let d := domAt s dom
    if !d.em || d.temp < tLimit s || timeNs s < d.stepAt + 20000 then s
    else if d.vstep = 0 then (if dom < 400 then modDom s dom (fun d => { d with held := true }) else s)
    else modDom (setVstep s dom (d.vstep - 2)) dom (fun d => { d with stepAt := timeNs s }))

/-- THERMAL_EMERGENCY_END: 100 µs below THERMAL_LIMIT − 5 °C (R452). -/
def execThermalEmergencyEnd (dom : Nat) (at_ : Nat) (s : State) : Host.Outcome State Fault Refusal :=
  whenUp s (
    let s := atTime s at_
    match (domAt s dom).coolFrom with
    | none => s
    | some t =>
      if !(domAt s dom).em || timeNs s < t + 100000 then s
      else
        let s := if 400 ≤ dom then setVstep s dom 3 else s
        let s := modDom s dom (fun d => { d with em := false, held := false, coolFrom := none })
        if 336 ≤ dom && dom < 400 then seResume s (dom - 336) else s)

/-! ### Switching domains (R441) -/

/-- An SQ head of the group of engine `e` holds a satisfied wait, or the engine holds a joint solve. -/
def engineWanted (s : State) (e : Nat) : Bool :=
  (engineAt s e).job.isSome || s.cores.any (fun p => engineOf s (logicalOf s p.1) == e && headReady p.2 .sq)

/-- A place lies in a cluster: a core's store or its control blocks. -/
def inCluster (d : Nat) : Loc → Bool
  | .store k _ => clusterOf k == d
  | .ctl (.core k _) => clusterOf k == d
  | .ctl (.mem k _) => clusterOf k == d
  | .ctl (.de k _) => clusterOf k == d
  | _ => false

/-- A descriptor in execution names a place of the cluster (R441). -/
def clusterPending (s : State) (d : Nat) : Bool :=
  s.cores.any (fun p => match p.2.de.job with
    | some j => (match dLocs s p.1 j.x with | some l => inCluster d l.1 || inCluster d l.2 | none => false)
    | none => false)

/-- A cluster stays idle: every core is at a boundary with an empty launch queue, and no access to it is pending (R441). -/
def clusterIdle (s : State) (d : Nat) : Bool := !s.cores.any (fun p => clusterOf p.1 == d && closedCore p.2) && !clusterPending s d

/-- DOMAIN_RETAIN_ENTRY (R441): RETAIN for clusters and solver engines, OFF for a cluster that holds no logical core. -/
def execDomainRetainEntry (dom : Nat) (at_ : Nat) (s : State) : Host.Outcome State Fault Refusal :=
  whenUp s (
    let s := atTime s at_
    let d := domAt s dom
    let dl := dget s kRetainDelay
    if dl = 0 || s.zeroing || d.st != 2 || timeNs s < d.idleFrom + dl then s
    else if dom < 336 then
      (if !clusterIdle s dom then s
       else modDom s dom (fun d => { d with st := if (clusterCores s dom).isEmpty then 0 else 1 }))
    else if dom < 400 then (if engineWanted s (dom - 336) then s else modDom s dom (fun d => { d with st := 1 }))
    else s)

/-- What wakes a domain is present (R441). -/
def wakeCause (s : State) (dom : Nat) : Bool :=
  if dom < 336 then s.cores.any (fun p => clusterOf p.1 == dom && !p.2.launchQ.isEmpty)
  else if dom < 400 then s.grade != 3 && engineWanted s (dom - 336)
  else if 496 ≤ dom && dom < 506 then !bitOf (dget s kHostDomainsOff) (dom - 496)
  else false

/-- Bring a domain to ON. -/
def wakeDom (s : State) (dom : Nat) : State :=
  if (domAt s dom).st = 2 then s
  else dcount (modDom s dom (fun d => { d with st := 2, idleFrom := timeNs s })) kDomainWakes 1

/-- DOMAIN_WAKE: the wake of a domain completes (R441). -/
def execDomainWake (dom : Nat) (s : State) : Host.Outcome State Fault Refusal :=
  whenUp s (if wakeCause s dom then wakeDom s dom else s)

/-- A cache half is switched off: its modified lines are written back first (R441, R533); the halves split lines by their lowest
line bit, which the spec leaves open. DESIGN CHOICE (log entry 90). -/
def cacheHalfOff (s : State) (h : Nat) : State :=
  s.hcache.foldl (fun s x => if x.1 % 2 = h && x.2.way < 16 then hEvict s x.1 else s) s

/-- A write of HOST_DOMAINS_OFF that is accepted (R458). DESIGN CHOICE (log entry 91). -/
def hostDomainsOk (s : State) (v : Nat) (hart : Option Nat) : Bool :=
  (match hart with | some h => bitOf (dget s kHostDomainsOff) (h / 8) || !bitOf v (h / 8) | none => true)

/-- A request whose hart keeps nothing has no owner. -/
def unowned (gone : Nat → Bool) (w : ReqOwner) : ReqOwner :=
  match w with
  | .hartLoad h _ _ _ => if gone h then .gone else w
  | .hartStore h _ => if gone h then .gone else w
  | .hartAmo h _ => if gone h then .gone else w
  | .hartFill h _ _ _ => if gone h then .gone else w
  | _ => w
/-- Nor has an access of its own to memory. -/
def unheld (gone : Nat → Bool) (w : Owner) : Owner :=
  match w with
  | .hart h => if h < 64 && gone h then .nobody else w
  | _ => w

/-- An application-core group is switched off: nothing in it is kept (R440). Modified lines that only a hart's L2 holds are written back first,
as those of a cache half are. DESIGN CHOICE (log entry 90). -/
def groupOff (s : State) (g : Nat) : State :=
  let gone := fun (h : Nat) => h / 8 == g
  let s := s.hcache.foldl (fun s x => if 16 ≤ x.2.way && gone ((x.2.way - 16) / 16) then hEvict s x.1 else s) s
  let s := s.hcache.foldl (fun s x => hdieMod s x.1 (fun l => { l with near := l.near.filter (fun c => !gone ((c.way - 16) / 16)) })) s
  { s with harts := s.harts.filter (fun x => !gone x.1), hres := s.hres.filter (fun x => !gone x.1), hresp := s.hresp.filter (fun x => !gone x.1),
           reqs := s.reqs.map (fun r => { r with who := unowned gone r.who }), issueQ := s.issueQ.map (fun r => { r with who := unowned gone r.who }),
           atomics := s.atomics.map (fun q => { q with who := unheld gone q.who }), held := s.held.map (fun h => { h with who := unheld gone h.who }) }

/-- Domains 496–505 whose bit in HOST_DOMAINS_OFF is 1 go OFF; those whose bit is 0 are woken by DOMAIN_WAKE (R441). -/
def hostApply (s : State) : State :=
  let v := dget s kHostDomainsOff
  (List.range 10).foldl (fun s i =>
    if !bitOf v i || (domAt s (496 + i)).st = 0 then s
    else modDom (if i < 8 then groupOff s i else cacheHalfOff s (i - 8)) (496 + i) (fun d => { d with st := 0 })) s

/-- A write of HOST_DOMAINS_OFF switches domains, but not before core stores are zeroed at power-up (R441, R458). -/
def hostDomains (s : State) (v : Nat) : State :=
  let t := dset s kHostDomainsOff v
  if powerUpZeroing s then t else hostApply t

/-- HOST_DOMAINS_OFF_WRITE (R441, R458). -/
def execHostDomainsOffWrite (v : BitVec 16) (hart : Option Nat) (s : State) : Host.Outcome State Fault Refusal :=
  whenUp s (dictWrite kHostDomainsOff v.toNat (fun s => if hostDomainsOk s v.toNat hart then hostDomains s (v.toNat % 1024) else s) s hart)

/-! ### The time base (R454–R456) -/

/-- A signed value as its 64-bit two's complement. -/
def i64 (x : Int) : Nat := (x % (2 ^ 64 : Int)).toNat

/-- TIME_SYNC_FRAME: OFFSET is measured; TIME is stepped forward in IDLE, or its increment adjusted by at most 100 ppm, by an amount
that the spec leaves open (R455, R456). DESIGN CHOICE (log entry 5). DEDUCED (log entry 88). -/
def execTimeSyncFrame (offset : Int) (at_ : Nat) (s : State) : Host.Outcome State Fault Refusal :=
  whenUp s (
    let s := atTime s at_
    let s := dset { s with lastSync := timeNs s } kTimeOffsetNs (i64 offset)
    let s := dset s kTimeState (if offset.natAbs ≤ 1000 then 1 else 2)
    if phase s = phIdle && 1000000 < offset then
      { s with timeFx := s.timeFx + offset.toNat * 2 ^ 32, stepped := s.stepped + offset.toNat, lastSync := timeNs s + offset.toNat, tick := 10 * 2 ^ 32 }
    else
      let f := freeNat s 4
      let adj := if offset = 0 then 0 else f.2 % 4294968
      { f.1 with tick := if 0 ≤ offset then 10 * 2 ^ 32 + adj else 10 * 2 ^ 32 - adj })

/-- TIME_HOLDOVER_ENTRY: no 802.1AS time for 2 s (R456). DEDUCED (log entry 88). -/
def execTimeHoldoverEntry (at_ : Nat) (s : State) : Host.Outcome State Fault Refusal :=
  whenUp s (
    let s := atTime s at_
    let t := dget s kTimeState
    if (t = 1 || t = 2) && s.lastSync + 2000000000 ≤ timeNs s then dset s kTimeState 3 else s)

end Sys2Proof.Machine
end

