-- ==== Sys2Proof/Machine/Checks.lean ====
section
/-! DEFINITION. Proof passes, core sparing, histogram monitors and lifetime records (R462–R483, R534). -/
namespace Sys2Proof.Machine
open Sys2Proof Config

/-! ### Proof passes (R465, R466) -/

/-- A proof pass of this unit is due. -/
def passDue (s : State) (u : ProofUnit) : Bool := s.proofs.any (fun p => p.1 == u) && !s.proofDone.any (fun p => p.unit == u)

/-- A pass of this unit is due and may find what it finds: after SAFE no lasting fault changes the records (R481). -/
def passOpen (s : State) (u : ProofUnit) (faulty : Bool) : Bool := passDue s u && !(faulty && recordsSafe s)

/-- Mark a core for sparing (R466). -/
def markCore (s : State) (k : Nat) : State := modCore s k (fun c => { c with marked := true, markedAt := timeNs s })

/-- Record the outcome a pass has found. DEDUCED (log entry 92). -/
def passFound (s : State) (u : ProofUnit) (outcome event coord detail : Nat) : State :=
  { s with proofDone := s.proofDone ++ [⟨u, outcome, event, coord, detail⟩] }

/-- Take a spare row of a unit if fewer than `cap` are used: true when one was left. -/
def takeSpare (s : State) (u cap : Nat) : State × Bool :=
  if spareOf s u < cap then ({ s with spareUsed := tblSet (fun _ => 0) s.spareUsed u (spareOf s u + 1) }, true) else (s, false)

/-- Block a row (R469): its two lines carry their poison markers. -/
def blockRow (s : State) (row : Nat) : State :=
  let l := row / 2 ^ 23 * 2 ^ 24 + row % 2 ^ 23 * 2
  { s with blocked := tblSet (fun _ => false) s.blocked row true,
           marks := tblSet (fun _ => false) (tblSet (fun _ => false) s.marks l true) (l + 1) true }

/-- STACK_BANK_PROOF_PASS: the failing row, numbered channel × 2^23 + row, is tested; a faulty one is spared, or blocked when its bank
(its channel, in this model) has no spare row left (R466, R469). -/
def execStackBankProofPass (st : Nat) (row : Nat) (faulty : Bool) (s : State) : Host.Outcome State Fault Refusal :=
  whenUp s (
    let c := row / 2 ^ 23
    if !passOpen s (.bank c) faulty || c / 32 != st then s
    else if !faulty then passFound s (.bank c) 1 0 (nmuCoord s st) 0
    else
      let r := takeSpare s (spareBank c) 16
      if r.2 then passFound r.1 (.bank c) 2 0x07 (nmuCoord s st) (row % 2 ^ 23)
      else passFound (blockRow s row) (.bank c) 3 0x08 (nmuCoord s st) (row % 2 ^ 23))

/-- Coordinate of a physical core. -/
def coreCoord (s : State) (k : Nat) : Nat := unitCoord s (k / 1344) (k % 1344)

/-- CORE_STORE_MACRO_PROOF_PASS: at the core's forme boundary every row of the SRAM block is tested, its cluster woken for it (R441, R466). DESIGN CHOICE (log entry 18). -/
def execCoreStoreMacroProofPass (n : Nat) (macroNo : Nat) (faulty : Bool) (s : State) : Host.Outcome State Fault Refusal :=
  whenUp s (match keyOf s n with
    | none => s
    | some k =>
      let u := ProofUnit.sram (16 * k + macroNo)
      if !passOpen s u faulty || (coreAt s k).run.isSome || 16 ≤ macroNo then s
      else
      let s := touchCore s k
      if !faulty then passFound s u 1 0 (coreCoord s k) 0
      else
        let r := takeSpare s (spareSram k macroNo) 4
        if r.2 then let f := freeNat r.1 1; passFound f.1 u 2 0x07 (coreCoord s k) f.2
        else passFound (markCore s k) u 3 0 (coreCoord s k) 0)

/-- Logical core numbers of an A-die. -/
def dieCores (s : State) (d : Nat) : List Nat := (List.range (coresPerDie s)).map (· + 1280 * d)

/-- Usable spare physical cores of an A-die, in increasing number (R471). DESIGN CHOICE (log entry 13). -/
def usableSpares (s : State) (d : Nat) : List Nat :=
  let used := (dieCores s d).filterMap (fun n => tblGet coreMapDflt s.coreMap n)
  (List.range 1344).filter (fun p => !used.contains p && !tblGet (fun _ => false) s.retired (1344 * d + p))

/-- CORE_PROOF_PASS: at the core's forme boundary the whole core is tested, its cluster woken for it; a faulty one is marked for sparing
(R441, R466). DEDUCED (log entry 93). -/
def execCoreProofPass (n : Nat) (faulty : Bool) (s : State) : Host.Outcome State Fault Refusal :=
  whenUp s (match keyOf s n with
    | none => s
    | some k =>
      if !passOpen s (.core k) faulty || (coreAt s k).run.isSome then s
      else
      let s := touchCore s k
      if !faulty then passFound s (.core k) 1 0 (coreCoord s k) 0
      else passFound (markCore s k) (.core k)
        (if (usableSpares s (k / 1344)).isEmpty then 3 else 2) 0 (coreCoord s k) 0)

/-- PORT_PROOF_PASS: a lasting fault changes nothing until the next training; a spare lane is left unless one is in use
already (R466). DEDUCED (log entry 93). -/
def execPortProofPass (port : Nat) (faulty : Bool) (s : State) : Host.Outcome State Fault Refusal :=
  whenUp s (
    if !passDue s (.port port) then s
    else passFound s (.port port) (if !faulty then 1 else if portSt s port = 3 then 3 else 2) 0 (unitCoord s (portFd port) 0x7E0) 0)

/-- FDIE_MACRO_PROOF_PASS: the block of an SRAM error of an F-die, which a flit met or which the row brings, is tested at once; with no spare row left the buffer bank is
disabled (R462, R466). DESIGN CHOICE (log entry 18). DEDUCED (log entry 92). -/
def execFdieMacroProofPass (fd : Nat) (macroNo : Nat) (faulty : Bool) (s : State) : Host.Outcome State Fault Refusal :=
  whenUp s (
    let u := ProofUnit.fdieMacro (2 * macroNo + fd)
    let co := unitCoord s fd 0x7E0
    if 2 ≤ fd then s
    else
      let s := if passDue s u then s else detect s 0x0B co macroNo u
      if !passOpen s u faulty then s
      else if !faulty then passFound s u 1 0 co 0
      else
        let r := takeSpare s (spareFdie (2 * macroNo + fd)) 4
        if r.2 then let f := freeNat r.1 1; passFound f.1 u 2 0x07 co f.2
        else passFound { s with banksOff := insNat (2 * macroNo + fd) s.banksOff } u 3 0x0D co macroNo)

/-- HDIE_WAY_PROOF_PASS: the proof pass of a cache way, which an access that met an error made due or which brings the error with it; the
way is flushed and tested, and disabled if it fails (R534). `half` 2 + h names the caches of hart h, whose ways 0–3 are L1 instruction,
4–7 L1 data and 8–15 L2. DEDUCED (log entry 92). -/
def execHdieWayProofPass (half : Nat) (way : Nat) (faulty : Bool) (s : State) : Host.Outcome State Fault Refusal :=
  whenUp s (
    let b := 16 * half + way
    let u := ProofUnit.hdieWay b
    let co := unitCoord s 0 0x7F0
    if 66 ≤ half || 16 ≤ way || bitOf (dget s kHdieWaysDisabled) b then s
    else
      let s := if passDue s u then s else detect s 0x0C co b u
      if !passOpen s u faulty then s
      else
        let s := s.hcache.foldl (fun s x => if (wayUnit x.1 x.2.way) = u then hEvict s x.1
          else hdieMod s x.1 (fun l => { l with near := l.near.filter (fun c => wayUnit x.1 c.way != u) })) s
        if !faulty then passFound s u 1 0 co 0
        else passFound (dset s kHdieWaysDisabled (dget s kHdieWaysDisabled + 2 ^ b)) u 3 0x0D co b)

/-- PROOF_PASS_COMPLETE: the pass ends; the log entry, the counters and the calendar take its outcome (R464, R465). DEDUCED (log entry 92). -/
def execProofPassComplete (u : ProofUnit) (s : State) : Host.Outcome State Fault Refusal :=
  whenUp s (match s.proofDone.find? (fun p => p.unit == u), s.proofs.find? (fun p => p.1 == u) with
    | some e, some p =>
      let s := { s with proofDone := s.proofDone.filter (fun q => q.unit != u), proofs := s.proofs.filter (fun q => q.1 != u) }
      let s := countPass (errOutcome s p.2 e.outcome) e.outcome
      if e.event = 0 then s else calEvent s e.event e.coord e.detail
    | _, _ => s)

/-! ### Core sparing (R471–R473) -/

/-- A spare's own pass is run: its cluster is woken for it if it is not ON, and the pass is counted (R465, R471). A spare that fails and is
retired ends NO_SPARE, since no spare replaces it. DEDUCED (log entry 93). -/
def sparePass (s : State) (k : Nat) (faulty : Bool) : State :=
  countPass (touchCore s k) (if faulty then 3 else 1)

/-- The move to spare `p`: the core's state goes with it, and the clusters of both are woken for it (R441, R471). DEDUCED (log entry 36). -/
def spareTo (s : State) (n k p : Nat) : State :=
  let d := k / 1344
  let k' := 1344 * d + p
  let s := sparePass (touchCore s k) k' false
  let c := coreAt s k
  let s := putCore s k {}
  let s := putCore s k' { c with marked := false, granted := false }
  let s := { s with coreMap := tblSet coreMapDflt s.coreMap n (some p), retired := tblSet (fun _ => false) s.retired k true }
  calEvent s 0x09 (coreCoord s k) (n % 1280 * 65536 + p)

/-- The spares that fail their own pass before the one chosen are retired, and their cluster returns to OFF (R441, R471). -/
def retireSpare (s0 : State) (k : Nat) : State :=
  let t := sparePass s0 k true
  let s := if (domAt s0 (clusterOf k)).st = 0 then modDom t (clusterOf k) (fun d => { d with st := 0 }) else t
  calEvent { s with retired := tblSet (fun _ => false) s.retired k true } 0x0A (coreCoord s k) (k % 1344)

/-- A logical core goes out of service (R473): the records queued on it reach their boundary skipped. DEDUCED (log entry 93). -/
def outOfService (s : State) (n k : Nat) : State :=
  let q := (coreAt s k).launchQ
  let s := q.foldl (fun s l => ringBoundary s l.ring l.idx n true) (putCore s k {})
  let s := { s with coreMap := tblSet coreMapDflt s.coreMap n none, retired := tblSet (fun _ => false) s.retired k true }
  calEvent s 0x0B (coreCoord s k) (n % 1280)

/-- Sparing of logical core `n` is due: it is marked, at a boundary, and no pass of its own is pending (R471). -/
def sparingDue (s : State) (n : Nat) : Bool :=
  match keyOf s n with
  | none => false
  | some k => (coreAt s k).marked && (coreAt s k).run.isNone &&
      !s.proofs.any (fun p => match p.1 with | .core j => j == k | .sram j => j / 16 == k | _ => false)

/-- A core of the same A-die of lower number, marked no later, goes first (R472). DEDUCED (log entry 93). -/
def sparingYields (s : State) (n k : Nat) : Bool :=
  (dieCores s (n / 1280)).any (fun m => decide (m < n) && sparingDue s m &&
    (match keyOf s m with | some j => decide ((coreAt s j).markedAt ≤ (coreAt s k).markedAt) | none => false))

/-- CORE_SPARING: a marked core at its boundary moves to the lowest usable spare that passes; `bad` are those that fail (R471–R473). -/
def execCoreSparing (n : Nat) (bad : List Nat) (s : State) : Host.Outcome State Fault Refusal :=
  whenUp s (match keyOf s n with
    | none => s
    | some k =>
      if !sparingDue s n || sparingYields s n k || recordsSafe s then s
      else
        let d := k / 1344
        let sp := usableSpares s d
        let failed := sp.takeWhile (fun p => bad.contains p)
        let s := failed.foldl (fun s p => retireSpare s (1344 * d + p)) s
        match sp.dropWhile (fun p => bad.contains p) with
        | p :: _ => spareTo s n k p
        | [] => outOfService s n k)

/-! ### Histogram monitors (R474–R476, R483) -/

/-- A monitor. -/
def monAt (s : State) (m : Nat) : Mon := tblGet (fun _ => {}) s.mons m
/-- Change a monitor. -/
def modMon (s : State) (m : Nat) (f : Mon → Mon) : State := { s with mons := tblMod (fun _ => {}) s.mons m f }

/-- A SOURCE value that R474 lists. -/
def monSourceOk (s : State) (v : Nat) : Bool :=
  let k := bitsOf v 31 24
  let b := bitsOf v 23 16
  let u := bitsOf v 15 0
  decide (v < 2 ^ 32) && (match k with
    | 0x00 => b == 0 && u == 0
    | 0x01 => b == 0 && coreNamed s u
    | 0x02 => b == 0 && coreNamed s u
    | 0x03 => b ≤ 3 && u ≤ 1
    | 0x04 => b == 0 && coreNamed s u
    | 0x10 => b ≤ 5 && coreNamed s u
    | 0x11 => b == 0 && decide (u < 512)
    | 0x12 => b == 0 && decide (u < 512)
    | 0x13 => b ≤ 4 && decide (u < 64)
    | 0x14 => b == 0 && u == 0
    | _ => false)

/-- A WINDOW_NS value that R483 accepts. -/
def monWindowOk (v : Nat) : Bool := v == 0 || (1000 ≤ v && v ≤ 3600000000000)

/-- Clear the accumulators and restart the window (R475). -/
def monClear (now : Nat) (x : Mon) : Mon :=
  if x.window = 0 then { x with acc := {}, start := now, res := {}, resStart := now, resEnd := 0 } else { x with acc := {}, start := now }

/-- MONITOR_WINDOW_LATCH: at a multiple of WINDOW_NS the accumulators are latched and cleared (R475). -/
def execMonitorWindowLatch (m : Nat) (at_ : Nat) (s : State) : Host.Outcome State Fault Refusal :=
  whenUp s (
    let s := atTime s at_
    if 512 ≤ m then s else modMon s m (monRoll (timeNs s)))

/-- A write of a monitor's entry (R474, R475, R483); one that is not accepted changes nothing. -/
def monWrite (s : State) (m : Nat) : MonWrite → State
  | .source v => if monSourceOk s v then modMon s m (fun x => monClear (timeNs s) { x with source := v }) else s
  | .window v => if monWindowOk v then modMon s m (fun x => monClear (timeNs s) { x with window := v }) else s
  | .restart => modMon s m (monClear (timeNs s))

/-- The entry, by its offset within the monitor's object, and the value of a monitor write (R483). -/
def monKey (m : Nat) : MonWrite → Nat × Nat
  | .source v => (kSource + 256 * m, v)
  | .window v => (kWindowNs + 256 * m, v)
  | .restart => (kRestart + 256 * m, 1)

/-- MONITOR_RESTART (R475, R483). -/
def execMonitorRestart (m : Nat) (w : MonWrite) (s : State) : Host.Outcome State Fault Refusal :=
  whenUp s (if m < 512 then dictWrite (monKey m w).1 (monKey m w).2 (fun s => monWrite s m w) s else s)

/-- 32-byte credits in use in the ingress buffer of a port, in one virtual lane: those of the requests that wait there and of
the flits in transit that wait for credits. DEDUCED (log entry 96). -/
def portInUse (s : State) (p lane : Nat) : Nat :=
  s.outQ.foldl (fun a o => if o.inp = some p ∧ fVl o.f = lane then a + flitCredits o.f else a)
    (s.ingress.foldl (fun a g => if g.port = p ∧ fVl g.f = lane then a + flitCredits g.f else a) 0)

/-- The entries that a monitor of queue occupancy (KIND 0x10) samples, or the credits in use of one of port ingress (0x13) (R474). DEDUCED (log entry 96). -/
def occupancy (s : State) (src : Nat) : Option Nat :=
  if bitsOf src 31 24 = 0x13 then some (portInUse s (bitsOf src 15 0) (bitsOf src 23 16))
  else if bitsOf src 31 24 != 0x10 then none
  else match keyOf s (bitsOf src 15 0) with
    | none => none
    | some k =>
      let c := coreAt s k
      some (match bitsOf src 23 16 with
        | 0 => c.mq.length
        | 1 => c.vq.length
        | 2 => c.dq.length
        | 3 => c.cq.length
        | 4 => c.sq.length
        | _ => c.launchQ.length)

/-- MONITOR_OCCUPANCY_SAMPLE: the sample taken every 1 µs of TIME (R474). -/
def execMonitorOccupancySample (at_ : Nat) (s : State) : Host.Outcome State Fault Refusal :=
  whenUp s (
    let s := atTime s at_
    if timeNs s < s.occAt + 1000 then s
    else s.mons.foldl (fun s m => match occupancy s m.2.source with
      | some v => modMon s m.1 (fun x => monSampled (timeNs s) x v)
      | none => s) { s with occAt := timeNs s })

/-! ### Lifetime records (R477–R481) -/

/-- Copy B is the newer valid one. -/
def nvmBNewer (s : State) : Bool := nvmValid s.nvmB && (!nvmValid s.nvmA || decide (s.nvmA.seq < s.nvmB.seq))

/-- The records as they now stand. DEDUCED (log entry 94). -/
def records (s : State) (safe : Bool) : Nvm :=
  let old := if nvmBNewer s then s.nvmB else s.nvmA
  { seq := old.seq + 1, safe := safe, seconds := powerOnS s, cycles := s.powerCycle,
    wear := (List.range 512).foldl (fun t d => tblSet (fun _ => 0) t d ((domAt s d).wear / 2 ^ 32)) [],
    errs := (List.range 12).foldl (fun t c => tblSet (fun _ => 0) t c (tblGet (fun _ => 0) s.errBase c + dget s (kErrors + c))) [],
    coreMap := s.coreMap, retired := s.retired, blocked := s.blocked, spareUsed := s.spareUsed,
    failed := (List.range 64).filter (fun e => (engineAt s e).failed), banksOff := s.banksOff,
    waysOff := dget s kHdieWaysDisabled, cal := s.cal, calSeq := s.calSeq }

/-- The copy in force. -/
def nvmNewer (s : State) : Option Nvm :=
  if nvmBNewer s then some s.nvmB else if nvmValid s.nvmA then some s.nvmA else none

/-- A commit writes the older copy, with its CRC-64, and LAST_COMMIT (R477, R482). DEDUCED (log entry 94). -/
def nvmWrite (s : State) (r : Nvm) : State :=
  let t := dset { s with calDone := s.calSeq } kLastCommit (timeNs s)
  if nvmBNewer s || !nvmValid s.nvmA then { t with nvmA := nvmSeal r } else { t with nvmB := nvmSeal r }

/-- Records change only in RUNNING and FAULT (R481). -/
def recordsOpen (s : State) : Bool := dget s kLifetimeState == 1 || dget s kLifetimeState == 3

/-- LIFETIME_COMMIT: every 10 minutes of TIME (R477). -/
def execLifetimeCommit (at_ : Nat) (s : State) : Host.Outcome State Fault Refusal :=
  whenUp s (
    let s := atTime s at_
    if !recordsOpen s || timeNs s < s.countsAt + 600000000000 then s
    else nvmWrite { s with countsAt := timeNs s } (records s false))

/-- CALENDAR_COMMIT: entries not yet committed are written, the counts and wear staying as last committed (R477). -/
def execCalendarCommit (at_ : Nat) (s : State) : Host.Outcome State Fault Refusal :=
  whenUp s (
    let s := atTime s at_
    if !recordsOpen s || s.calSeq ≤ s.calDone then s
    else
      let r := records s false
      nvmWrite s (match nvmNewer s with
        | some o => { r with seconds := o.seconds, wear := o.wear, errs := o.errs }
        | none => { r with seconds := 0, wear := [], errs := [] }))

/-- SHUTDOWN (R481): in IDLE a write of 1 commits the records and the event, and the records are SAFE. -/
def shutdownAct (s : State) : State :=
  if !recordsOpen s then s
  else
    let s := calEvent s 0x02 (unitCoord s 0 0x7F0) 0
    dset (nvmWrite { s with countsAt := timeNs s } (records s true)) kLifetimeState 2

/-- SHUTDOWN: a write of the entry, accepted in IDLE only (R481). -/
def execShutdown (v : Nat) (at_ : Nat) (s : State) : Host.Outcome State Fault Refusal :=
  whenUp s (
    dictWrite kShutdown v (fun s => if phase s != phIdle || v != 1 then s else shutdownAct s) (atTime s at_))

/-- Take over the records of a copy (R481). DEDUCED (log entry 94). -/
def loadRecords (s : State) (r : Nvm) : State :=
  let s := { s with powerOnBase := r.seconds, powerCycle := r.cycles + 1, coreMap := r.coreMap, retired := r.retired, blocked := r.blocked,
                    spareUsed := r.spareUsed, banksOff := r.banksOff, cal := r.cal, calSeq := r.calSeq, calDone := r.calSeq, errBase := r.errs }
  let s := r.failed.foldl (fun s e => modEngine s e (fun g => { g with failed := true })) s
  let s := r.wear.foldl (fun s w => modDom s w.1 (fun d => { d with wear := d.wear + w.2 * 2 ^ 32 })) s
  let s := r.blocked.foldl (fun s b => if b.2 then blockRow s b.1 else s) s
  dset s kHdieWaysDisabled r.waysOff

/-- An event of this cycle that was entered before the records were loaded takes its place after those of earlier cycles (R479). DEDUCED (log entry 94). -/
def calAgain (base : Nat) (s : State) (e : CalRec) : State :=
  { s with cal := tblSet calDflt s.cal (s.calSeq % 65536) { e with seq := s.calSeq % 2 ^ 32, cycle := s.powerCycle, powerOn := base + e.powerOn },
           calSeq := s.calSeq + 1 }

/-- The events entered since power-up, in order (R479). -/
def earlyEvents (s : State) : List CalRec :=
  (List.range (min s.calSeq 65536)).map (fun i => tblGet calDflt s.cal ((s.calSeq - min s.calSeq 65536 + i) % 65536))

/-- The newer valid copy is taken over, UNCLEAN_END is entered if the last cycle did not reach SAFE, then POWER_UP; with no valid copy
the records start from zero (R481). The events since power-up follow. -/
def lifetimeLoad (s : State) : State :=
  let early := earlyEvents s
  if dget s kLifetimeState != 0 then s
  else match nvmNewer s with
    | none => dset (early.foldl (calAgain 0) { s with powerCycle := 1, cal := [], calSeq := 0 }) kLifetimeState 3
    | some r =>
      let s := loadRecords s r
      let s := { s with nvmA := { s.nvmA with safe := false }, nvmB := { s.nvmB with safe := false } }
      let s := if r.safe then s else calEvent s 0x03 (unitCoord s 0 0x7F0) (r.seconds % 2 ^ 32)
      dset (early.foldl (calAgain r.seconds) (calEvent s 0x01 (unitCoord s 0 0x7F0) 0)) kLifetimeState 1

end Sys2Proof.Machine
end

