-- ==== Sys2Proof/Machine/Phase.lean ====
section
/-! DEFINITION. Power-up, reset and job phases (R21–R25, R45, R96, R279, R433, R500, R549, R566, R567). -/
namespace Sys2Proof.Machine
open Sys2Proof Config

/-! ### Reset and power-up -/

/-- POWER_UP_RESET_RELEASE: VIN48 is above 42.0 V and PKGRST_N high; with no trip latched, TIME starts at 0, straps are read, every domain is ON at V-step 3, stacks and ports
train, core stores are zeroed and the lifetime records are read (R45, R566, R567). DEDUCED (log entry 8). -/
def execPowerUpResetRelease (pkgpos : Nat) (brdpos : Nat) (s : State) : Host.Outcome State Fault Refusal :=
  .next (
    if s.up || s.tripped then s
    else
      let base : State := { State.reset with
        pending := s.pending, grade := s.grade, nvmA := s.nvmA, nvmB := s.nvmB, freeCount := s.freeCount,
        meFault := s.meFault, seFault := s.seFault, parity := s.parity, dieParity := s.dieParity }
      let s1 := s.dict.foldl (fun t x => dset t x.1 x.2) base
      let t := dset (dset (dset s1 kPackagePosition (pkgpos % 4)) kBoardNumber (brdpos % 16)) kPlcaNodeId (1 + pkgpos % 4)
      { t with sent := [dadProbe t] })

/-- VIN48_UNDER_VOLTAGE: below 40.0 V for longer than 2 µs puts the package into reset and clears a latched trip (R566, R571). DEDUCED (log entry 8). -/
def execVin48UnderVoltage (ns : Nat) (s : State) : Host.Outcome State Fault Refusal :=
  .next (if 2000 < ns then enterReset { s with tripped := false, vinOk := false } else s)

/-- PKGRST_N_ASSERT: low for longer than 1 µs (R566, R571). DEDUCED (log entry 8). -/
def execPkgrstNAssert (ns : Nat) (s : State) : Host.Outcome State Fault Refusal :=
  .next (if 1000 < ns then enterReset { s with tripped := false, rstLow := true } else s)

/-- THERMTRIP_N is driven low: a trip is latched and VIN48 is up (R571). -/
def thermTripLow (s : State) : Bool := s.tripped && s.vinOk

/-- Mailbox requests of the CXL window that are not yet served are cancelled (R549). -/
def cancelCxlBoxes (s : State) : State :=
  (List.range 2).foldl (fun s m => { s with mboxes := tblMod (fun _ => ({} : Mbox)) s.mboxes (8 + m) (fun b => if b.st = 1 then { b with st := 0 } else b) }) s

/-- CXL_PERST_N_RESET: only the CXL endpoint domain is reset (R549). -/
def execCxlPerstNReset (s : State) : Host.Outcome State Fault Refusal := whenUp s { s with cxl := {} }

/-- CXL_FUNCTION_LEVEL_RESET: the MSI-X table and BAR enables, and mailbox requests not yet served (R549). -/
def execCxlFunctionLevelReset (s : State) : Host.Outcome State Fault Refusal :=
  whenUp s (cancelCxlBoxes { s with cxl := { s.cxl with msix := [], msixPend := 0, bars := 0 } })

/-- CORE_STORE_ZEROING_DONE: every tile is zero with TILE_CRC 0 and POISON 0 (R279). DEDUCED (log entry 141). -/
def execCoreStoreZeroingDone (s : State) : Host.Outcome State Fault Refusal :=
  whenUp s (
    if !s.zeroing then s
    else
      let now := timeNs s
      hostApply { s with
        zeroing := false, cores := tblMap coreDflt s.cores (fun c => { c with store := [], tiles := [] }),
        doms := (List.range 336).foldl (fun t d => tblMod domDflt t d (fun x => { x with idleFrom := max x.idleFrom now })) s.doms })

/-! ### Job phases (R23, R24) -/

/-- The transitions of R23 that a write may name. -/
def phaseAllowed (a b : Nat) : Bool :=
  match a with
  | 0 => b == 1
  | 1 => b == 2 || b == 3 || b == 5
  | 2 => b == 3 || b == 4 || b == 5
  | 3 => b == 2 || b == 1 || b == 5
  | 4 => b == 2 || b == 5
  | _ => false

/-- A write of the phase entry is accepted (R24). -/
def phaseWriteOk (s : State) (v : Nat) : Bool := v == phase s || phaseAllowed (phase s) v

/-- What remains of a core across the transition from IDLE to START (R96, R111, R123, R135, R185, R331, R407): its register image, its
launch sequence number and what only its own work changes. Its tiles are zeroed by R279. DEDUCED (log entry 36). DESIGN CHOICE (log entry 125). -/
def startCore (c : Core) : Core :=
  { regs := c.regs, atEnd := c.atEnd, image := c.image, tokens := c.tokens, lastSlot := c.lastSlot, lastIter := c.lastIter, launchSeq := c.launchSeq,
    nextUid := c.nextUid, store := c.store, tiles := c.tiles, amax := c.amax, internal := c.internal, marked := c.marked,
    markedAt := c.markedAt }

/-- The resets of the transition from IDLE to START (R96, R111, R116, R123, R135, R185, R279, R331, R348, R407, R421, R422, R436, R484,
R540); the zeroing of core stores wakes their clusters (R441). -/
def startResets (s0 : State) : State :=
  let s := (List.range 336).foldl (fun s d => if (domAt s d).st = 1 then wakeDom s d else s) s0
  { s with
    cores := tblMap coreDflt s.cores startCore, engines := tblMap (fun _ => {}) s.engines (fun g => { g with f := {} }),
    nmus := [], grpMembers := [], grpValid := [], grpSize := [], bindings := [], ctxs := [], leaves := [], attached := [],
    snap := {}, rings := [], trans0 := [], trans1 := [], zeroing := true }

/-- One core at TEARDOWN: its queued records are discarded with SKIPPED_PHASE (R500). -/
def teardownCore (s : State) (p : Nat × Core) : State :=
  let n := logicalOf s p.1
  let s := p.2.launchQ.foldl (fun s l =>
    modRec s l.ring l.idx (fun y => { y with status := stPhase, out := y.out.filter (· != n) })) s
  let t := modCore s p.1 (fun c => { c with launchQ := [], granted := false, candSince := none })
  if p.2.launchQ.isEmpty then t else restCluster t p.1

/-- Records not yet delivered everywhere go to no further member (R500). DEDUCED (log entry 115). -/
def teardownRings (s : State) : State :=
  { s with rings := s.rings.map (fun x => (x.1, { x.2 with recs := x.2.recs.map (fun y =>
      if y.todo.isEmpty then y else { y with todo := [], status := stPhase }) })) }

/-- What a transition to TEARDOWN does at once (R500). -/
def teardown (s : State) : State :=
  let s := teardownRings s
  snapAbandon (s.cores.foldl teardownCore s)

/-- Every OPEN or CLOSING context is abandoned at a transition to RECOVERY (R433). -/
def abandonAll (s : State) : State :=
  (List.range 16).foldl (fun s c => if (ctxAt s c).state = 1 || (ctxAt s c).state = 2 then ctxDiscard s c else s) s

/-- Set the phase and PHASE_SINCE. -/
def setPhase (s : State) (v : Nat) : State := dset (dset s kJobPhase v) kPhaseSince (timeNs s)

/-- An accepted transition with the actions of the new phase. -/
def phaseMove (s : State) (v : Nat) : State :=
  let old := phase s
  let s := setPhase s v
  let s := if old = phRun then snapAbandon s else s
  if v = phStart && old = phIdle then setupAtStart (startResets s)
  else if v = phTeardown then teardown s
  else if v = phRecovery then abandonAll s
  else s

/-- JOB_PHASE_WRITE (R24): a write of the current phase or of an order that R23 does not allow changes nothing. -/
def execJobPhaseWrite (v : Nat) (s : State) : Host.Outcome State Fault Refusal :=
  whenUp s (dictWrite kJobPhase v (fun s => if v != phase s && phaseAllowed (phase s) v then phaseMove s v else s) s)

/-- The epoch of a job in TEARDOWN has drained (R500). -/
def drained (s : State) : Bool :=
  quiet s && s.reqs.isEmpty && s.issueQ.isEmpty && decide (s.lastIssue + dget s kRequestLifetime ≤ timeNs s)

/-- TEARDOWN_DRAIN_COMPLETE: LAST_EPOCH is set and the package moves itself to IDLE (R23, R500). -/
def execTeardownDrainComplete (at_ : Nat) (s : State) : Host.Outcome State Fault Refusal :=
  whenUp s (
    let s := atTime s at_
    if phase s = phTeardown && drained s then setPhase (dset s kLastEpoch (dget s kJobEpoch)) phIdle else s)

end Sys2Proof.Machine
end

