-- ==== Sys2Proof/Machine/RegMap.lean ====
section
/-! DEFINITION. Control space as the H-die and the CXL window reach it (R13, R271, R348, R375, R407, R421, R422, R436, R463, R479, R484,
R513, R539, R540, R546), and REGISTER_WRITE. -/
namespace Sys2Proof.Machine
open Sys2Proof Config

/-- A register of control space: those of R313, and the rest. -/
inductive Reg where
  | ctl (l : CtlLoc) | coll (k o : Nat) | trans (l : Nat) | group (g o : Nat) | binding (g : Nat) | ctx (c o : Nat) | att (a o : Nat)
  | errLog (o : Nat) | cal (o : Nat) | snap (o : Nat) | box (m o : Nat) | hdie (o : Nat) | ring (r o : Nat) | msix (i : Nat) | msixPba | cfg (o : Nat) | comp (o : Nat) | zero
  deriving DecidableEq, Repr

/-- The register at a package-local address, a multiple of 8; none when unpopulated. -/
def regAt (s : State) (a : Nat) : Option Reg :=
  if a < 0x200000000000 then none
  else if 0x250000000000 ≤ a && a < 0x250002800000 then
    (keyOf s ((a - 0x250000000000) / 0x1000)).map (fun k => .coll k (a % 0x1000))
  else if 0x260000000000 ≤ a && a < 0x260000020000 then some (.trans ((a - 0x260000000000) / 8))
  else if 0x270000000000 ≤ a && a < 0x270000100000 then some (.group ((a - 0x270000000000) / 0x1000) (a % 0x1000))
  else if 0x290000000000 ≤ a && a < 0x290000001000 then some (.binding (a - 0x290000000000))
  else if 0x290000010000 ≤ a && a < 0x290000020000 then some (.ctx ((a - 0x290000010000) / 0x1000) (a % 0x1000))
  else if 0x290000100000 ≤ a && a < 0x290000300000 then some (.att ((a - 0x290000100000) / 0x200) (a % 0x200))
  else if 0x2A0000000000 ≤ a && a < 0x2A0000008008 then some (.errLog (a - 0x2A0000000000))
  else if 0x2A0000100000 ≤ a && a < 0x2A0000300000 then some (.cal (a - 0x2A0000100000))
  else if 0x2B0000000000 ≤ a && a < 0x2B0000001000 then some (.snap (a - 0x2B0000000000))
  else if 0x2C0000000000 ≤ a && a < 0x2C0000040000 then some (.box ((a - 0x2C0000000000) / 0x8000) (a % 0x8000))
  else if 0x2D0000000000 ≤ a && a < 0x2D0000003000 then some (.hdie (a - 0x2D0000000000))
  else if 0x2E0000000000 ≤ a && a < 0x2E0000100000 then some (.ring ((a - 0x2E0000000000) / 64) (a % 64))
  else (ctlWindow s a).map (fun x => .ctl x.1)

/-- The register at an offset of BAR0 (R546). DESIGN CHOICE (log entry 112). -/
def barAt (o : Nat) : Reg :=
  if o < 0x100000 then .ring (o / 64) (o % 64)
  else if o < 0x110000 then .box (8 + (o - 0x100000) / 0x8000) (o % 0x8000)
  else if 0x180000 ≤ o && o < 0x180400 then .msix ((o - 0x180000) / 8)
  else if o = 0x181000 then .msixPba
  else if 0x200000 ≤ o && o < 0x203000 then .hdie (o - 0x200000)
  else .zero

/-! ### Reads -/

/-- Word of a byte record. -/
def recordWord (bs : List Byte) (o : Nat) : Nat := leNat ((bs.drop o).take 8)

/-- Read of a context block (R422). -/
def ctxRead (x : Ctx) (o : Nat) : Nat :=
  if 0x100 ≤ o && o < 0x200 then recordWord x.record (o - 0x100)
  else match o with
    | 0x008 => x.state * 2 ^ 61 + x.invocation % 2 ^ 32
    | 0x010 => x.ownerBase * 2 ^ 32 + x.ownerCount * 2 ^ 16 + x.ownerShift
    | 0x018 => x.ownIndex
    | _ => 0

/-- Read of an attachment entry (R436). -/
def attRead (x : Attach) (o : Nat) : Nat :=
  if 0x100 ≤ o then recordWord x.record (o - 0x100)
  else match o with
    | 0x000 => x.base.toNat
    | 0x008 => x.len.toNat
    | 0x010 => b2n x.valid * 2 ^ 63 + x.context
    | _ => 0

/-- Read of the error log (R463). -/
def errRead (s : State) (o : Nat) : Nat :=
  if o = 0x8000 then s.errCount % 1024 + s.errCount % 2 ^ 32 * 2 ^ 32
  else
    let e := tblGet errDflt s.errLog (o / 32)
    match o % 32 / 8 with
    | 0 => e.time
    | 1 => e.cls * 2 ^ 56 + e.outcome * 2 ^ 48 + e.unit
    | 2 => e.detail
    | _ => e.seq * 2 ^ 32

/-- Read of the calendar's mirror (R479). -/
def calRead (s : State) (o : Nat) : Nat :=
  let e := tblGet calDflt s.cal (o / 32)
  match o % 32 / 8 with
  | 0 => e.seq * 2 ^ 32 + e.cycle % 2 ^ 32
  | 1 => e.time
  | 2 => e.powerOn % 2 ^ 32 * 2 ^ 32 + e.event * 2 ^ 24 + e.tstate * 2 ^ 16
  | _ => e.unit * 2 ^ 32 + e.detail

/-- Read of the snapshot control block (R484). -/
def snapRead (x : Snap) (o : Nat) : Nat :=
  if 0x100 ≤ o && o < 0x500 then
    (if o % 16 = 0 then tblGet (fun _ => 0) x.bases ((o - 0x100) / 16) else tblGet (fun _ => 0) x.lens ((o - 0x100) / 16))
  else match o with
    | 0x008 => x.stepTag
    | 0x010 => x.state * 2 ^ 61 + x.last * 2 ^ 32 + x.gen
    | 0x018 => x.exclude * 2 ^ 32 + x.restoreGen
    | 0x020 => b2n x.commitValid * 2 ^ 63 + x.commitSlot * 2 ^ 32 + x.commitGen
    | 0x028 => x.commitTag
    | 0x030 => x.commitTime
    | 0x038 => b2n x.localComplete * 2 ^ 63 + x.localGen
    | 0x040 => x.rebuilt * 2 ^ 32 + x.lost
    | _ => 0

/-- A mailbox. -/
def boxAt (s : State) (m : Nat) : Mbox := tblGet (fun _ => {}) s.mboxes m
/-- Change a mailbox. -/
def modBox (s : State) (m : Nat) (f : Mbox → Mbox) : State := { s with mboxes := tblMod (fun _ => {}) s.mboxes m f }

/-- Read of a mailbox (R513). -/
def boxRead (x : Mbox) (o : Nat) : Nat :=
  if 0x2000 ≤ o && o < 0x4000 then leNat (memRead x.req (o - 0x2000) 8)
  else if 0x4000 ≤ o && o < 0x6000 then recordWord x.resp (o - 0x4000)
  else if o = 8 then x.st * 2 ^ 62 + x.resp.length
  else 0

/-- MTIMECMP of a hart (R539). -/
def mtimecmpOf (s : State) (h : Nat) : Nat := ones64 - tblGet (fun _ => 0) s.mtimecmp h

/-- Read of the H-die control block (R539). -/
def hdieRead (s : State) (o : Nat) : Nat :=
  if o < 0x200 then b2n (bitOf s.msip (o / 8))
  else if 0x800 ≤ o && o < 0xA00 then mtimecmpOf s ((o - 0x800) / 8)
  else if 0x1000 ≤ o && o < 0x1800 then tblGet (fun _ => 0) s.apertures ((o - 0x1000) / 8)
  else if o = 0x1800 then s.released
  else if o = 0x1808 then (match s.hdieErr with | some w => 2 ^ 63 + w | none => s.hdieErrKeep)
  else if o = 0x1810 then s.hdieErrAddr
  else if 0x2000 ≤ o && o < 0x2800 then s.notify / 2 ^ (8 * (o - 0x2000)) % 2 ^ 64
  else 0

/-- Width in lanes and speed (4 for 16 GT/s, 5 for 32 GT/s) of the trained link: 16 lanes at 32 GT/s, or the lesser ones that CXL 2.0 permits; which one
training gives is free (R545). PRESUMED (log entry 114). -/
def cxlLink : Nat × Nat := [(16, 5), (8, 5), (4, 5), (16, 4), (8, 4), (4, 4)].getD (Config.cxlTrained.toNat % 6) (16, 5)

/-- HDM decoder `k`. -/
def hdmAt (s : State) (k : Nat) : Hdm := tblGet (fun _ => {}) s.cxl.hdm k

/-- A 32-bit word of the registers of an HDM decoder in the component registers of CXL 2.0: base, size, control (granularity, ways, lock on commit,
commit, committed, Error Not Committed; device coherent) and DPA skip (R545, R547). PRESUMED (log entry 114). -/
def hdmWord (d : Hdm) (skip o : Nat) : Nat :=
  match o with
  | 0x00 => d.base % 2 ^ 32
  | 0x04 => d.base / 2 ^ 32 % 2 ^ 32
  | 0x08 => d.size % 2 ^ 32
  | 0x0C => d.size / 2 ^ 32 % 2 ^ 32
  | 0x10 => Nat.log2 d.gran - 8 + 2 ^ 4 * Nat.log2 d.ways + (b2n d.committed + b2n (d.committed || d.error) * 2) * 2 ^ 8 + b2n d.committed * 2 ^ 10 +
      b2n d.error * 2 ^ 11
  | 0x18 => skip % 2 ^ 32
  | 0x1C => skip / 2 ^ 32 % 2 ^ 32
  | _ => 0

/-- A 32-bit word of the component registers: the capability array, and the HDM decoder capability with the two decoders (R545, R547). PRESUMED (log entry 114). -/
def compWord (s : State) (o : Nat) : Nat :=
  let d0 := hdmAt s 0
  let d1 := hdmAt s 1
  match o with
  | 0x1000 => 1 + 2 ^ 16 + 2 ^ 20 + 2 ^ 24
  | 0x1004 => 5 + 2 ^ 16 + 0x010 * 2 ^ 20
  | 0x1010 => 1
  | 0x1014 => 2
  | _ =>
    if 0x1020 ≤ o && o < 0x1040 then hdmWord d0 d0.dpa (o - 0x1020)
    else if 0x1040 ≤ o && o < 0x1060 then hdmWord d1 (d1.dpa - (d0.dpa + d0.size / d0.ways)) (o - 0x1040)
    else 0

/-- A 32-bit word of the configuration space of the CXL function: identity, memory enable, BAR0 (a 64-bit memory BAR of 4 MiB), the PCI Express capability
with the link's width and speed, MSI-X with its 64 vectors, table and pending bits at their places in BAR0, the Polbex DVSEC, the CXL device DVSEC (cache, io and mem
capable, two decoders), the register locator DVSEC, AER and DOE; the others read 0 (R515, R545–R549). PRESUMED (log entry 114). -/
def cfgWord (s : State) (o : Nat) : Nat :=
  match o with
  | 0x000 => polbexVendor.toNat + Config.cxlDeviceId.toNat * 2 ^ 16
  | 0x004 => s.cxl.bars % 2 * 2 + 2 ^ 20
  | 0x008 => Config.cxlClass.toNat
  | 0x010 => s.cxl.bar % 2 ^ 32 + 4
  | 0x014 => s.cxl.bar / 2 ^ 32
  | 0x034 => 0x40
  | 0x040 => 0x10 + 0x80 * 2 ^ 8 + 2 * 2 ^ 16
  | 0x044 => 2 ^ 28
  | 0x04C => 5 + 16 * 2 ^ 4
  | 0x050 => (cxlLink.2 + cxlLink.1 * 2 ^ 4) * 2 ^ 16
  | 0x080 => 0x11 + (63 + 2 ^ 15) * 2 ^ 16
  | 0x084 => 0x180000
  | 0x088 => 0x181000
  | 0x100 => 0x0023 + 2 ^ 16 + 0x140 * 2 ^ 20
  | 0x104 => polbexVendor.toNat + 0x14 * 2 ^ 20
  | 0x108 => 0x0001
  | 0x10C => 0x0010 * 2 ^ 16
  | 0x110 => 2
  | 0x140 => 0x0023 + 2 ^ 16 + 0x180 * 2 ^ 20
  | 0x144 => 0x1E98 + 2 ^ 16 + 0x38 * 2 ^ 20
  | 0x148 => 7 * 2 ^ 16 + 2 * 2 ^ 20
  | 0x14C => 7
  | 0x180 => 0x0023 + 2 ^ 16 + 0x200 * 2 ^ 20
  | 0x184 => 0x1E98 + 0x14 * 2 ^ 20
  | 0x188 => 8
  | 0x18C => 2 + 2 ^ 8
  | 0x200 => 0x0001 + 2 * 2 ^ 16 + 0x280 * 2 ^ 20
  | 0x204 => b2n (s.cxl.aer != 0) * 2 ^ 22
  | 0x280 => 0x002E + 2 ^ 16
  | 0x28C => b2n (!s.cxl.doe.isEmpty) * 2 ^ 31
  | 0x294 => leNat (s.cxl.doe.take 4)
  | _ => 0
/-- Read of an 8-byte word of configuration space. PRESUMED (log entry 114). -/
def cfgRead (s : State) (o : Nat) : Nat := cfgWord s o + cfgWord s (o + 4) * 2 ^ 32
/-- Write of it: the memory enable, the base of BAR0, an error status of AER cleared by a 1, and a word of a DOE answer taken by a write of the read mailbox
(R545, R546). PRESUMED (log entry 114). -/
def cfgWrite (s : State) (o v m : Nat) : State :=
  let w := mrg (cfgRead s o) v m
  match o with
  | 0x000 => { s with cxl := { s.cxl with bars := bitsOf w 33 33 } }
  | 0x010 => { s with cxl := { s.cxl with bar := w % 2 ^ 64 / 2 ^ 22 * 2 ^ 22 } }
  | 0x200 => if bitOf (Nat.land v m) 54 then { s with cxl := { s.cxl with aer := 0 } } else s
  | 0x290 => if m / 2 ^ 32 = 0 then s else { s with cxl := { s.cxl with doe := s.cxl.doe.drop 4 } }
  | _ => s

/-- Read of a register: a whole 8-byte word. -/
def regRead (s : State) : Reg → Nat
  | .ctl l => locRead s l
  | .coll k o => collBlkRead (coreAt s k).coll o
  | .trans l => transAt s 0 l
  | .group g o => groupRead (collGroup s g) o
  | .binding g => (List.range 8).foldl (fun a i => a + tblGet (fun _ => 0) s.bindings (g + i) * 256 ^ i) 0
  | .ctx c o => ctxRead (ctxAt s c) o
  | .att a o => attRead (attachAt s a) o
  | .errLog o => errRead s o
  | .cal o => calRead s o
  | .snap o => snapRead s.snap o
  | .box m o => boxRead (boxAt s m) o
  | .hdie o => hdieRead s o
  | .ring r o => ringRead (ringAt s r) o
  | .msix i => msixWord s i
  | .msixPba => s.cxl.msixPend
  | .cfg o => cfgRead s o
  | .comp o => compWord s o + compWord s (o + 4) * 2 ^ 32
  | .zero => 0

/-! ### Writes -/

/-- Write of a context block (R422, R423). -/
def ctxWrite (s : State) (c o v m : Nat) : State :=
  match o with
  | 0x000 => match Nat.land (Nat.land v m) 3 with
    | 1 => ctxLeaves s c true
    | 2 => ctxClose s c
    | 3 => ctxLeaves s c false
    | _ => s
  | 0x010 =>
    let x := ctxAt s c
    if x.state = 0 || x.state = 3 then
      let w := mrg (ctxRead x o) v m
      modCtx s c (fun x => { x with ownerBase := bitsOf w 47 32, ownerCount := bitsOf w 31 16, ownerShift := bitsOf w 5 0 })
    else s
  | _ => s

/-- Write of an attachment entry (R436). -/
def attWrite (s : State) (a o v m : Nat) : State :=
  let x := attachAt s a
  match o with
  | 0x000 => modAttach s a (fun y => { y with base := BitVec.ofNat 64 (mrg x.base.toNat v m), valid := false })
  | 0x008 => modAttach s a (fun y => { y with len := BitVec.ofNat 64 (mrg x.len.toNat v m), valid := false })
  | 0x010 => attachWrite s a v m
  | _ => s

/-- Write of the snapshot control block (R484). -/
def snapWrite (s : State) (o v m : Nat) : State :=
  let x := Nat.land v m
  if o = 0 then (if x % 4 = 1 then snapTake s else if x % 4 = 2 then snapRestore s else s)
  else if s.snap.state != 0 then s
  else
    let w := mrg (snapRead s.snap o) v m
    if 0x100 ≤ o && o < 0x500 then
      let r := (o - 0x100) / 16
      if o % 16 = 0 then modSnap s (fun y => { y with bases := tblSet (fun _ => 0) y.bases r w })
      else modSnap s (fun y => { y with lens := tblSet (fun _ => 0) y.lens r w })
    else match o with
      | 0x008 => modSnap s (fun y => { y with stepTag := w })
      | 0x018 => modSnap s (fun y => { y with exclude := bitsOf w 35 32, restoreGen := w % 2 ^ 32 })
      | _ => s

/-- Write of a mailbox (R513). -/
def boxWrite (s : State) (m o v msk : Nat) : State :=
  let x := boxAt s m
  if x.st = 1 then s
  else if 0x2000 ≤ o && o < 0x4000 then
    modBox s m (fun x => { x with req := memWrite x.req (o - 0x2000) (leBytes 8 (mrg (boxRead x o) v msk)) })
  else if o = 0 && bitOf (Nat.land v msk) 0 then modBox s m (fun x => { x with st := 1 })
  else s

/-- Harts leave reset in machine mode at ENTRY, a0 holding the hart's number and a1 LOAD_ADDR (R556). -/
def hartsStart (s : State) (v : Nat) : State :=
  let new := (List.range 64).filter (fun h => bitOf v h && !bitOf s.released h)
  { s with
    released := Nat.lor s.released (v % 2 ^ 64)
    harts := new.foldl (fun t h => tblSet (fun _ => {}) t h
      { pc := s.trust.entry, x := [(10, BitVec.ofNat 64 h), (11, BitVec.ofNat 64 s.trust.load)] }) s.harts }

/-- A write of HART_RELEASE: harts leave reset once a boot image runs (R539, R556). DEDUCED (log entry 111). -/
def hartRelease (s : State) (v : Nat) : State := if dget s kBootState = 2 then hartsStart s v else s

/-- Clear the timer interrupt of a hart whose MTIMECMP lies ahead of TIME. -/
def timerLevel (s : State) (h : Nat) : State :=
  { s with mtip := setBits s.mtip h h (b2n (bitOf s.mtip h && decide (mtimecmpOf s h ≤ timeNs s))) }

/-- Write of the H-die control block (R539). -/
def hdieWrite (s : State) (o v m : Nat) : State :=
  let x := Nat.land v m
  let w := mrg (hdieRead s o) v m
  if o < 0x200 then { s with msip := setBits s.msip (o / 8) (o / 8) (w % 2) }
  else if 0x800 ≤ o && o < 0xA00 then
    timerLevel { s with mtimecmp := tblSet (fun _ => 0) s.mtimecmp ((o - 0x800) / 8) (ones64 - w) } ((o - 0x800) / 8)
  else if 0x1000 ≤ o && o < 0x1800 then
    { s with apertures := tblSet (fun _ => 0) s.apertures ((o - 0x1000) / 8) (Nat.land w (2 ^ 63 + 0xFFFF)) }
  else if o = 0x1800 then hartRelease s x
  else if o = 0x1808 then releaseHdie s (BitVec.ofNat 64 x) none
  else if 0x2000 ≤ o && o < 0x2800 then
    let p := 8 * (o - 0x2000)
    { s with notify := putWord s.notify p (Nat.land (s.notify / 2 ^ p % 2 ^ 64) (Nat.xor x ones64)) }
  else s

/-- Write of a register under a bit mask; none when it is refused (R112). -/
def regWrite (s : State) (v m : Nat) : Reg → Option State
  | .ctl l => locWrite s v m l
  | .coll k o => some (modCore s k (fun c => { c with coll := collBlkWrite c.coll o v m }))
  | .trans l => let w := mrg (transAt s 0 l) v m; some (transPut (transPut s 0 l w) 1 l w)
  | .group g o => some (groupWrite s g o v m)
  | .binding g => some { s with bindings := (List.range 8).foldl (fun t i =>
      tblSet (fun _ => 0) t (g + i) (Nat.land (mrg (tblGet (fun _ => 0) s.bindings (g + i)) (bitsOf v (8 * i + 7) (8 * i)) (bitsOf m (8 * i + 7) (8 * i))) 0x8F)) s.bindings }
  | .ctx c o => some (ctxWrite s c o v m)
  | .att a o => some (attWrite s a o v m)
  | .errLog _ => some s
  | .cal _ => some s
  | .snap o => some (snapWrite s o v m)
  | .box b o => some (boxWrite s b o v m)
  | .hdie o => some (hdieWrite s o v m)
  | .ring r o => some (ringWrite s r o v m)
  | .msix i => some (msixWrite s i (mrg (msixWord s i) v m))
  | .msixPba => some s
  | .cfg o => some (cfgWrite s o v m)
  | .comp _ => some s
  | .zero => some s

/-- An access to a core's block wakes its cluster (R441). -/
def regTouch (s : State) : Reg → State
  | .ctl l => locTouch s l
  | .coll k _ => touchCore s k
  | _ => s

/-- An access of the H-die to a register crosses the links to the die that holds it (R35, R460). -/
def regTry (s : State) (who : Owner) : Reg → State × Nat
  | .ctl l => ctlTry s who l
  | .coll k _ => match ownerDie who with | some a => routeTry s (fabRoute a (k / 1344 / 4)) | none => (s, 0)
  | .trans _ => match ownerDie who with | some a => routeTry s (fabRoute a 0) | none => (s, 0)
  | _ => (s, 0)

/-! ### Paths (R313, R346–R348, R484, R514, R540, R546) -/

/-- The register that an address names along a path: the H-die reaches all of control space; the CXL function its BAR0 offsets, and by
package-local address the translation table and the snapshot block, its BAR0 while memory is enabled, its configuration space
at 2^32 and its component registers 64 KiB above it; DEs and the fabric the windows of R313; physical coordinates the windows of R347 in START, TEST and RECOVERY, by global
address, and in the H-die's unit the snapshot block that R484 names beside them. DESIGN CHOICE (log entry 112). -/
def pathReg (s : State) (a : Nat) : RegPath → Option Reg
  | .hdie => regAt s a
  | .cxl =>
    if a < 0x400000 then (if s.cxl.bars = 0 then none else some (barAt a))
    else if 2 ^ 32 ≤ a && a < 2 ^ 32 + 0x1000 then some (.cfg (a - 2 ^ 32))
    else if 2 ^ 32 + 0x10000 ≤ a && a < 2 ^ 32 + 0x20000 then some (.comp (a - 2 ^ 32 - 0x10000))
    else match regAt s a with
      | some (.trans l) => some (.trans l)
      | some (.snap o) => some (.snap o)
      | _ => none
  | .fabric => (ctlWindow s a).map (fun x => .ctl x.1)
  | .de _ => (ctlWindow s a).map (fun x => .ctl x.1)
  | .phys =>
    if a / 2 ^ 62 != 3 || !(phase s == phStart || phase s == phTest || phase s == phRecovery) then none
    else if addrFused s a then none
    else if coordOf a = unitCoord s 0 0x7F0 && a % 2 ^ 30 < 0x1000 then some (.snap (a % 2 ^ 30))
    else match globLoc s 0 a 8 with
      | some (.ctl l) => some (.ctl l)
      | _ => none

/-- Who makes an access along a path. -/
def pathOwner : RegPath → Owner
  | .hdie => .hart 0
  | .cxl => .hart 64
  | .de n => .de (1344 * (n / 1280))
  | _ => .nobody

/-- REGISTER_WRITE: a whole word is written to a register; unpopulated space and closed stores take none (R13, R40, R112). -/
def execRegisterWrite (p : RegPath) (a : Nat) (v : Word) (s : State) : Host.Outcome State Fault Refusal :=
  whenUp s (if a % 8 != 0 then s
    else match pathReg s a p with
      | none => s
      | some r =>
        let t := regTry (regTouch s r) (pathOwner p) r
        if t.2 != 0 then t.1 else (List.range 64).foldl hartPoll ((regWrite t.1 v.toNat ones64 r).getD s))

/-! ### The rows of line requests (R347, R350, R484) -/

/-- Offset in the snapshot block of a line that a request names by physical coordinate, in the H-die's unit (R347, R484). DESIGN CHOICE (log entry 112). -/
def snapLine (s : State) (f : Flit) : Option Nat :=
  match pathReg s (f.w1.toNat / 128 * 128) .phys with
  | some (.snap o) => some o
  | _ => none

/-- A line request for the snapshot block (R484): its words are read, or written whole; part of a word is refused as of any control word
(R350). DESIGN CHOICE (log entry 112). -/
def snapServe (s0 : State) (p : Nat) (f : Flit) (o : Nat) : State :=
  let fd := p / 32
  let x := routeTry (creditBack s0 p f) (fabRoute 10 fd)
  let s := x.1
  let ack := fun (s : State) (st : Nat) => answer s (.home fd f) (reply s f fkWriteAck st false [])
  if x.2 != 0 then
    (if fKind f = 1 then answer s (.home fd f) (reply s f fkReadResp 0x83 false (List.replicate 128 0)) else ack s 0x83)
  else if fKind f = 1 then
    answer s (.home fd f) (reply s f fkReadResp stOk false ((List.range 16).flatMap (fun i => leBytes 8 (snapRead s.snap (o + 8 * i)))))
  else
    let ws := idx (chunks 8 (flitMask f))
    if ws.any (fun w => w.2.any Option.isSome && !w.2.all Option.isSome) then ack s stBounds
    else
      ack (ws.foldl (fun s w => if w.2.all Option.isSome then snapWrite s (o + 8 * w.1) (leNat (w.2.map (·.getD 0))) ones64 else s) s) stOk

/-- A row of line requests: at the snapshot block, or at any other home. -/
def lineRow (kind p : Nat) (f : Flit) (s : State) : State :=
  if fKind f != kind && !malformed f then s
  else match arrive s p f with
    | (s', some g) => (match snapLine s' g with | some o => snapServe s' p g o | none => homeRequest s' p g)
    | (s', none) => s'

/-- READ (R350). -/
def execRead (port : Nat) (f : Flit) (s : State) : Host.Outcome State Fault Refusal := whenUp s (lineRow 1 port f s)
/-- WRITE (R350). -/
def execWrite (port : Nat) (f : Flit) (s : State) : Host.Outcome State Fault Refusal := whenUp s (lineRow 2 port f s)
/-- WRITE_MASK (R350). -/
def execWriteMask (port : Nat) (f : Flit) (s : State) : Host.Outcome State Fault Refusal := whenUp s (lineRow 3 port f s)

end Sys2Proof.Machine
end

