-- ==== Sys2Proof/Machine/Hdie.lean ====
section
/-! DEFINITION. The application cores' accesses, timer and release (R532–R539) and the CXL attachment (R545–R549). -/
namespace Sys2Proof.Machine
open Sys2Proof Config

/-! ### Physical addresses of the application cores (R535) -/

/-- What a physical address names. -/
inductive PaLoc where
  | fault (st : Nat) | line (key : Nat) | host (key : Nat) | store (k o : Nat) | reg (r : Reg) | mem (a : Nat) | away (a : Nat)
  deriving DecidableEq, Repr

/-- An offset of this package as the H-die reaches it. -/
def paLocal (s : State) (o n : Nat) : PaLoc :=
  if o < 2 ^ 40 then (if o + n ≤ 2 ^ 40 then .line (o / 128) else .fault stBounds)
  else match pkgLoc s o n with
    | some (.store k i) => .store k i
    | _ => match regAt s (o / 8 * 8) with
      | some r => .reg r
      | none => .fault stBounds

/-- Decode a physical address (R535). DEDUCED (log entry 110). -/
def paDecode (s : State) (pa n : Nat) : PaLoc :=
  let bad := PaLoc.fault stBounds
  if 2 ^ 56 ≤ pa then bad else
  match bitsOf pa 55 54 with
  | 0 => if bitsOf pa 53 48 != 0 then bad else paLocal s (pa % 2 ^ 48) n
  | 1 =>
    if bitsOf pa 53 50 != 0 then bad
    else if bitsOf pa 49 48 = dget s kPackagePosition % 4 then paLocal s (pa % 2 ^ 48) n
    else if inStack (pa % 2 ^ 48) n then .line (pa / 128)
    else if mapOk (pa % 2 ^ 48) n then .away (2 ^ 62 + pa % 2 ^ 50) else bad
  | 2 =>
    let e := tblGet (fun _ => 0) s.apertures (bitsOf pa 53 46)
    if !bitOf e 63 then bad
    else
      let a := 2 ^ 63 + e % 65536 * 2 ^ 46 + pa % 2 ^ 46
      match globLoc s 0 a n with
      | some (.stack o) => .mem o
      | some (.store k i) => .store k i
      | some (.ctl l) => .reg (.ctl l)
      | some (.remote b) => .away b
      | some (.refused _) => .fault 0x81
      | none => bad
  | _ => if bitsOf pa 53 52 != 0 || 2 ^ 52 < pa % 2 ^ 52 + n then bad else .host (3 * 2 ^ 47 + pa % 2 ^ 52 / 128)

/-- Access sizes. -/
def sizeOk (n : Nat) : Bool := n == 1 || n == 2 || n == 4 || n == 8

/-- Naturally aligned, as uncached accesses must be (R536). -/
def aligned (pa n : Nat) : Bool := pa % n == 0

/-- The PMP entry that matches an address first: its permissions (read 1, write 2, execute 4) and whether it is locked (R532). PRESUMED (log entry 143). -/
def pmpMatch (s : State) (h a : Nat) : Option (Nat × Bool) :=
  ((List.range 16).find? (fun i =>
    let g := fun (n : Nat) => hartCsr s h (0x3B0 + n)
    match bitsOf (cfg i) 4 3 with
    | 1 => decide ((if i = 0 then 0 else 4 * g (i - 1) / 4096 * 4096) ≤ a) && decide (a < 4 * g i / 4096 * 4096)
    | 3 =>
      let v := Nat.lor (g i) 511
      let t := ((List.range 54).find? (fun b => !bitOf v b)).getD 54
      a / 2 ^ (t + 3) == 4 * v / 2 ^ (t + 3)
    | _ => false)).map (fun i => (cfg i % 8, bitOf (cfg i) 7))
where
  cfg (i : Nat) : Nat := hartCsr s h (0x3A0 + i / 8 * 2) / 256 ^ (i % 8) % 256

/-- The mode in which a hart's loads and stores are checked: MPP while MPRV is set, else its own (R532). PRESUMED (log entry 143). -/
def effPriv (s : State) (h : Nat) (fetch : Bool) : Nat :=
  let st := hartCsr s h 0x300
  if bitOf st 17 && !fetch then bitsOf st 12 11 else (hartAt s h).priv

/-- The PMP entries let an access through: machine mode is stopped by a locked entry only (R532). PRESUMED (log entry 143). -/
def pmpOk (s : State) (h pa n need : Nat) : Bool :=
  let m := effPriv s h (need == 4)
  [pa, pa + n - 1].all (fun a =>
    match pmpMatch s h a with
    | some (p, l) => (m == 3 && !l) || Nat.land p need == need
    | none => m == 3)

/-- The line is under way from another package of the board. -/
def fillDue (s : State) (key : Nat) : Bool :=
  (s.reqs ++ s.issueQ).any (fun r => match r.who with | .hartFill _ _ k _ => k == key | _ => false)

/-- Bring a line into the H-die caches, for ownership if it is to be written (`cause` 0 a store, 7 an AMO; 1 a fetch, 5 a load): 0 when it is there, 1 while snoops or data are awaited, 2
when it came poisoned and 3 when it failed, else the status of R351 that refuses it (R359, R361, R533, R536, R537). DESIGN CHOICE (log entry 113). -/
def hFetch (s : State) (h pa key cause : Nat) : State × Nat :=
  let own := cause == 0 || cause == 7
  let l := hLine s key
  if !l.bytes.isEmpty && (!own || l.excl) then (s, 0)
  else if 3 * 2 ^ 47 ≤ key then
    if l.bytes.isEmpty then
      let r := freeBytes s 128
      (hInsert r.1 key { bytes := r.2, excl := own, hart := h }, 0)
    else (hdieMod s key (fun l => { l with excl := true }), 0)
  else if 2 ^ 33 ≤ key then
    if fillDue s key then (s, 1)
    else
      let r := issue s 0 fkRead (keyAddr key) false [] (.hartFill h pa key cause) (if own then 2 else 1)
      (r.1, if r.2 = 0 then 1 else r.2)
  else
    let la := 128 * key
    let who := Owner.hart h
    if !dirIdle s [(la, 128)] then (s, 1)
    else
      let s := agentRead s la (ownAgent s) own who
      if !dirIdle s [(la, 128)] then (s, 1)
      else if !l.bytes.isEmpty then (hdieMod s key (fun l => { l with excl := true }), 0)
      else
        let r := lineFrom s la who
        if r.2.2 != 0 then (agentEvict r.1 la (ownAgent r.1), r.2.2 + 1)
        else (hInsert r.1 key { bytes := r.2.1, excl := own, hart := h }, 0)

/-- The stacks that the cached lines of an access lie on serve accesses. -/
def hFree (s : State) (key : Nat) : Bool := decide (2 ^ 33 ≤ key) || stackFree s (stackOf s (128 * key))

/-- Lines of a cached access: one, or two when it crosses a line. -/
def hLines (key pa n : Nat) : List Nat := if pa % 128 + n ≤ 128 then [key] else [key, key + 1]

/-- Bring every line of an access in; the worst outcome. -/
def hFetchAll (s : State) (h pa : Nat) (ks : List Nat) (cause : Nat) : State × Nat :=
  ks.foldl (fun (x : State × Nat) k => if x.2 != 0 then x else hFetch x.1 h pa k cause) (s, 0)

/-- The hart's own caches take copies of the lines that an access has read. -/
def hNear (s : State) (h cause : Nat) (ks : List Nat) : State :=
  ks.foldl (fun s k => nearAdd (nearAdd s h 2 k) h (if cause = 1 then 0 else 1) k) s

/-- The 64-bit words of line `i` of an access that it touches. -/
def accWords (i pa n : Nat) : List Nat :=
  (List.range 16).filter (fun w => decide (128 * i + 8 * w < pa % 128 + n) && decide (pa % 128 < 128 * i + 8 * w + 8))

/-- The words that a hart's access reads, from its L1 or L2 where they hold a copy, are checked (R460, R533, R534): an error that can be
corrected is, one that cannot makes the access receive poisoned data, and each word's is counted and makes the proof pass of its way due
(R462). -/
def hBad (s : State) (h cause : Nat) (ks : List Nat) (pa n : Nat) : State × Bool :=
  (idx ks).foldl (fun (x : State × Bool) p =>
    let l := hLine x.1 p.2
    let ws := accWords p.1 pa n
    match nearCopy l h (if cause = 1 then 0 else 1) with
    | none => (lineWords x.1 p.2 ws, x.2 || ws.any (bitOf l.bad))
    | some c =>
      (hdieMod (wordErrors x.1 (wayUnit p.2 c.way) ws c.cor c.bad) p.2
        (fun l => { l with near := l.near.map (fun d => if d == c then { d with cor := dropBits d.cor ws } else d) }),
       x.2 || ws.any (bitOf c.bad))) (s, false)

/-- The bytes of an access from the cached lines. -/
def hBytes (s : State) (ks : List Nat) (pa n : Nat) : List Byte := ((ks.flatMap (fun k => (hLine s k).bytes)).drop (pa % 128)).take n

/-- Reservations of other harts on a line end when it is written. DEDUCED (log entry 69). -/
def breakRes (s : State) (h : Nat) (ks : List Nat) : State :=
  { s with hres := s.hres.filter (fun r => r.1 == h || !ks.any (fun k => r.2 == k + 1)) }

/-- Write bytes to cached lines: no other copy stays, a word that is written in part is read and checked first, and one that is written whole
has good ECC (R533, R534). DEDUCED (log entry 69). -/
def hPut (s : State) (h : Nat) (ks : List Nat) (pa : Nat) (bs : List Byte) : State :=
  let s := breakRes s h ks
  hNear ((ks.zip (List.range 2)).foldl (fun s p =>
    let s := lineWords s p.1 ((accWords p.2 pa bs.length).filter (fun w => !(whole p.2).contains w))
    hdieMod s p.1 (fun l => { l with
      bytes := mergeBytes l.bytes (lineSlice (pa % 128) bs (128 * p.2)), dirty := true, hart := h, near := [],
      bad := dropBits l.bad (whole p.2), cor := dropBits l.cor (whole p.2) })) s) h 0 ks
where
  whole (i : Nat) : List Nat := (List.range 16).filter (fun w =>
    decide (pa % 128 ≤ 128 * i + 8 * w) && decide (128 * i + 8 * w + 8 ≤ pa % 128 + bs.length))

/-- Status of a line's outcome: POISON of R16, LINE_FAILED of R351, or the status that refused it. DEDUCED (log entry 110). -/
def lineStatus (o : Nat) : Nat := if o = 2 then stPoison else if o = 3 then 0x83 else o

/-- HART_LOAD: a load or an instruction fetch of an application core, by the space of its address (R535–R537). DESIGN CHOICE (log entry 19). -/
def execHartLoad (h : Nat) (pa : Nat) (f : LoadForm) (s : State) : Host.Outcome State Fault Refusal :=
  whenUp s (
    let size := f.size
    let c := if f.fetch then 1 else 5
    if !hartUp s h then s
    else if !sizeOk size || !pmpOk s h pa size (if f.fetch then 4 else 1) then hartDone s h pa 0 stBounds c
    else
      let cached := fun key =>
        let ks := hLines key pa size
        if !ks.all (hFree s) then s
        else
          let r := hFetchAll s h pa ks c
          if r.2 = 1 then r.1
          else if r.2 != 0 then hartDone r.1 h pa 0 (lineStatus r.2) c
          else
            let b := hBad r.1 h c ks pa size
            if b.2 then hartDone b.1 h pa 0 stPoison c else hartDone (hNear b.1 h c ks) h pa (leNat (hBytes b.1 ks pa size)) 0
      match paDecode s pa size with
      | .line key => cached key
      | .host key => cached key
      | .fault st => hartDone s h pa 0 st c
      | loc =>
        if !aligned pa size then hartDone s h pa 0 stBounds c
        else match loc with
          | .store k o =>
            let p := dieTry (touchCore s k) (.hart h) (k / 1344)
            hartDone p.1 h pa (leNat (storeRead (coreAt s k) o size)) (if p.2 = 0 then 0 else 0x83) c
          | .reg r =>
            let p := regTry (regTouch s r) (.hart h) r
            hartDone p.1 h pa (regRead p.1 r / 256 ^ (pa % 8) % 256 ^ size) (if p.2 = 0 then 0 else 0x83) c
          | .mem a =>
            let m := memReady s [(a, size)] [] (.hart h)
            if !m.2 then m.1
            else
              let r := memRange m.1 a size (.hart h)
              if r.2.2 = 0 then hartDone r.1 h pa (leNat r.2.1) 0 else hartDone r.1 h pa 0 (lineStatus (r.2.2 + 1)) c
          | .away a =>
            let r := issue s 0 fkRead (a / 128 * 128) false [] (.hartLoad h pa size c)
            if r.2 = 0 then r.1 else hartDone r.1 h pa 0 r.2 c
          | _ => s)

/-- HART_STORE: a store of an application core (R535–R537). DESIGN CHOICE (log entry 19). -/
def execHartStore (h : Nat) (pa : Nat) (size : Nat) (v : Word) (s : State) : Host.Outcome State Fault Refusal :=
  whenUp s (
    if !hartUp s h then s
    else if !sizeOk size || !pmpOk s h pa size 2 then hartDone s h pa 0 stBounds 7
    else
      let bs := leBytes size v.toNat
      let cached := fun key =>
        let ks := hLines key pa size
        if !ks.all (hFree s) then s
        else
          let r := hFetchAll s h pa ks 0
          if r.2 = 1 then r.1
          else if r.2 != 0 then hartAsync r.1 h pa (lineStatus r.2)
          else hPut r.1 h ks pa bs
      match paDecode s pa size with
      | .line key => cached key
      | .host key => cached key
      | .fault st => hartDone s h pa 0 st 7
      | loc =>
        if !aligned pa size then hartDone s h pa 0 stBounds 7
        else match loc with
          | .store k o =>
            let w := writeLocal (touchCore s k) (.hart h) (.store k o) 0 (bs.map (fun b => some (b, false))) false
            if w.failed.isEmpty then w.s else hartAsync w.s h pa 0x83
          | .reg r =>
            let p := regTry (regTouch s r) (.hart h) r
            if p.2 != 0 then hartAsync p.1 h pa 0x83
            else match regWrite p.1 (v.toNat * 256 ^ (pa % 8) % 2 ^ 64) ((256 ^ size - 1) * 256 ^ (pa % 8)) r with
            | some t => (List.range 64).foldl hartPoll t
            | none => hartAsync s h pa stBounds
          | .mem a =>
            let m := memReady s [] [(a, size)] (.hart h)
            if !m.2 then m.1
            else
              let w := writeLine m.1 (a / 128 * 128) (lineSlice a bs (a / 128 * 128)) false (.hart h) pa pa
              if w.2 then hartAsync w.1 h pa 0x83 else w.1
          | .away a =>
            let la := a / 128 * 128
            let m := lineSlice a bs la
            let r := issue s 0 fkWriteMask la false (m.map (·.getD 0) ++ maskBytes m) (.hartStore h pa)
            if r.2 = 0 then r.1 else hartAsync r.1 h pa r.2
          | _ => s)

/-- The value an AMO stores (the ratified A extension). -/
def amoNew (op : HartAmo) (old v : Word) : Word :=
  match op with
  | .add => old + v
  | .swap => v
  | .cas e => if old = e then v else old
  | .min => if old.slt v then old else v
  | .max => if old.slt v then v else old
  | .minu => if old.ult v then old else v
  | .maxu => if old.ult v then v else old
  | .and => old &&& v
  | .or => old ||| v
  | .xor => old ^^^ v
  | .lr => old
  | .sc => v

/-- The remote atomic an AMO becomes (R536): its AOP. -/
def amoRemote : HartAmo → Option Nat
  | .add => some 0
  | .min => some 2
  | .max => some 3
  | .swap => some 4
  | _ => none

/-- A word of `n` bytes, sign-extended as the A extension has it. -/
def amoWord (n v : Nat) : Word := if n = 4 then (BitVec.ofNat 32 v).signExtend 64 else BitVec.ofNat 64 v

/-- The access fault of an AMO: a store or AMO one, but a load one for LR (R536, R537). -/
def amoCause (op : HartAmo) : Nat := if op = .lr then 5 else 7

/-- An AMO of 4 or 8 bytes on a cached line. DEDUCED (log entry 69, 110). -/
def amoCached (s : State) (h pa key : Nat) (op : HartAmo) (n : Nat) (v : Word) : State :=
  if !hFree s key then s
  else
    let r := hFetchAll s h pa [key] 7
    if r.2 = 1 then r.1
    else if r.2 != 0 then hartDone r.1 h pa 0 (lineStatus r.2) (amoCause op)
    else
      let b := hBad r.1 h 7 [key] pa n
      if b.2 then hartDone b.1 h pa 0 stPoison (amoCause op)
      else
        let s := b.1
        let old := amoWord n (leNat (hBytes s [key] pa n))
        let put := fun s => hPut s h [key] pa (leBytes n (amoNew op old (amoWord n v.toNat)).toNat)
        match op with
        | .lr => hartDone { s with hres := tblSet (fun _ => 0) s.hres h (key + 1) } h pa old.toNat 0
        | .sc =>
          let ok := tblGet (fun _ => 0) s.hres h == key + 1
          let s := { s with hres := tblSet (fun _ => 0) s.hres h 0 }
          if ok then hartDone (put s) h pa 0 0 else hartDone s h pa 1 0
        | _ => hartDone (put s) h pa old.toNat 0

/-- An AMO on stack memory in the board-coherent space goes to its home, this package's own included; an LR or SC there is a cached access
(R535, R536). -/
def awayLine (op : HartAmo) (l : PaLoc) (pa : Nat) : PaLoc :=
  match l with
  | .line key => if op = .lr || op = .sc then l else if 2 ^ 33 ≤ key then .away (2 ^ 62 + pa % 2 ^ 50) else if bitsOf pa 55 54 = 1 then .mem (pa % 2 ^ 48) else l
  | _ => l

/-- HART_AMO: on cached memory in the caches; in the fabric and board-coherent spaces a remote atomic, or an access fault (R536). A
compare-and-swap is no instruction of these harts and faults. DESIGN CHOICE (log entry 19). -/
def execHartAmo (h : Nat) (f : AmoForm) (pa : Nat) (v : Word) (s : State) : Host.Outcome State Fault Refusal :=
  whenUp s (
    let op := f.op
    let size := f.size
    let fault := fun (s : State) (st : Nat) => hartDone s h pa 0 st (amoCause op)
    if !hartUp s h then s
    else if !(size == 4 || size == 8) || !aligned pa size || (match op with | .cas _ => true | _ => false) ||
        !pmpOk s h pa size (if op = .lr then 1 else 3) then fault s stBounds
    else match awayLine op (paDecode s pa size) pa, if size = 8 then amoRemote op else none with
      | .line key, _ => amoCached s h pa key op size v
      | .host key, _ => amoCached s h pa key op size v
      | .mem a, some o => atomicPut s ⟨stackOf s a, a, o, v.toNat, 0, .hart h, none, pa⟩
      | .away a, some o =>
        if 2 ^ 40 ≤ offOf a then fault s stBounds
        else
          let r := issue s 0 (4 + o) a false (leBytes 8 v.toNat ++ leBytes 8 0) (.hartAmo h pa)
          if r.2 = 0 then r.1 else fault r.1 r.2
      | .fault st, _ => fault s st
      | _, _ => fault s stBounds)

/-- An earlier uncached access of a hart has not ended. -/
def hartOutstanding (s : State) (h : Nat) : Bool :=
  let mine := fun (w : ReqOwner) => match w with | .hartLoad i _ _ _ => i == h | .hartStore i _ => i == h | .hartAmo i _ => i == h | _ => false
  s.reqs.any (fun r => mine r.who) || s.issueQ.any (fun r => mine r.who) || s.held.any (fun x => x.who == .hart h && !x.back) ||
  s.atomics.any (fun a => a.who == .hart h)

/-- HART_FENCE: with O or W in its predecessor set the fence completes once every earlier uncached access of the hart has ended;
its completion is the hart's next answer (R538). DESIGN CHOICE (log entry 19). DEDUCED (log entry 111). -/
def execHartFence (h : Nat) (pred : BitVec 4) (s : State) : Host.Outcome State Fault Refusal :=
  whenUp s (
    if !hartUp s h || ((pred.getLsbD 2 || pred.getLsbD 0) && hartOutstanding s h) then s
    else { s with hresp := tblSet (fun _ => (0, false)) s.hresp h (0, false) })

/-- HART_ASYNC_ERROR: HDIE_ERROR is recorded and local interrupt 17 raised (R537). -/
def execHartAsyncError (h : Nat) (pa : Nat) (status : Nat) (s : State) : Host.Outcome State Fault Refusal :=
  whenUp s (if h < 64 then hartAsync s h pa status else s)

/-- MACHINE_TIMER_INTERRUPT: it is pending while TIME ≥ MTIMECMP, and the hart takes it where its enables let it (R539). PRESUMED (log entry 143). -/
def execMachineTimerInterrupt (h : Nat) (at_ : Nat) (s : State) : Host.Outcome State Fault Refusal :=
  whenUp s (
    let s := atTime s at_
    if h < 64 && mtimecmpOf s h ≤ timeNs s then
      hartPoll { s with mtip := setBits s.mtip h h 1 } h
    else s)

/-- HART_RELEASE: a write of the register (R539, R556). -/
def execHartRelease (v : Word) (s : State) : Host.Outcome State Fault Refusal := whenUp s (hartRelease s v.toNat)

/-! ### The CXL attachment (R547–R549) -/

/-- A decoder's fields keep R547: alignment, ways and granularity, and a DPA range within stack memory that does not overlap the other
committed decoder. -/
def hdmOk (s : State) (k : Nat) (d : HdmDecoder) : Bool :=
  let o := hdmAt s (1 - k)
  d.base % 2 ^ 28 == 0 && d.size % 2 ^ 28 == 0 && decide (0 < d.size) && [1, 2, 4, 8].contains d.ways &&
  [256, 512, 1024, 2048, 4096, 8192, 16384].contains d.gran && inStack d.dpa (d.size / d.ways) &&
  !(o.committed && shareByte d.dpa (d.size / d.ways) o.dpa (o.size / o.ways))

/-- HDM_DECODER_COMMIT: the decoder commits, with lock on commit, or reports Error Not Committed (R547). -/
def execHdmDecoderCommit (k : Nat) (d : HdmDecoder) (s : State) : Host.Outcome State Fault Refusal :=
  whenUp s (
    if 2 ≤ k || (hdmAt s k).committed then s
    else
      let ok := hdmOk s k d
      { s with cxl := { s.cxl with hdm := tblSet (fun _ => {}) s.cxl.hdm k ⟨d.base, d.size, d.ways, d.gran, d.dpa, ok, !ok⟩ } })

/-- The device physical address of a host address: each granule of a way set goes to one way (R547). PRESUMED (log entry 114). -/
def hdmDecode (s : State) (hpa : Nat) : Option Nat :=
  ([0, 1].find? (fun k => (hdmAt s k).committed && decide ((hdmAt s k).base ≤ hpa) && decide (hpa < (hdmAt s k).base + (hdmAt s k).size))).map
    (fun k =>
      let d := hdmAt s k
      let o := hpa - d.base
      d.dpa + o / (d.gran * d.ways) * d.gran + o % d.gran)

/-- The CXL host as a waiter. -/
abbrev hostOwner : Owner := .hart 64

/-- CXL_MEM_ACCESS: a 64-byte host access, as agent 2q + 1 of the directory (R547). -/
def execCxlMemAccess (hpa : Nat) (acc : CxlAccess) (s : State) : Host.Outcome State Fault Refusal :=
  whenUp s (match hdmDecode s hpa with
    | none => s
    | some a =>
      let la := a / 128 * 128
      let o := a % 128 / 64 * 64
      let ag := ownAgent s + 1
      if !stackFree s (stackOf s la) || !dirIdle s [(la, 128)] then s
      else
        let give := fun (s : State) (bs : List Byte) (p : Bool) => ({ s with cxl := { s.cxl with resp := bs, respPoison := p } } : State)
        match acc with
        | .read =>
          let s := agentRead s la ag false hostOwner
          if !dirIdle s [(la, 128)] then s
          else
            let r := lineFrom s la hostOwner
            give r.1 ((r.2.1.drop o).take 64) (r.2.2 != 0)
        | .readOwn =>
          let s := agentRead s la ag true hostOwner
          if !dirIdle s [(la, 128)] then s
          else
            let r := lineFrom s la hostOwner
            give r.1 ((r.2.1.drop o).take 64) (r.2.2 != 0)
        | .write d en p =>
          let s := agentRead s la ag true hostOwner
          if !dirIdle s [(la, 128)] then s
          else
            let bs := (List.range 128).map (fun i => if o ≤ i && i < o + 64 && en.getD (i - o) false then some (d.getD (i - o) 0) else none)
            let w := writeLine (dirSet s la [] false) la bs p hostOwner
            if w.2 then { w.1 with cxl := { w.1.cxl with aer := w.1.cxl.aer + 1 } } else w.1)

/-- CXL_CACHE_HOST_SNOOP: a host snoop of a host-memory line that the H-die caches (R548): a modified line is given up. -/
def execCxlCacheHostSnoop (line : Nat) (inv : Bool) (s : State) : Host.Outcome State Fault Refusal :=
  whenUp s (
    let k := 3 * 2 ^ 47 + line
    let l := hLine s k
    if l.bytes.isEmpty then s
    else
      let s := if l.dirty then lineWords s k (List.range 16) else s
      let s := { s with cxl := { s.cxl with resp := if l.dirty then l.bytes else [], respPoison := l.dirty && l.bad != 0 } }
      if inv then hdieDrop s k else hdieMod s k (fun l => { l with dirty := false, excl := false }))

/-- IDENTITY_KEY_DIGEST: that of the identity keys (R550). -/
def identityDigest (s : State) : List Byte := sha384 (leBytes 436 (dget s kIdentityPublicKeys))

/-- A signature block (R551): key-set code, digest of the signer's keys, and the two signatures of a message. DESIGN CHOICE (log entry 118). -/
def sealBlock (code : Nat) (digest : List Byte) (keys msg salt : Nat) : List Byte :=
  [0x53, 0x47, 1, BitVec.ofNat 8 code, 0, 0, 0, 0] ++ digest ++ List.replicate 8 0 ++ (List.range 16608).map (signByte keys msg salt)

/-- IDENTITY_ENDORSEMENT: Polbex's signature block over the serial and the digest of the identity keys (R550). DESIGN CHOICE (log entry 118). -/
def endorsement (s : State) : List Byte :=
  let d := leBytes 48 (dget s kPolbexKeyDigest)
  sealBlock 2 d (leNat d) (leNat (leBytes 8 (dget s kSerial) ++ identityDigest s)) 0

/-- DOE_SPDM_REQUEST: the answer's bytes are those of SPDM 1.2, which the spec only names, so they are free, and that of a key exchange ends in
an RSASSA-PSS signature of the identity key over them; a key exchange that the host finds authenticated opens a session, and inside one the key-management messages program or stop the key of a stream (R549). PRESUMED (log entry 114). -/
def execDoeSpdmRequest (m : DoeRequest) (s : State) : Host.Outcome State Fault Refusal :=
  whenUp s (
    let r := freeBytes s 64
    let sig := match m with
      | .keyExchange _ => (List.range 384).map (signByte (dget s kIdentityPublicKeys) (leNat r.2) s.freeCount)
      | _ => []
    let s := { r.1 with cxl := { r.1.cxl with doe := r.2 ++ sig } }
    let key := fun (mem : Bool) (k : Option Nat) =>
      if !s.cxl.session then s
      else if mem then { s with cxl := { s.cxl with ideMem := k } } else { s with cxl := { s.cxl with ideIo := k } }
    match m with
    | .keyExchange ok => { s with cxl := { s.cxl with session := ok } }
    | .endSession => { s with cxl := { s.cxl with session := false } }
    | .ideKey mem k => key mem (some (k % 2 ^ 256))
    | .ideStop mem => key mem none
    | _ => s)

end Sys2Proof.Machine
end

