-- ==== Sys2Proof/Machine/Trust.lean ====
section
/-! DEFINITION. Keys, the verifier-and-signer unit, boot images, table sets, attestation and signed colophons (R550–R562). -/
namespace Sys2Proof.Machine
open Sys2Proof Config

/-- Bytes of a digest entry. -/
def digestBytes (s : State) (k : Nat) : List Byte := leBytes 48 (dget s k)

/-- Change the trust unit. -/
def modTrust (s : State) (f : Trust → Trust) : State := { s with trust := f s.trust }

/-- The fields of a signature block (R551, R552): its key-set code and the digest of the keys required. -/
def blockOk (code : Nat) (digest bs : List Byte) : Bool :=
  bs.take 8 == [0x53, 0x47, 1, BitVec.ofNat 8 code, 0, 0, 0, 0] && (bs.drop 8).take 48 == digest && leNat ((bs.drop 56).take 8) == 0

/-- b to the power e modulo m, for exponents of 32 bits. -/
def powMod (b e m : Nat) : Nat :=
  (List.range 32).reverse.foldl (fun a i => let q := a * a % m; if bitOf e i then q * b % m else q) (1 % m)

/-- EMSA-PSS of a 3,072-bit key: the encoded message `em` fits the digest of the message (R551). -/
def pssOk (mhash em : List Byte) : Bool :=
  let h := (em.drop 335).take 48
  let db := ((em.take 335).zip (mgf1 sha384 48 h 335)).map (fun p => p.1 ^^^ p.2)
  let db := match db with | x :: t => (x &&& 0x7F#8) :: t | [] => []
  em.getD 383 0 == 0xBC#8 && em.getD 0 0 &&& 0x80#8 == 0 && db.take 287 == List.replicate 286 0 ++ [1] &&
    sha384 (List.replicate 8 0 ++ mhash ++ db.drop 287) == h

/-- The RSASSA-PSS signature of a message verifies under the RSA key of a key set (R550, R551). -/
def rsaVerify (keys msg sig : List Byte) : Bool :=
  let n := beNat (keys.take 384)
  let v := beNat sig
  decide (v < n) && pssOk (sha384 msg) (leBytes 384 (powMod v (beNat ((keys.drop 384).take 4)) n)).reverse

/-- An item verifies: its block's fields are right, and both signatures of the message verify under the 436 key bytes (R552). -/
def itemOk (code : Nat) (keys msg block : List Byte) : Bool :=
  blockOk code (sha384 keys) block && rsaVerify keys msg ((block.drop 64).take 384) && slhVerify (keys.drop 388) msg ((block.drop 448).take 16224)

/-- A signature block of the identity keys over a message, with a salt of its own (R551). DESIGN CHOICE (log entry 118). -/
def signBlock (s : State) (msg : List Byte) : State × List Byte :=
  ({ s with freeCount := s.freeCount + 1 },
   sealBlock 3 (identityDigest s) (dget s kIdentityPublicKeys) (leNat msg) s.freeCount)

/-- Set a status of R553. -/
def setStatus (s : State) (k code : Nat) : State := dset s k code

/-! ### Boot images (R555, R556) -/

/-- Read bytes of stack memory raw, with the worst outcome of their lines. -/
def trustRead (s : State) (a n : Nat) : State × List Byte × Nat := memRange s a n .nobody

/-- LENGTH of a boot header. -/
def bootLen (h : List Byte) : Nat := leNat ((h.drop 24).take 8)
/-- LOAD_ADDR. -/
def bootLoad (h : List Byte) : Nat := leNat ((h.drop 8).take 8)
/-- Bytes of an image. -/
def bootTotal (h : List Byte) : Nat := 64 + bootLen h + 16672

/-- An image of this header can be read whole. -/
def bootSized (a : Nat) (h : List Byte) : Bool := bootLen h ≤ 268435456 && inStack a (bootTotal h)

/-- Its payload can be copied: the load range lies in stack memory apart from the image. -/
def bootCopies (a : Nat) (h : List Byte) : Bool :=
  bootSized a h && bootLoad h % 4096 == 0 && inStack (bootLoad h) (bootLen h) && !shareByte a (bootTotal h) (bootLoad h) (bootLen h)

/-- Outcome of the checks before the signatures (R556): 0 none failed; FORMAT for a header that is not as R555 states. -/
def bootCheck (s : State) (a : Nat) (h : List Byte) : Nat :=
  let entry := leNat ((h.drop 16).take 8)
  if h.take 4 != [0x42, 0x49, 1, 0] || leNat ((h.drop 40).take 24) != 0 || bootLen h = 0 || !bootCopies a h ||
     entry < bootLoad h || bootLoad h + bootLen h ≤ entry then 4
  else if leNat ((h.drop 32).take 8) != 0 && leNat ((h.drop 32).take 8) != dget s kSerial then 5
  else if leNat ((h.drop 4).take 4) < dget s kBootMinVersion then 6
  else 0

/-- The verifier reads the image and copies its payload as it reads it (R556); answers the first code that applies, 0 for none: POISON of
any part that it can read comes before FORMAT. DEDUCED (log entry 117). -/
def bootRead (s : State) (a : Nat) : State × Nat :=
  if dget s kOwnerState = 0 then (s, 3)
  else if !inStack a 64 then (s, 4)
  else
    let r := trustRead s a 64
    let h := r.2.1
    if r.2.2 != 0 then (r.1, 8)
    else if !bootSized a h then (r.1, 4)
    else
      let len := bootLen h
      let p := trustRead r.1 (a + 64) len
      let b := trustRead p.1 (a + 64 + len) 16672
      let w := if bootCopies a h then (memStore b.1 (bootLoad h) p.2.1 (p.2.2 != 0) .nobody).1 else b.1
      let c := bootCheck s a h
      (modTrust w (fun t => { t with
          bootHdr := h, bootDigest := leNat (sha384 (h ++ p.2.1)),
          bootLo := if bootCopies a h then bootLoad h else 0, bootHi := if bootCopies a h then bootLoad h + len else 0 }),
       if p.2.2 != 0 || b.2.2 != 0 then 8 else if c != 0 then c
       else if !itemOk 1 (leBytes 436 (dget s kOwnerKeys)) (h ++ p.2.1) b.2.1 then 7 else 0)

/-- The lines of an image that the verifier reads, and those of its load range, can be accessed, and no write of the load range would be
held (R283, R293, R302, R360). DEDUCED (log entry 117). -/
def bootReady (s : State) (a : Nat) : State × Bool :=
  if dget s kOwnerState = 0 || !inStack a 64 then (s, true)
  else
    let m := memReady s [(a, 64)] [] .nobody
    if !m.2 then m
    else
      let h := (memPeek m.1 a 64)
      if !bootSized a h then m
      else
        let ws := if bootCopies a h then [(bootLoad h, bootLen h)] else []
        let r := memReady m.1 [(a + 64, bootLen h + 16672)] ws .nobody
        let shut := (r.1.snap.state == 1 || !r.1.held.isEmpty) && ws.any (fun w => (linesOf w.1 w.2).any (fun la => (writeWaits r.1 la).isSome))
        (r.1, r.2 && !shut)

/-- The verifier reads the image once its lines can be accessed. DEDUCED (log entry 117). -/
def bootTry (s : State) : State :=
  let m := bootReady s (dget s kBootImageAddr)
  if !m.2 then m.1
  else
    let r := bootRead m.1 (dget s kBootImageAddr)
    modTrust r.1 (fun t => { t with bootPre := r.2, bootRead := true })

/-! ### The verifier-and-signer (R552, R560–R562) -/

/-- The body of an attestation report (R560). -/
def reportBody (s : State) (nonce : Nat) : List Byte :=
  [0x41, 0x52, 1, BitVec.ofNat 8 s.grade, BitVec.ofNat 8 (dget s kStepping), BitVec.ofNat 8 (phase s), BitVec.ofNat 8 (dget s kOwnerState),
   BitVec.ofNat 8 (dget s kBootState)] ++ leBytes 8 (dget s kSerial) ++ leBytes 8 (timeNs s) ++ leBytes 8 (dget s kBundleSeq) ++
  leBytes 4 (dget s kTableSetRevision) ++ leBytes 4 s.trust.imageVersion ++ fingerprint s ++ leBytes 16 (dget s kSetupActiveDigest) ++
  leBytes 32 nonce ++ identityDigest s ++ digestBytes s kOwnerKeyDigest ++ digestBytes s kBootDigest ++
  digestBytes s kTableSetDigest ++ [BitVec.ofNat 8 (dget s kDeterminismScope), BitVec.ofNat 8 (dget s kTimeState), 0, 0, 0, 0, 0, 0]

/-- The 272 signed bytes of an attachment entry (R437), and whether it may be signed. -/
def colophonBody (s : State) (a : Nat) : List Byte × Bool :=
  let x := attachAt s a
  (x.record ++ leBytes 8 x.base.toNat ++ leBytes 8 x.len.toNat,
   x.valid && leNat (x.record.drop 248) == crc64 (x.record.take 248))

/-- The head of the queue begins: a signing request takes its values now (R560, R561), and a boot image is read (R552, R556). -/
def trustBegin (s : State) : State :=
  match s.trust.queue with
  | .boot :: _ => if dget s kBootState = 1 then bootTry s else s
  | .attest n :: _ => modTrust s (fun t => { t with body := reportBody s n, bad := false })
  | .sign a :: _ => modTrust s (fun t => { t with body := (colophonBody s a).1, bad := !(colophonBody s a).2 })
  | _ => s

/-- Queue a request; it begins at once on an idle unit. -/
def trustPush (s : State) (r : SigReq) : State :=
  let idle := s.trust.queue.isEmpty
  let s := modTrust s (fun t => { t with queue := t.queue ++ [r] })
  if idle then trustBegin s else s

/-- The request at the head ends, and the next begins. -/
def trustPop (s : State) : State := trustBegin (modTrust s (fun t => { t with queue := t.queue.tail }))

/-- One request is in progress and eight may wait (R562). DEDUCED (log entry 116). -/
def trustFull (s : State) : Bool := 9 ≤ s.trust.queue.length

/-! ### BOOT_START (R556) -/

/-- A write of BOOT_START (R556). DEDUCED (log entry 117). -/
def bootStart (s : State) : State :=
  if dget s kBootState = 1 || dget s kBootState = 2 then setStatus s kBootStatus 9
  else trustPush (modTrust (setStatus (dset s kBootState 1) kBootStatus 2)
    (fun t => { t with bootPre := 0, bootRead := false, bootLo := 0, bootHi := 0 })) .boot

/-- BOOT_START: the image is queued for verification and its load range is held (R556). -/
def execBootStart (v : Nat) (s : State) : Host.Outcome State Fault Refusal := 
  whenUp s (dictWrite kBootStart v (fun s =>
    if v = 1 && (!trustFull s || dget s kBootState == 1 || dget s kBootState == 2) then bootStart s else s) s)

/-- An item has been verified. -/
def verified (s : State) (code : Nat) : State := dcount (dcount s kVerifications 1) kVerifyFailures (b2n (code == 7))

/-- BOOT_VERIFY_DONE: both signatures have been checked; the image is accepted and hart 0 starts, or it is refused (R552, R556). While the
image could not be read yet, the verifier tries again (R283, R293, R360). The row's two results are those that the verifier itself finds. DEDUCED (log entry 117). DESIGN CHOICE (log entry 118). -/
def execBootVerifyDone (_rsaOk : Bool) (_slhOk : Bool) (s : State) : Host.Outcome State Fault Refusal :=
  whenUp s (match s.trust.queue with
    | .boot :: _ =>
      if dget s kBootState != 1 then trustPop s
      else
        let s := if s.trust.bootRead then s else bootTry s
        if !s.trust.bootRead then s
        else
          let t := s.trust
          let code := if t.bootPre != 0 then t.bootPre else 1
          let s := setStatus (verified s code) kBootStatus code
          if code != 1 then trustPop (dset s kBootState 3)
          else
            let s := dset (dset s kBootDigest t.bootDigest) kBootState 2
            trustPop (hartsStart (modTrust s (fun x => { x with
              entry := leNat ((t.bootHdr.drop 16).take 8), load := t.bootLo, imageVersion := leNat ((t.bootHdr.drop 4).take 4) })) 1)
    | _ => s)

/-! ### HDIE_RESET (R557) -/

/-- An accepted write of HDIE_RESET. -/
def hdieReset (s : State) : State :=
  let s := s.hcache.foldl (fun s x => hEvict s x.1) { s with released := 0, hres := [], harts := [], hresp := [] }
  modTrust (dset (dset { s with apertures := [] } kBootDigest 0) kBootState 0) (fun t => { t with imageVersion := 0 })

/-- HDIE_RESET: accepted in IDLE only (R557). -/
def execHdieReset (v : Nat) (s : State) : Host.Outcome State Fault Refusal := 
  whenUp s (dictWrite kHdieReset v (fun s => if v = 1 && phase s == phIdle then hdieReset s else s) s)

/-! ### Table sets (R558, R559) -/

/-- An accepted write of TABLE_SET_LOAD. -/
def tableLoad (s : State) : State := trustPush (setStatus s kTableSetStatus 2) .table

/-- TABLE_SET_LOAD: accepted in IDLE only (R559). -/
def execTableSetLoad (v : Nat) (s : State) : Host.Outcome State Fault Refusal :=
  whenUp s (dictWrite kTableSetLoad v (fun s => if v = 1 && phase s == phIdle && !trustFull s then tableLoad s else s) s)

/-- Read and check a table set: the outcome, and its revision, payload and digest (R558, R559); POISON of any part that can be read comes
before FORMAT. DEDUCED (log entry 117). -/
def tableCheck (s : State) (a : Nat) : State × Nat × Nat × List Byte × Nat :=
  if !inStack a 64 then (s, 4, 0, [], 0)
  else
    let r := trustRead s a 64
    let h := r.2.1
    let len := leNat ((h.drop 8).take 4)
    if r.2.2 != 0 then (r.1, 8, 0, [], 0)
    else if 4194304 < len || !inStack a (64 + len + 436 + 16672) then (r.1, 4, 0, [], 0)
    else
      let p := trustRead r.1 (a + 64) (len + 436 + 16672)
      let keys := (p.2.1.drop len).take 436
      let ok := sha384 keys == digestBytes s kPolbexKeyDigest && itemOk 2 keys (h ++ p.2.1.take (len + 436)) (p.2.1.drop (len + 436))
      let code := if p.2.2 != 0 then 8
        else if h.take 3 != [0x54, 0x53, 1] || leNat ((h.drop 4).take 4) == 0 || leNat (h.drop 12) != 0 then 4
        else if (h.getD 3 0).toNat != dget s kNumericSteppingClass then 5
        else if !ok then 7 else 1
      (p.1, code, leNat ((h.drop 4).take 4), p.2.1.take len, leNat (sha384 (h ++ p.2.1.take len)))

/-- The lines of a table set can be accessed (R283, R293, R360). DEDUCED (log entry 117). -/
def tableReady (s : State) (a : Nat) : State × Bool :=
  if !inStack a 64 then (s, true)
  else
    let m := memReady s [(a, 64)] [] .nobody
    let n := 436 + 16672 + min 4194304 (leNat (((memPeek m.1 a 64).drop 8).take 4))
    if !m.2 || !inStack (a + 64) n then m else memReady m.1 [(a + 64, n)] [] .nobody

/-- TABLE_SET_VERIFY_DONE: an accepted set replaces the tables and TABLE_SET_REVISION; results stay those of R227, which are exact
(R558, R559). The row's two results are those that the verifier itself finds. DEDUCED (log entry 117). DESIGN CHOICE (log entry 118). -/
def execTableSetVerifyDone (_rsaOk : Bool) (_slhOk : Bool) (s : State) : Host.Outcome State Fault Refusal :=
  whenUp s (match s.trust.queue with
    | .table :: _ =>
      let m := tableReady s (dget s kTableSetAddr)
      if !m.2 then m.1 else
      let s := m.1
      let r := tableCheck s (dget s kTableSetAddr)
      let s := setStatus (verified r.1 r.2.1) kTableSetStatus r.2.1
      if r.2.1 != 1 then trustPop s
      else trustPop (modTrust (dset (dset s kTableSetRevision r.2.2.1) kTableSetDigest r.2.2.2.2) (fun t => { t with tables := r.2.2.2.1 }))
    | _ => s)

/-! ### Attestation and signed colophons (R560–R562) -/

/-- ATTEST_NONCE: a report is queued (R560, R562). -/
def execAttestNonce (nonce : List Byte) (s : State) : Host.Outcome State Fault Refusal :=
  whenUp s (
    if nonce.length != 32 then s
    else dictWrite kAttestNonce (leNat nonce)
      (fun s => if trustFull s then s else setStatus (trustPush s (.attest (leNat nonce))) kSignerStatus 2) s)

/-- The body signed so far is complete: the report or signature is placed (R560, R561). DESIGN CHOICE (log entry 118). -/
def placeSignature (s : State) (k : Nat) (withBody : Bool) : State :=
  let b := signBlock s s.trust.body
  dset b.1 k (leNat ((if withBody then s.trust.body else []) ++ b.2))

/-- SIGNER_STATUS after a request: BUSY while another signing request waits. -/
def signerAfter (s : State) (code : Nat) : State :=
  setStatus s kSignerStatus (if s.trust.queue.any (fun r => match r with | .attest _ => true | .sign _ => true | _ => false) then 2 else code)

/-- ATTEST_REPORT_DONE (R560). -/
def execAttestReportDone (s : State) : Host.Outcome State Fault Refusal :=
  whenUp s (match s.trust.queue with
    | .attest _ :: _ => signerAfter (trustPop (dcount (placeSignature s kAttestReport true) kSignatures 1)) 1
    | _ => s)

/-- COLOPHON_SIGN: a signature of attachment entry `a` is queued (R561, R562). -/
def execColophonSign (a : Nat) (s : State) : Host.Outcome State Fault Refusal :=
  whenUp s (
    if 4096 ≤ a then s
    else dictWrite kColophonSign a (fun s => if trustFull s then s else setStatus (trustPush s (.sign a)) kSignerStatus 2) s)

/-- COLOPHON_SIGN_DONE (R561). -/
def execColophonSignDone (s : State) : Host.Outcome State Fault Refusal :=
  whenUp s (match s.trust.queue with
    | .sign _ :: _ =>
      if s.trust.bad then signerAfter (trustPop s) 4
      else signerAfter (trustPop (dcount (placeSignature s kColophonSignature false) kSignatures 1)) 1
    | _ => s)

end Sys2Proof.Machine
end

