-- ==== Sys2Proof/Machine/Fovis.lean ====
section
/-! DEFINITION. Fovis: the object dictionary over mailboxes and the field network, and signed bundles (R509–R531, R554). -/
namespace Sys2Proof.Machine
open Sys2Proof Config

/-! ### PDUs (R516–R518) -/

/-- An item of a PDU. -/
structure FItem where
  idx : Nat
  sub : Nat
  ty : Nat
  off : Nat
  len : Nat
  val : List Byte
  deriving DecidableEq, Repr

/-- A request PDU. -/
structure Pdu where
  op : Nat
  id : Nat
  items : List FItem
  raw : List Byte
  deriving DecidableEq, Repr

/-- Exactly `n` items, with values where `hv` holds; none when they do not fill the bytes or a reserved field is not zero. -/
def parseItems (hv : Bool) : Nat → List Byte → Option (List FItem)
  | 0, bs => if bs.isEmpty then some [] else none
  | n + 1, bs =>
    let w0 := leNat (bs.take 8)
    let len := bitsOf w0 63 48
    let pad := if hv then roundUp len 8 else 0
    if bs.length < 16 + pad || leNat ((bs.drop 8).take 8) != 0 then none
    else (parseItems hv n (bs.drop (16 + pad))).map (fun t =>
      ⟨bitsOf w0 15 0, bitsOf w0 23 16, bitsOf w0 31 24, bitsOf w0 47 32, len, if hv then (bs.drop 16).take len else []⟩ :: t)

/-- Operations whose request items carry values. -/
def opValues (op : Nat) : Bool := op == 2 || op == 0x10 || op == 0x11
/-- The operations of R518. -/
def opKnown (op : Nat) : Bool := (1 ≤ op && op ≤ 4) || (0x10 ≤ op && op ≤ 0x13)

/-- A request PDU; none when it is malformed (R523). DEDUCED (log entry 103). -/
def parsePdu (bs : List Byte) : Option Pdu :=
  let w0 := leNat (bs.take 8)
  let w1 := leNat ((bs.drop 8).take 8)
  let op := bitsOf w0 31 24
  if bs.length < 16 || 8192 < bs.length || bitsOf w0 63 48 != bs.length || bitsOf w0 15 0 != 0x5646 || bitsOf w0 23 16 != 1 ||
     bitsOf w0 47 40 != 0 || !opKnown op || 64 < bitsOf w0 39 32 || 2 ^ 32 ≤ w1 then none
  else (parseItems (opValues op) (bitsOf w0 39 32) (bs.drop 16)).map (fun l => ⟨op, w1, l, bs⟩)

/-- An item of a reply. -/
def mkItem (idx sub ty off st : Nat) (val : List Byte) : List Byte :=
  leBytes 8 (val.length * 2 ^ 48 + off * 2 ^ 32 + ty * 2 ^ 24 + sub * 2 ^ 16 + idx) ++ leBytes 8 st ++ val ++
  List.replicate (roundUp val.length 8 - val.length) 0

/-- A reply PDU. -/
def mkPdu (op id st : Nat) (items : List (List Byte)) : List Byte :=
  let body := items.flatten
  leBytes 8 ((16 + body.length) * 2 ^ 48 + st * 2 ^ 40 + items.length * 2 ^ 32 + (op + 0x80) % 256 * 2 ^ 24 + 2 ^ 16 + 0x5646) ++
  leBytes 8 (id % 2 ^ 32) ++ body

/-! ### Entries (R519, R520, R530, R531) -/

/-- The entry at an index and sub-index. -/
def entryOf (i sub : Nat) : Option Entry :=
  entries.find? (fun e => e.idx ≤ i && i ≤ e.idx2 && e.sub ≤ sub && sub ≤ e.sub2)

/-- TYPE code of an entry. -/
def tyCode (e : Entry) : Nat := [0, 2, 3, 4, 5, 6, 8, 9, 1, 0x0B, 0x0A].getD e.ty 0
/-- ACCESS code of an entry. -/
def accCode (e : Entry) : Nat := [1, 2, 4, 3, 5].getD e.acc 0

/-- Little-endian fields of `n` bytes each, joined. -/
def joinLe (n : Nat) (l : List Nat) : Nat := leNat (l.flatMap (leBytes n))

/-- CORE_MAP of an A-die (R50, R473). -/
def coreMapValue (s : State) (d : Nat) : Nat :=
  joinLe 2 ((List.range 1280).map (fun l =>
    if coreNamed s (1280 * d + l) then (tblGet coreMapDflt s.coreMap (1280 * d + l)).getD 0xFFFE else 0xFFFF))

/-- Logical cores of an A-die in service (R50, R473). -/
def coresInService (s : State) (d : Nat) : Nat := ((dieCores s d).filter (fun n => (keyOf s n).isSome)).length

/-- RESULT of a monitor (R476): the latched window, or the accumulators while continuous. -/
def monResult (x : Mon) : Nat :=
  let a := if x.window = 0 then x.acc else x.res
  let b := if x.window = 0 then x.start else x.resStart
  leNat ([a.min, a.max, a.count, a.sum, b, if x.window = 0 then 0 else x.resEnd].flatMap (leBytes 8) ++
    (List.range 32).flatMap (fun i => leBytes 4 (tblGet (fun _ => 0) a.bins i)))

/-- The value of the entry with key `k` (index × 256 + sub) as a little-endian number: what the package forms at a read, or what is
stored. -/
def entryValue (s : State) (k : Nat) : Nat :=
  let i := k / 256
  let n := k % 256
  if 0x2010 ≤ i && i ≤ 0x2017 then coreMapValue s (i - 0x2010)
  else if 0xA900 ≤ i && i ≤ 0xAAFF then
    let x := monAt s (i - 0xA900)
    if n = 1 then x.source else if n = 2 then x.window else monResult x
  else if i = 0x2001 then
    (if n = 0 then (List.range 8).foldl (fun a d => a + coresInService s d) 0 else coresInService s (n - 1))
  else if i = 0x2002 then (usableSpares s (n - 1)).length
  else if i = 0x8002 then leNat (ctxAt s (n - 1)).record
  else if i = 0x9002 then
    (match recordsSafe s, nvmNewer s with
      | true, some r => tblGet (fun _ => 0) r.errs (n - 1)
      | _, _ => satAdd (2 ^ 64 - 1) (tblGet (fun _ => 0) s.errBase (n - 1)) (dget s (kErrors + (n - 1))))
  else match k with
    | 0x100005 => s.grade
    | 0x10000A => leNat (identityDigest s)
    | 0xA00002 => dget s k % 2 ^ 32
    | 0xA00206 => leNat (endorsement s)
    | 0x200004 => ownCoord s
    | 0x200300 => if s.grade = 3 then 0 else ((List.range 64).filter (fun e => !(engineAt s e).failed)).length
    | 0x700301 => stallNow s k
    | 0x700302 => stallNow s k
    | 0x700303 => stallNow s k
    | 0x800002 => b2n (locked s)
    | 0x800003 => leNat (settingsImage s)
    | 0x800004 => leNat (fingerprint s)
    | 0x880101 => s.p10
    | 0x880102 => s.p1m
    | 0x880103 => joinLe 1 ((List.range 512).map (domByte s))
    | 0x880104 => joinLe 2 ((List.range 512).map (fun d => (domAt s d).power))
    | 0x880105 => joinLe 2 ((List.range 512).map (fun d => (domAt s d).temp))
    | 0x880202 => satAdd (2 ^ 64 - 1) (dget s k) (if s.hold then timeNs s - s.holdSince else 0)
    | 0x880301 => timeNs s
    | 0x900401 => powerOnS s
    | 0x900402 => s.powerCycle % 2 ^ 32
    | 0x900404 => s.calSeq % 65536
    | 0x900405 => (s.calSeq - 65536) % 2 ^ 32
    | 0x900501 => joinLe 8 ((List.range 512).map (fun d => (domAt s d).wear / 2 ^ 32))
    | _ => dget s k

/-- Entries whose default comes from strap, NVM, manufacture, training or another entry (R520). DEDUCED (log entry 108). -/
def unfixed : List String :=
  ["BOARD_NUMBER", "PACKAGE_POSITION", "PACKAGE_COORD", "DIE_SPARES_LEFT", "LANE_REPAIRS", "OFFLINE_CHANNELS", "PORT_STATE",
   "PKG_POWER_10US", "PKG_POWER_1MS", "TIME_NOW", "ERRORS_LIFETIME", "POWER_ON_SECONDS", "POWER_CYCLES", "CALENDAR_NEXT",
   "CALENDAR_WRAPS", "GRADE", "SERIAL", "MAC_ADDRESS", "MANUFACTURE_DAY", "PLCA_NODE_ID", "BUNDLE_SEQ", "HDIE_WAYS_DISABLED",
   "BOOT_MIN_VERSION", "OWNER_STATE"]

/-- The default that DESCRIBE reports. DEDUCED (log entry 108). -/
def fixedDflt (s : State) (e : Entry) : Nat :=
  match e.idx * 256 + e.sub with
  | 0x200100 => 8 * coresPerDie s
  | 0x200101 => coresPerDie s
  | 0x200300 => if s.grade = 3 then 0 else 64
  | 0x800002 => 1
  | k => dictDflt k

/-- The DESCRIBE descriptor (R520). -/
def descriptor (s : State) (e : Entry) : List Byte :=
  let fixed := e.size ≤ 8 && !unfixed.contains e.name
  leBytes 8 (b2n fixed * 2 ^ 48 + e.size * 2 ^ 16 + accCode e * 256 + tyCode e) ++ leBytes 8 (if fixed then fixedDflt s e else 0)

/-! ### Checks of an item (R524) -/

/-- OFFSET and LENGTH are as R519 states. -/
def spanOk (e : Entry) (write : Bool) (off len : Nat) : Bool :=
  if e.ty = 9 && !write then off + len ≤ e.size else off == 0 && len == e.size

/-- The affected units of an RWI entry are idle (R98, R50, R308, R374, R410, R412, R438, R498, R505). -/
def unitsIdle (s : State) (k : Nat) : Bool :=
  if k = kChassisNumber || k = kDieLocalSlices || k / 256 = 0x7000 then phase s == phIdle
  else if k = kSetupKey then phase s == phIdle && s.snap.state == 0
  else if k / 256 = 0x9800 then rwiIdle s && s.snap.state == 0
  else if k = kDeterminismScope then rwiIdle s && !s.ctxs.any (fun x => x.2.state == 1 || x.2.state == 2)
  else rwiIdle s

/-- A number lies in a range. -/
def within (lo hi v : Nat) : Bool := decide (lo ≤ v) && decide (v ≤ hi)

/-- A multiple of 2^30. -/
def gib (v : Nat) : Bool := v % 2 ^ 30 == 0

/-- The stated values of an entry that may be written. DEDUCED (log entry 120). -/
def valueOk (s : State) (k v : Nat) : Bool :=
  if 0xA900 ≤ k / 256 && k / 256 ≤ 0xAAFF then
    (if k % 256 = 1 then monSourceOk s v else if k % 256 = 2 then monWindowOk v else decide (v < 2))
  else match k with
    | 0x110001 => decide (v ≤ 5)
    | 0x120001 => within 1024 65535 v
    | 0x120002 => within 1 254 v && decide (v < dget s kPlcaNodeCount)
    | 0x120003 => within 2 255 v
    | 0x300001 => within 1 4 v
    | 0x300002 => decide (v ≤ 1)
    | 0x300003 => v == 0x20 || v == 0x10
    | 0x300004 => decide (v ≤ 1)
    | 0x400001 => v == 0 || within 10000 60000000000 v
    | 0x600001 => decide (v ≤ 8)
    | 0x600002 => v == 0 || within 3600000000000 2592000000000000 v
    | 0x700001 => (leBytes 64 v).all (fun b => decide (b.toNat ≤ 3))
    | 0x700003 => decide (v < 16384) || v == 0xFFFF
    | 0x700006 => within 10000 75000 v
    | 0x700007 => within 5000 75000 v
    | 0x700008 => within 4 255 v
    | 0x780001 => within 10000 60000000000 v
    | 0x780002 => within 1 65536 v && v == 2 ^ flog2 v
    | 0x780004 => gib v && inStack v 1 && decide (v + dget s kStagingSize ≤ 2 ^ 40)
    | 0x780005 => gib v && decide (dget s kStagingBase + v ≤ 2 ^ 40)
    | 0x800001 => decide (v ≤ 2)
    | 0x800005 => gib v && inStack v (max 1 (dget s kLeafTableSize))
    | 0x800006 => gib v && within (2 ^ 30) (2 ^ 36) v && inStack (dget s kLeafTableBase) v
    | 0x800007 => within 100000 60000000000 v
    | 0x880001 => within 2000 6500 v
    | 0x880002 => decide (v ≤ 20)
    | 0x880003 => decide (v ≤ 5) && decide (v ≤ dget s kVstepMax)
    | 0x880004 => decide (v ≤ 5) && decide (dget s kVstepMin ≤ v)
    | 0x880005 => (leBytes 336 v).all (fun b => decide (b.toNat ≤ 5))
    | 0x880006 => (List.range 16).all (fun i => decide (v / 65536 ^ i % 65536 ≤ 2000))
    | 0x880007 => v == 0 || within 1000 1000000000 v
    | 0x880008 => within 70 105 v
    | 0x980001 => v % 65536 == 0
    | 0x980002 => v % 65536 == 0
    | 0x980006 => within 1000000 60000000000 v
    | 0xA00403 => decide (v < 4096)
    | _ => true

/-- The rules of an entry's own: OK, DENIED_ACCESS or PHASE_ORDER (R24, R283, R293, R335, R458, R481, R501, R502, R506, R557, R559, R562); `hart` is
the hart that writes. DESIGN CHOICE (log entry 91). -/
def ownRule (s : State) (k v : Nat) (hart : Option Nat) : Nat :=
  let ok := match k with
    | 0x600003 => retrainPhase s
    | 0x600004 => phase s == phIdle
    | 0x70000B => retrainPhase s
    | 0x700002 => jobEpochOk s v
    | 0x880009 => hostDomainsOk s v hart
    | 0x900004 => v == 0 || phase s == phIdle
    | 0x980008 => setupSaveOk s
    | 0x98000B => epochAdvanceOk s v
    | 0xA00003 => v == 0 || phase s == phIdle
    | 0xA00102 => !trustFull s || dget s kBootState == 1 || dget s kBootState == 2
    | 0xA00302 => phase s == phIdle && !trustFull s
    | 0xA00401 => !trustFull s
    | 0xA00403 => !trustFull s
    | _ => true
  if k = kJobPhase && !phaseWriteOk s v then 0x80 else if ok then 0 else stDenied

/-- Status of a write; `sealed` permits SEAL entries (R524, R526). -/
def writeStatus (s : State) (sealed : Bool) (hart : Option Nat) (x : FItem) : Nat :=
  match entryOf x.idx x.sub with
  | none => 0x81
  | some e =>
    let k := x.idx * 256 + x.sub
    let v := leNat x.val
    if x.ty != tyCode e then 0x82
    else if !spanOk e true x.off x.len then 0x83
    else if e.acc = 0 || (e.acc = 2 && !unitsIdle s k) then stDenied
    else if e.acc = 4 && !sealed then stSeal
    else if (e.ty = 8 && 1 < v) || !valueOk s k v then stDenied
    else ownRule s k v hart

/-! ### Effects of a write -/

/-- OWNER_KEYS is written (R554). DEDUCED (log entry 94). -/
def ownerPut (s : State) (v : Nat) : State :=
  dset (dset (dset s kOwnerKeys v) kOwnerState (b2n (v != 0))) kOwnerKeyDigest (if v = 0 then 0 else leNat (sha384 (leBytes 436 v)))

/-- An accepted write takes effect. -/
def entryPut (s : State) (k v : Nat) : State :=
  if 0xA900 ≤ k / 256 && k / 256 ≤ 0xAAFF then
    let m := k / 256 - 0xA900
    (if k % 256 = 1 then monWrite s m (.source v) else if k % 256 = 2 then monWrite s m (.window v)
     else if v = 1 then monWrite s m .restart else s)
  else match k with
    | 0x110001 => if v = phase s then s else phaseMove s v
    | 0x200001 => dset s k (v % 4096)
    | 0x600003 => stackRetrain s v
    | 0x600004 => stackClear s v
    | 0x700001 => setPortLevels s v
    | 0x70000B => portRetrain s v
    | 0x880009 => hostDomains s (v % 1024)
    | 0x900004 => if v = 1 then shutdownAct s else s
    | 0x980008 => setupSave s
    | 0x98000B => epochTry { s with epochAdv := some v }
    | 0xA00003 => if v = 1 then hdieReset s else s
    | 0xA00102 => if v = 1 then bootStart s else s
    | 0xA00202 => ownerPut s v
    | 0xA00302 => if v = 1 then tableLoad s else s
    | 0xA00401 => setStatus (trustPush s (.attest v)) kSignerStatus 2
    | 0xA00403 => setStatus (trustPush s (.sign v)) kSignerStatus 2
    | _ => dset s k v

/-- Check and apply one write. -/
def writeItem (s : State) (sealed : Bool) (hart : Option Nat) (x : FItem) : State × Nat :=
  let st := writeStatus s sealed hart x
  (if st = 0 then entryPut s (x.idx * 256 + x.sub) (leNat x.val) else s, st)

/-! ### Replies (R511–R513) -/

/-- TIME for which a reply is kept. -/
abbrev cacheNs : Nat := 1000000000

/-- Drop the first element that satisfies `p`. -/
def dropFirst {α : Type} (p : α → Bool) : List α → List α
  | [] => []
  | x :: t => if p x then t else x :: dropFirst p t

/-- Keep a reply: the last 16 of its source and 256 in all (R512). -/
def remember (s : State) (addr port id : Nat) (pdu : List Byte) : State :=
  let mine := fun (c : CachedReply) => c.addr == addr && c.port == port
  let l := s.cached.filter (fun c => decide (timeNs s < c.since + cacheNs) && !(mine c && c.id == id))
  let l := if 16 ≤ (l.filter mine).length then dropFirst mine l else l
  let l := if 256 ≤ l.length then l.tail else l
  { s with cached := l ++ [⟨addr, port, id, timeNs s, pdu⟩] }

/-- UDP checksum of a datagram over IPv6 (RFC 8200): over the pseudo-header, the header and the payload; 0 is sent as all ones. PRESUMED (log entry 109). -/
def udpSum (src dst sport dport : Nat) (pdu : List Byte) : Nat :=
  let n := 8 + pdu.length
  let sum := sum16 (beBytes 16 src ++ beBytes 16 dst ++ beBytes 4 n ++ [0, 0, 0, 17] ++ beBytes 2 sport ++ beBytes 2 dport ++ beBytes 2 n ++ pdu)
  let f := sum % 65536 + sum / 65536
  let c := 65535 - (f % 65536 + f / 65536)
  if c = 0 then 65535 else c

/-- A reply leaves as one frame, or in fragments of at most 1,448 bytes where its datagram exceeds the link's 1,500: each is sent as its
fragment header and bytes, under port 2^16 (R510). PRESUMED (log entry 109). -/
def netSend (s : State) (a p : Nat) (pdu : List Byte) : State :=
  let port := s.netPort
  if pdu.length ≤ 1452 then netOut s a p port pdu
  else
    let pkt := beBytes 2 port ++ beBytes 2 p ++ beBytes 2 (8 + pdu.length) ++ beBytes 2 (udpSum (linkLocal s) a port p pdu) ++ pdu
    let cs := chunks 1448 pkt
    (idx cs).foldl (fun t c =>
      netOut t a (2 ^ 16) port ([17, 0] ++ beBytes 2 (c.1 * 1448 + b2n (c.1 + 1 != cs.length)) ++ beBytes 4 (s.freeCount % 2 ^ 32) ++ c.2))
      { s with freeCount := s.freeCount + 1 }

/-- A reply leaves on the path of its request. -/
def fovisAnswer (s : State) (who : Asker) (id : Nat) (pdu : List Byte) : State :=
  match who with
  | .box m => modBox s m (fun b => { b with resp := pdu, st := 2 })
  | .net a p => netSend (remember s a p id pdu) a p pdu

/-! ### Service (R518, R521, R522) -/

/-- The reply item of a READ, with the entry's TYPE wherever there is an entry (R518): a value that would take the PDU beyond 8,192 bytes gets LENGTH_MISMATCH. -/
def readItem (s : State) (used : Nat) (x : FItem) : List Byte :=
  let bad := fun ty st => mkItem x.idx x.sub ty x.off st []
  match entryOf x.idx x.sub with
  | none => bad x.ty 0x81
  | some e =>
    if x.ty != 0 && x.ty != tyCode e then bad (tyCode e) 0x82
    else if !spanOk e false x.off x.len || 8192 < used + 16 + roundUp x.len 8 then bad (tyCode e) 0x83
    else if e.acc = 3 then bad (tyCode e) stDenied
    else mkItem x.idx x.sub (tyCode e) x.off 0
      (((leBytes e.size (entryValue s (x.idx * 256 + x.sub))).drop x.off).take x.len)

/-- The reply items of a READ, with room kept for a header of every later item. DEDUCED (log entry 105). -/
def readGo (s : State) : List FItem → Nat → List (List Byte)
  | [], _ => []
  | x :: t, used => let r := readItem s (used + 16 * t.length) x; r :: readGo s t (used + r.length)

/-- Serve a READ. -/
def serveRead (s : State) (who : Asker) (p : Pdu) : State := fovisAnswer s who p.id (mkPdu 1 p.id 0 (readGo s p.items 16))

/-- The reply item of a DESCRIBE. DEDUCED (log entry 102). -/
def describeItem (s : State) (x : FItem) : List Byte :=
  match entryOf x.idx x.sub with
  | none => mkItem x.idx x.sub x.ty x.off 0x81 []
  | some e => mkItem x.idx x.sub (tyCode e) x.off 0 (descriptor s e)

/-- Serve a DESCRIBE. -/
def serveDescribe (s : State) (who : Asker) (p : Pdu) : State := fovisAnswer s who p.id (mkPdu 3 p.id 0 (p.items.map (describeItem s)))

/-- Serve a DISCOVER. -/
def serveDiscover (s : State) (who : Asker) (p : Pdu) : State :=
  fovisAnswer s who p.id (mkPdu 4 p.id 0 ([(0x1000, 5, 1), (0x1000, 7, 8), (0x2000, 4, 4), (0x1100, 1, 1)].map (fun x =>
    readItem s 16 ⟨x.1, x.2.1, 0, 0, x.2.2, []⟩)))

/-- The hart whose request a mailbox holds. -/
def askerHart (s : State) : Asker → Option Nat
  | .box m => (boxAt s m).hart
  | .net _ _ => none

/-- Serve writes in order until one must wait for EPOCH_ADVANCE to complete (R502, R522): statuses, newest first. -/
def fovisWriteGo (hart : Option Nat) : List FItem → State → List Nat → State × List Nat
  | [], s, done => (s, done)
  | x :: t, s, done =>
    let r := writeItem s false hart x
    if r.2 = 0 && r.1.epochAdv.isSome && x.idx * 256 + x.sub == kEpochAdvance then (r.1, 0 :: done)
    else fovisWriteGo hart t r.1 (r.2 :: done)

/-- The reply of a WRITE. DEDUCED (log entry 105). -/
def writeReply (p : Pdu) (done : List Nat) : List Byte :=
  mkPdu 2 p.id 0 ((p.items.zip done.reverse).map (fun x => mkItem x.1.idx x.1.sub x.1.ty x.1.off x.2 []))

/-- Serve a WRITE from the items not yet served; one that waits is kept. -/
def serveWriteFrom (s : State) (who : Asker) (p : Pdu) (done : List Nat) : State :=
  let r := fovisWriteGo (askerHart s who) (p.items.drop done.length) s done
  if r.2.length < p.items.length || r.1.epochAdv.isSome && r.2.length != done.length then
    { r.1 with fovisPend := some ⟨who, p.raw, r.2⟩ }
  else fovisAnswer r.1 who p.id (writeReply p r.2)

/-- Serve a WRITE. -/
def serveWrite (s : State) (who : Asker) (p : Pdu) : State := serveWriteFrom s who p []

/-- A waiting WRITE goes on once its action has completed (R522). -/
def fovisResume (s : State) : State :=
  match s.fovisPend with
  | none => s
  | some w =>
    if s.epochAdv.isSome then s
    else match parsePdu w.pdu with
      | none => { s with fovisPend := none }
      | some p => serveWriteFrom { s with fovisPend := none } w.who p w.done

/-! ### Bundles (R526–R529, R554) -/

/-- The reply of a bundle operation: one header. -/
def bundleReply (s : State) (who : Asker) (op id off st : Nat) : State := fovisAnswer s who id (mkPdu op id 0 [mkItem 0 0 0 off st []])

/-- INDEX, SUB and TYPE of the item of a bundle operation are 0 (R518). DEDUCED (log entry 106). -/
def bundleItem (p : Pdu) : FItem ⊕ Nat :=
  match p.items with
  | [x] => if x.idx != 0 || x.sub != 0 then .inr 0x81 else if x.ty != 0 then .inr 0x82 else .inl x
  | _ => .inr 0x83

/-- The requester owns the buffer and has not applied it: the buffer with the TIME of this operation, and the state (R527). -/
def bundleMine (s : State) (who : Asker) : Option (BundleBuf × State) :=
  match s.bundle with
  | some b =>
    if b.owner == who && b.applying.isNone then
      let b := { b with last := timeNs s }
      some (b, { s with bundle := some b })
    else none
  | none => none

/-- BUNDLE_OPEN is served; one while the buffer is owned is out of order (R527). DEDUCED (log entry 106). -/
def serveBundleOpen (s : State) (who : Asker) (p : Pdu) : State :=
  if s.bundle.isSome then
    bundleReply (match bundleMine s who with | some m => m.2 | none => s) who 0x10 p.id 0 0x84
  else match bundleItem p with
    | .inr st => bundleReply s who 0x10 p.id 0 st
    | .inl x =>
      let v := leNat x.val
      if x.len != 4 || x.off != 0 then bundleReply s who 0x10 p.id 0 0x83
      else if !within 64 65536 v then bundleReply s who 0x10 p.id 0 stDenied
      else bundleReply { s with bundle := some { owner := who, len := v, last := timeNs s } } who 0x10 p.id 0 0

/-- BUNDLE_DATA is served (R527, R518). DEDUCED (log entry 106). -/
def serveBundleData (s : State) (who : Asker) (p : Pdu) : State :=
  match bundleMine s who with
  | none => bundleReply s who 0x11 p.id 0 0x84
  | some m =>
    match bundleItem p with
    | .inr st => bundleReply m.2 who 0x11 p.id 0 st
    | .inl x =>
      if m.1.len < 8 * x.off + x.len then bundleReply m.2 who 0x11 p.id x.off 0x83
      else bundleReply { m.2 with bundle := some { m.1 with
        bytes := memWrite m.1.bytes (8 * x.off) x.val, written := m.1.written ++ [(8 * x.off, x.len)] } } who 0x11 p.id x.off 0

/-- How far bytes from 0 are written without a gap, over `n` passes. -/
def coverGo (l : List (Nat × Nat)) : Nat → Nat → Nat
  | 0, p => p
  | n + 1, p => coverGo l n (l.foldl (fun p r => if r.1 ≤ p && p < r.1 + r.2 then r.1 + r.2 else p) p)

/-- The bundle ends: its buffer is released at the reply (R529), after which FOVIS_UDP_PORT governs what is received (R530). -/
def bundleEnds (s : State) (who : Asker) (id off st : Nat) (applied : Bool) : State :=
  let t := bundleReply (dcount { s with bundle := none } (if applied then kBundlesApplied else kBundlesRefused) 1) who 0x12 id off st
  { t with netPort := dget t kFovisUdpPort }

/-- BUNDLE_APPLY is served: unwritten bytes end it at once, otherwise its verification is queued (R527, R529, R562). DEDUCED (log entry 106). -/
def serveBundleApply (s : State) (who : Asker) (p : Pdu) : State :=
  match bundleMine s who with
  | none => bundleReply s who 0x12 p.id 0 0x84
  | some m =>
    if !p.items.isEmpty then bundleReply m.2 who 0x12 p.id 0 0x83
    else if coverGo m.1.written m.1.written.length 0 < m.1.len then bundleEnds m.2 who p.id 0 0x85 false
    else if trustFull s then bundleEnds m.2 who p.id 0 stDenied false
    else trustPush { m.2 with bundle := some { m.1 with applying := some (leBytes 4 p.id) } } .bundle

/-- BUNDLE_CANCEL is served. -/
def serveBundleCancel (s : State) (who : Asker) (p : Pdu) : State :=
  match bundleMine s who with
  | none => bundleReply s who 0x13 p.id 0 0x84
  | some m => if !p.items.isEmpty then bundleReply m.2 who 0x13 p.id 0 0x83 else bundleReply { m.2 with bundle := none } who 0x13 p.id 0 0

/-- The writes of a bundle body (R528). -/
def bundleWrites (body : List Byte) : Option (List FItem) :=
  let n := leNat ((body.drop 4).take 4)
  if body.length < 64 || body.take 4 != [0x46, 0x42, 1, 0] || !within 1 512 n || leNat ((body.drop 24).take 40) != 0 then none
  else parseItems true n (body.drop 64)

/-- The 436 bytes of the keys that must have signed a bundle (R550, R554). -/
def bundleKeys (s : State) (body : List Byte) : Option (List Byte) :=
  if dget s kOwnerState = 1 then some (leBytes 436 (dget s kOwnerKeys))
  else match bundleWrites body with
    | none => none
    | some l => (l.find? (fun x => x.idx * 256 + x.sub == kOwnerKeys && x.len == 436)).map (·.val)

/-- First write of a bundle that fails its check, from index `i`, for the hart whose mailbox the bundle came by, if any (R458, R529 step 3). -/
def firstBad (s : State) (hart : Option Nat) : List FItem → Nat → Option (Nat × Nat)
  | [], _ => none
  | x :: t, i => let st := writeStatus s true hart x; if st != 0 then some (i, st) else firstBad s hart t (i + 1)

/-- Where the writes of a bundle stop. -/
inductive ApplyEnd where
  | all | refused (i : Nat) | waits (i : Nat)
  deriving DecidableEq, Repr

/-- Apply writes in order, the first of them `i`, until one is refused, or waits for its action as EPOCH_ADVANCE does (R522, R529 steps 4
and 5). -/
def applyGo (hart : Option Nat) : List FItem → Nat → State → State × ApplyEnd
  | [], _, s => (s, .all)
  | x :: t, i, s =>
    let r := writeItem s true hart x
    if r.2 != 0 then (r.1, .refused i)
    else if r.1.epochAdv.isSome then (r.1, .waits (i + 1))
    else applyGo hart t (i + 1) r.1

/-- The writes of a bundle from `i` on, and the bundle's end (R529 steps 4 to 6). -/
def bundleApply (s : State) (b : BundleBuf) (id seq : Nat) (l : List FItem) (i : Nat) : State :=
  let r := applyGo (askerHart s b.owner) (l.drop i) i s
  match r.2 with
  | .all => bundleEnds (dset r.1 kBundleSeq seq) b.owner id 0 0 true
  | .refused 0 => bundleEnds r.1 b.owner id 1 stPartial false
  | .refused (j + 1) => bundleEnds (dset r.1 kBundleSeq seq) b.owner id (2 + j) stPartial true
  | .waits j => { r.1 with bundle := some { b with next := some j } }

/-- A bundle's body: its bytes before the signature block. -/
def bundleBody (b : BundleBuf) : List Byte := (memRead b.bytes 0 b.len).take (b.len - 16672)

/-- A verified bundle is checked and applied (R529 steps 2 to 6). -/
def bundleRun (s : State) (b : BundleBuf) (id : Nat) : State :=
  let body := bundleBody b
  let seq := leNat ((body.drop 8).take 8)
  let tgt := leNat ((body.drop 16).take 8)
  match bundleWrites body with
  | none => bundleEnds s b.owner id 0 0x85 false
  | some l =>
    if seq ≤ dget s kBundleSeq || (tgt != 0 && tgt != dget s kSerial) then bundleEnds s b.owner id 0 0x86 false
    else match firstBad s (askerHart s b.owner) l 0 with
      | some (i, st) => bundleEnds s b.owner id (1 + i) st false
      | none => bundleApply s b id seq l 0

/-- A bundle whose write waited for its action goes on (R522, R529). -/
def bundleResume (s : State) : State :=
  match s.bundle with
  | some b => match b.next, b.applying, s.epochAdv with
    | some i, some id, none =>
      let body := bundleBody b
      bundleApply s b (leNat id) (leNat ((body.drop 8).take 8)) ((bundleWrites body).getD []) i
    | _, _, _ => s
  | none => s

/-! ### The arbiter (R511, R512, R521, R522, R525) -/

/-- A write waits for its action, and holds every later write (R522). DEDUCED (log entry 107). -/
def writesHeld (s : State) : Bool :=
  s.fovisPend.isSome || s.epochAdv.isSome || (match s.bundle with | some b => b.next.isSome | none => false)

/-- Serve a request by its operation. -/
def servePdu (s : State) (who : Asker) (p : Pdu) : State :=
  match p.op with
  | 1 => serveRead s who p
  | 2 => serveWrite s who p
  | 3 => serveDescribe s who p
  | 4 => serveDiscover s who p
  | 0x10 => serveBundleOpen s who p
  | 0x11 => serveBundleData s who p
  | 0x12 => serveBundleApply s who p
  | 0x13 => serveBundleCancel s who p
  | _ => s

/-- Serve a request from the field network, or resend the reply that is kept of it (R512). -/
def netServe (s : State) (addr port : Nat) (p : Pdu) : State :=
  match s.cached.find? (fun c => c.addr == addr && c.port == port && c.id == p.id && decide (timeNs s < c.since + cacheNs)) with
  | some c => netSend (dcount s kReplayedReplies 1) addr port c.pdu
  | none => servePdu s (.net addr port) p

/-- The PDU of a mailbox: its LENGTH field tells its bytes. -/
def boxPdu (b : Mbox) : List Byte :=
  let n := leNat (memRead b.req 6 2)
  memRead b.req 0 (if 16 ≤ n && n ≤ 8192 then n else 16)

/-- Serve the request of a mailbox; a malformed one gets a header alone (R523). DEDUCED (log entry 103). -/
def boxServe (s : State) (m : Nat) (raw : List Byte) : State :=
  match parsePdu raw with
  | none => fovisAnswer s (.box m) 0 (mkPdu (raw.getD 3 0).toNat (leNat ((raw.drop 8).take 4)) 0x87 [])
  | some p => servePdu s (.box m) p

/-- The write of an entry on a row of its own, when its turn comes. -/
def entryServe (s : State) (k v : Nat) (hart : Option Nat) : State :=
  match entryOf (k / 256) (k % 256) with
  | none => s
  | some e => (writeItem s false hart ⟨k / 256, k % 256, tyCode e, 0, e.size, leBytes e.size v⟩).1

/-- A held request is a write. -/
def heldWrite : FovisHeld → Bool
  | .entry _ _ _ => true
  | .pdu _ b => match parsePdu b with | some p => p.op == 2 | none => false

/-- Serve a held request. -/
def heldServe (s : State) : FovisHeld → State
  | .entry k v h => entryServe s k v h
  | .pdu (.box m) b => if (boxAt s m).st = 1 then boxServe s m b else s
  | .pdu (.net a p) b => match parsePdu b with | some q => netServe s a p q | none => s

/-- Serve what is held, in order of arrival, reads past the writes that must wait (R521, R522). DEDUCED (log entry 107). -/
def fovisDrain : Nat → State → State
  | 0, s => s
  | n + 1, s =>
    match s.rxq.find? (fun h => !writesHeld s || !heldWrite h) with
    | some h => fovisDrain n (heldServe { s with rxq := s.rxq.erase h } h)
    | none => s

/-- What the arbiter has held goes on, once the lifetime records are loaded (R522, R525). DEDUCED (log entry 107). -/
def fovisPump (s : State) : State :=
  if dget s kLifetimeState = 0 then s
  else
    let t := bundleResume (fovisResume s)
    fovisDrain t.rxq.length t

/-- A mailbox request (R513): only while BUSY; it is held while LIFETIME_STATE is LOADING, and a write also while an earlier one waits
(R521, R522, R525). DEDUCED (log entry 103). -/
def boxRow (op m : Nat) (hart : Option Nat) (s : State) : State :=
  let b := boxAt s m
  let raw := boxPdu b
  let h : FovisHeld := .pdu (.box m) raw
  let s' := modBox s m (fun b => { b with hart := hart })
  if b.st != 1 || s.rxq.contains h || (parsePdu raw).any (fun p => p.op != op) then s
  else if dget s kLifetimeState = 0 || (heldWrite h && writesHeld s) then { s' with rxq := s.rxq ++ [h] }
  else boxServe s' m raw

/-- Count a discarded PDU. -/
def discardPdu (s : State) : State := dcount s kPdusDiscarded 1

/-- Field-network PDUs that the receive queue holds. -/
def netHeld (s : State) : Nat := (s.rxq.filter (fun h => match h with | .pdu (.net _ _) _ => true | _ => false)).length

/-- All-nodes group address. -/
abbrev allNodes : Nat := 0xFF02 * 2 ^ 112 + 1

/-- A datagram to this package's Fovis port whose checksum is right; every other is discarded (R510, R511). DEDUCED (log entry 104). -/
def netOk (s : State) (addr port dst dport sum : Nat) (pdu : List Byte) : Bool :=
  !s.netDup && dport == s.netPort && (dst == linkLocal s || dst / 2 ^ 120 == 0xFF) && sum == udpSum addr dst port dport pdu

/-- A PDU from the field network (R511, R512, R523); none is counted while LIFETIME_STATE is LOADING (R525). DEDUCED (log entry 104). -/
def netRow (op addr port dst : Nat) (pdu : List Byte) (s : State) : State :=
  if dget s kLifetimeState = 0 then s
  else
    let t := dcount s kPdusReceived 1
    match parsePdu pdu with
    | none => discardPdu t
    | some p =>
      if p.op != op then s
      else if 16 ≤ netHeld s || (dst != linkLocal s && (dst != allNodes || op != 4)) then discardPdu t
      else if op = 2 && writesHeld s then { t with rxq := t.rxq ++ [.pdu (.net addr port) pdu] }
      else netServe t addr port p

/-- A UDP datagram of the field network. -/
def udpRow (op addr port dst dport sum : Nat) (pdu : List Byte) (s : State) : State :=
  if netOk s addr port dst dport sum pdu then netRow op addr port dst pdu s else s

/-- A fragment of a datagram: once the set is whole, the datagram is received; a set older than 60 s, or beyond 8,192 bytes of payload, is
dropped. One that repeats another exactly is passed over, one that overlaps another abandons the set with all that is still to come of it,
and one that is not the last must be a multiple of 8 bytes (R510, RFC 8200). PRESUMED (log entry 109). -/
def fragRow (op addr dst ident off : Nat) (more : Bool) (bytes : List Byte) (s : State) : State :=
  let mine := fun (r : Reasm) => r.addr == addr && r.dst == dst && r.ident == ident
  let old := s.reasm.filter (fun r => decide (timeNs s < r.since + 60000000000))
  let r := (old.find? mine).getD { addr := addr, dst := dst, ident := ident, parts := [], last := none, since := timeNs s }
  let others := old.filter (fun x => !mine x)
  if (more && bytes.length % 8 != 0) || r.dead || r.parts.contains (off, bytes) then { s with reasm := old }
  else if r.parts.any (fun p => overlap p.1 p.2.length off bytes.length) then { s with reasm := others ++ [{ r with dead := true, parts := [] }] }
  else
  let r := { r with parts := r.parts ++ [(off, bytes)], last := if more then r.last else some (off + bytes.length) }
  let whole := match r.last with | some n => n ≤ coverGo (r.parts.map (fun p => (p.1, p.2.length))) r.parts.length 0 | none => false
  let pkt := memRead (r.parts.foldl (fun m p => memWrite m p.1 p.2) []) 0 (r.last.getD 0)
  if r.parts.any (fun p => 8200 < p.1 + p.2.length) then { s with reasm := others }
  else if !whole then { s with reasm := others ++ [r] }
  else
    let f := fun (i : Nat) => beNat ((pkt.drop i).take 2)
    if pkt.length < 8 || f 4 != pkt.length then { s with reasm := others }
    else udpRow op addr (f 0) dst (f 2) (f 6) (pkt.drop 8) { s with reasm := others }

/-- A Fovis request reaches the arbiter (R521, R525). -/
def fovisRow (op : Nat) (src : FovisSrc) (at_ : Nat) (s : State) : State :=
  let s := fovisPump (atTime s at_)
  match src with
  | .hdie m h => if m < 8 then boxRow op m h s else s
  | .cxl m => if m < 2 then boxRow op (8 + m) none s else s
  | .net a p d dp sum pdu => udpRow op a p d dp sum pdu s
  | .frag a d i o m bs => fragRow op a d i o m bs s

/-- FOVIS_READ (R518). -/
def execFovisRead (src : FovisSrc) (at_ : Nat) (s : State) : Host.Outcome State Fault Refusal := whenUp s (fovisRow 1 src at_ s)

/-- FOVIS_WRITE (R518, R522, R524). -/
def execFovisWrite (src : FovisSrc) (at_ : Nat) (s : State) : Host.Outcome State Fault Refusal := whenUp s (fovisRow 2 src at_ s)

/-- DESCRIBE (R520). -/
def execDescribe (src : FovisSrc) (at_ : Nat) (s : State) : Host.Outcome State Fault Refusal := whenUp s (fovisRow 3 src at_ s)

/-- DISCOVER (R518). -/
def execDiscover (src : FovisSrc) (at_ : Nat) (s : State) : Host.Outcome State Fault Refusal := whenUp s (fovisRow 4 src at_ s)

/-- BUNDLE_OPEN (R527). -/
def execBundleOpen (src : FovisSrc) (at_ : Nat) (s : State) : Host.Outcome State Fault Refusal :=
  whenUp s (fovisRow 0x10 src at_ s)

/-- BUNDLE_DATA (R527). -/
def execBundleData (src : FovisSrc) (at_ : Nat) (s : State) : Host.Outcome State Fault Refusal :=
  whenUp s (fovisRow 0x11 src at_ s)

/-- BUNDLE_APPLY (R527, R529). -/
def execBundleApply (src : FovisSrc) (at_ : Nat) (s : State) : Host.Outcome State Fault Refusal :=
  whenUp s (fovisRow 0x12 src at_ s)

/-- BUNDLE_CANCEL (R527). -/
def execBundleCancel (src : FovisSrc) (at_ : Nat) (s : State) : Host.Outcome State Fault Refusal :=
  whenUp s (fovisRow 0x13 src at_ s)

/-- BUNDLE_VERIFY_DONE: both signatures have been checked (R529, R552, R554); the arbiter is held while an earlier write waits. The row's two
results are those that the verifier itself finds. DESIGN CHOICE (log entry 118). -/
def execBundleVerifyDone (_rsaOk : Bool) (_slhOk : Bool) (s : State) : Host.Outcome State Fault Refusal :=
  whenUp s (
    let s := fovisPump s
    match s.trust.queue, s.bundle with
    | .bundle :: _, some b =>
      match b.applying with
      | none => s
      | some idb =>
        if writesHeld s || b.next.isSome then s
        else
          let body := bundleBody b
          let ok := decide (16672 ≤ b.len) && (match bundleKeys s body with
            | some ks => itemOk 1 ks body ((memRead b.bytes 0 b.len).drop (b.len - 16672))
            | none => false)
          let s := verified s (if ok then 1 else 7)
          trustPop (if ok then bundleRun s b (leNat idb) else bundleEnds s b.owner (leNat idb) 0 stSeal false)
    | _, _ => s)

/-- BUNDLE_OWNER_TIMEOUT: 10 s of TIME without a bundle operation from the owner (R527). -/
def execBundleOwnerTimeout (at_ : Nat) (s : State) : Host.Outcome State Fault Refusal :=
  whenUp s (
    let s := atTime s at_
    match s.bundle with
    | some b => if b.applying.isNone && decide (b.last + 10000000000 ≤ timeNs s) then { s with bundle := none } else s
    | none => s)

/-- REPLY_CACHE_EXPIRY: replies older than 1 s of TIME go (R512). -/
def execReplyCacheExpiry (at_ : Nat) (s : State) : Host.Outcome State Fault Refusal :=
  whenUp s (
    let s := atTime s at_
    { s with cached := s.cached.filter (fun c => decide (timeNs s < c.since + cacheNs)) })

/-! ### Neighbours and echo (R510) -/

/-- NEIGHBOUR_SOLICITATION of the package's address: a neighbour advertisement answers, to all nodes when duplicate address detection
asks, and a neighbour that asks is resolved. One that asks for the address in the second after the package's own solicitation has the same
address, which is a duplicate: the port is then silent (R510). PRESUMED (log entry 109). -/
def execNeighbourSolicitation (src : Nat) (target : Nat) (s : State) : Host.Outcome State Fault Refusal :=
  whenUp s (
    let me := linkLocal s
    if target != me then s
    else if src = 0 && timeNs s < 1000000000 then { s with netDup := true }
    else
      let dst := if src = 0 then 0xFF02 * 2 ^ 112 + 1 else src
      let flags : Byte := if src = 0 then 0x20 else 0x60
      let t := if src = 0 || s.neigh.contains src then s else { s with neigh := s.neigh ++ [src] }
      netOut t dst 0 0 (icmp me dst 136 ([flags, 0, 0, 0] ++ beBytes 16 me ++ [2, 1] ++ macBytes s)))

/-- ICMPV6_ECHO_REQUEST to the package's address: an echo reply with the same body (R510). PRESUMED (log entry 109). -/
def execIcmpv6EchoRequest (src : Nat) (dst : Nat) (body : List Byte) (s : State) : Host.Outcome State Fault Refusal :=
  whenUp s (if dst != linkLocal s then s else netOut s src 0 0 (icmp dst src 129 body))

end Sys2Proof.Machine
end

