-- ==== Sys2Proof/Machine/Arbiter.lean ====
section
/-! DEFINITION. The commands after which the dictionary arbiter serves what it held: the end of the lifetime load and the ends of requests
that an EPOCH_ADVANCE waits for (R502, R522, R525). -/
namespace Sys2Proof.Machine
open Sys2Proof Config

/-- LIFETIME_LOAD_DONE: the records are taken over, and a GO that was written meanwhile is served (R481, R525). -/
def execLifetimeLoadDone (s : State) : Host.Outcome State Fault Refusal := whenUp s (fovisPump (lifetimeLoad s))

/-- READ_RESP (R352). -/
def execReadResp (port : Nat) (f : Flit) (s : State) : Host.Outcome State Fault Refusal := whenUp s (fovisPump (readResp s port f))

/-- WRITE_ACK (R352, R397). -/
def execWriteAck (port : Nat) (f : Flit) (s : State) : Host.Outcome State Fault Refusal := whenUp s (fovisPump (writeAck s port f))

/-- ATOMIC_RESP (R352). -/
def execAtomicResp (port : Nat) (f : Flit) (s : State) : Host.Outcome State Fault Refusal := whenUp s (fovisPump (atomicResp s port f))

/-- REPLY_TIMEOUT_EXPIRY: a request without a reply ends NO_REPLY (R354, R358). -/
def execReplyTimeoutExpiry (fd tag at_ : Nat) (s0 : State) : Host.Outcome State Fault Refusal :=
  whenUp s0 (fovisPump (collSettle (replyTimeout fd tag (atTime s0 at_))))

end Sys2Proof.Machine
end

