-- ==== Sys2Proof/Machine/Cc.lean ====
section
/-! DEFINITION. The control core's instructions (R101, R142–R149): one meaning per row. -/
namespace Sys2Proof.Machine
open Sys2Proof Config

/-- What a meaning answers: every command of this family has an effect on every state. -/
abbrev Out := Host.Outcome State Fault Refusal

/-- ADDI: gD := gA + sign-extended IMM, modulo 2^64 (R142). NOP is ADDI g0, g0, 0. -/
def execAddi (n : Nat) (s : State) : Out := whenUp s (ccReg n (fun w => iClass w == 0)
    (fun w r => gSet r (bitsOf w 25 21) (gGet r (bitsOf w 20 16) + (BitVec.ofNat 16 (bitsOf w 15 0)).signExtend 64)) s)

/-- ANDI: gD := gD op sign-extended IMM (R145). -/
def execAndi (n : Nat) (s : State) : Out := whenUp s (immG n 0 (· &&& ·) s)

/-- ORI: gD := gD op sign-extended IMM (R145). -/
def execOri (n : Nat) (s : State) : Out := whenUp s (immG n 1 (· ||| ·) s)

/-- XORI: gD := gD op sign-extended IMM (R145). -/
def execXori (n : Nat) (s : State) : Out := whenUp s (immG n 2 (· ^^^ ·) s)

/-- MULI: gD := gD op sign-extended IMM (R145). -/
def execMuli (n : Nat) (s : State) : Out := whenUp s (immG n 3 (· * ·) s)

/-- MINI: gD := gD op sign-extended IMM (R145). -/
def execMini (n : Nat) (s : State) : Out := whenUp s (immG n 4 opMin s)

/-- MAXI: gD := gD op sign-extended IMM (R145). -/
def execMaxi (n : Nat) (s : State) : Out := whenUp s (immG n 5 opMax s)

/-- MINUI: gD := gD op sign-extended IMM (R145). -/
def execMinui (n : Nat) (s : State) : Out := whenUp s (immG n 6 opMinu s)

/-- MAXUI: gD := gD op sign-extended IMM (R145). -/
def execMaxui (n : Nat) (s : State) : Out := whenUp s (immG n 7 opMaxu s)

/-- SUBI: gD := gD op sign-extended IMM (R145). -/
def execSubi (n : Nat) (s : State) : Out := whenUp s (immG n 8 (· - ·) s)

/-- LDIMM: IMM into quarter 0–3 of gD, the others kept (R145). -/
def execLdimm (n : Nat) (s : State) : Out := whenUp s (ccReg n (fun w => iClass w == 2 && 0x0C ≤ iIop w && iIop w ≤ 0x0F)
    (fun w r => let d := bitsOf w 20 16
                let q := iIop w % 4
                gSet r d (putField (gGet r d) (16 * q + 15) (16 * q) (bitsOf w 15 0))) s)

/-- ADD: gD := gA op gB (R101). -/
def execAdd (n : Nat) (s : State) : Out := whenUp s (triG n 0x00 (· + ·) s)

/-- WADD: the operation on the active lanes (R106). -/
def execWadd (n : Nat) (s : State) : Out := whenUp s (triW n 0x00 (· + ·) s)

/-- SUB: gD := gA op gB (R101). -/
def execSub (n : Nat) (s : State) : Out := whenUp s (triG n 0x01 (· - ·) s)

/-- WSUB: the operation on the active lanes (R106). -/
def execWsub (n : Nat) (s : State) : Out := whenUp s (triW n 0x01 (· - ·) s)

/-- AND: gD := gA op gB (R101). -/
def execAnd (n : Nat) (s : State) : Out := whenUp s (triG n 0x02 (· &&& ·) s)

/-- WAND: the operation on the active lanes (R106). -/
def execWand (n : Nat) (s : State) : Out := whenUp s (triW n 0x02 (· &&& ·) s)

/-- OR: gD := gA op gB (R101). -/
def execOr (n : Nat) (s : State) : Out := whenUp s (triG n 0x03 (· ||| ·) s)

/-- WOR: the operation on the active lanes (R106). -/
def execWor (n : Nat) (s : State) : Out := whenUp s (triW n 0x03 (· ||| ·) s)

/-- XOR: gD := gA op gB (R101). -/
def execXor (n : Nat) (s : State) : Out := whenUp s (triG n 0x04 (· ^^^ ·) s)

/-- WXOR: the operation on the active lanes (R106). -/
def execWxor (n : Nat) (s : State) : Out := whenUp s (triW n 0x04 (· ^^^ ·) s)

/-- SLL: gD := gA op gB (R101). -/
def execSll (n : Nat) (s : State) : Out := whenUp s (triG n 0x05 opSll s)

/-- WSLL: the operation on the active lanes (R106). -/
def execWsll (n : Nat) (s : State) : Out := whenUp s (triW n 0x05 opSll s)

/-- SRL: gD := gA op gB (R101). -/
def execSrl (n : Nat) (s : State) : Out := whenUp s (triG n 0x06 opSrl s)

/-- WSRL: the operation on the active lanes (R106). -/
def execWsrl (n : Nat) (s : State) : Out := whenUp s (triW n 0x06 opSrl s)

/-- SRA: gD := gA op gB (R101). -/
def execSra (n : Nat) (s : State) : Out := whenUp s (triG n 0x07 opSra s)

/-- WSRA: the operation on the active lanes (R106). -/
def execWsra (n : Nat) (s : State) : Out := whenUp s (triW n 0x07 opSra s)

/-- MUL: gD := gA op gB (R101). -/
def execMul (n : Nat) (s : State) : Out := whenUp s (triG n 0x08 (· * ·) s)

/-- WMUL: the operation on the active lanes (R106). -/
def execWmul (n : Nat) (s : State) : Out := whenUp s (triW n 0x08 (· * ·) s)

/-- MULHU: gD := gA op gB (R101). -/
def execMulhu (n : Nat) (s : State) : Out := whenUp s (triG n 0x09 opMulhu s)

/-- WMULHU: the operation on the active lanes (R106). -/
def execWmulhu (n : Nat) (s : State) : Out := whenUp s (triW n 0x09 opMulhu s)

/-- MIN: gD := gA op gB (R101). -/
def execMin (n : Nat) (s : State) : Out := whenUp s (triG n 0x0A opMin s)

/-- WMIN: the operation on the active lanes (R106). -/
def execWmin (n : Nat) (s : State) : Out := whenUp s (triW n 0x0A opMin s)

/-- MAX: gD := gA op gB (R101). -/
def execMax (n : Nat) (s : State) : Out := whenUp s (triG n 0x0B opMax s)

/-- WMAX: the operation on the active lanes (R106). -/
def execWmax (n : Nat) (s : State) : Out := whenUp s (triW n 0x0B opMax s)

/-- MINU: gD := gA op gB (R101). -/
def execMinu (n : Nat) (s : State) : Out := whenUp s (triG n 0x0C opMinu s)

/-- WMINU: the operation on the active lanes (R106). -/
def execWminu (n : Nat) (s : State) : Out := whenUp s (triW n 0x0C opMinu s)

/-- MAXU: gD := gA op gB (R101). -/
def execMaxu (n : Nat) (s : State) : Out := whenUp s (triG n 0x0D opMaxu s)

/-- WMAXU: the operation on the active lanes (R106). -/
def execWmaxu (n : Nat) (s : State) : Out := whenUp s (triW n 0x0D opMaxu s)

/-- SLLI: gD := gA shifted by SH (R146, R149). -/
def execSlli (n : Nat) (s : State) : Out := whenUp s (shiftG n 0x0E opSll s)

/-- SRLI: gD := gA shifted by SH (R146, R149). -/
def execSrli (n : Nat) (s : State) : Out := whenUp s (shiftG n 0x0F opSrl s)

/-- SRAI: gD := gA shifted by SH (R146, R149). -/
def execSrai (n : Nat) (s : State) : Out := whenUp s (shiftG n 0x10 opSra s)

/-- CMPEQ: pD := gA cmp gB (R101). -/
def execCmpeq (n : Nat) (s : State) : Out := whenUp s (cmpG n 0x11 (fun a b => a == b) s)

/-- CMPNE: pD := gA cmp gB (R101). -/
def execCmpne (n : Nat) (s : State) : Out := whenUp s (cmpG n 0x12 (fun a b => a != b) s)

/-- CMPLT: pD := gA cmp gB (R101). -/
def execCmplt (n : Nat) (s : State) : Out := whenUp s (cmpG n 0x13 (fun a b => sInt a < sInt b) s)

/-- CMPLTU: pD := gA cmp gB (R101). -/
def execCmpltu (n : Nat) (s : State) : Out := whenUp s (cmpG n 0x14 (fun a b => a.toNat < b.toNat) s)

/-- CMPGE: pD := gA cmp gB (R101). -/
def execCmpge (n : Nat) (s : State) : Out := whenUp s (cmpG n 0x15 (fun a b => sInt b ≤ sInt a) s)

/-- CMPGEU: pD := gA cmp gB (R101). -/
def execCmpgeu (n : Nat) (s : State) : Out := whenUp s (cmpG n 0x16 (fun a b => b.toNat ≤ a.toNat) s)

/-- FCMPEQ: pD := fA cmp fB; a NaN gives 0, invalid on signalling NaNs only (R101). -/
def execFcmpeq (n : Nat) (s : State) : Out := whenUp s (cmpF n 0x17 true false (fun o => o == .eq) s)

/-- FCMPLT: pD := fA cmp fB; a NaN gives 0, invalid on any NaN (R101). -/
def execFcmplt (n : Nat) (s : State) : Out := whenUp s (cmpF n 0x18 false false (fun o => o == .lt) s)

/-- FCMPLE: pD := fA cmp fB; a NaN gives 0, invalid on any NaN (R101). -/
def execFcmple (n : Nat) (s : State) : Out := whenUp s (cmpF n 0x19 false false (fun o => o != .gt) s)

/-- FCMPGT: pD := fA cmp fB; a NaN gives 0, invalid on any NaN (R101). -/
def execFcmpgt (n : Nat) (s : State) : Out := whenUp s (cmpF n 0x1A false false (fun o => o == .gt) s)

/-- FCMPUN: pD := fA cmp fB; a NaN gives 1, invalid on signalling NaNs only (R101). -/
def execFcmpun (n : Nat) (s : State) : Out := whenUp s (cmpF n 0x1B true true (fun _ => false) s)

/-- PAND on predicates (R101). -/
def execPand (n : Nat) (s : State) : Out := whenUp s (predOp n 0x1C (fun a b => a && b) s)

/-- POR on predicates (R101). -/
def execPor (n : Nat) (s : State) : Out := whenUp s (predOp n 0x1D (fun a b => a || b) s)

/-- PXOR on predicates (R101). -/
def execPxor (n : Nat) (s : State) : Out := whenUp s (predOp n 0x1E (fun a b => a != b) s)

/-- PNOT on predicates (R101). -/
def execPnot (n : Nat) (s : State) : Out := whenUp s (predOp n 0x1F (fun a _ => !a) s)

/-- FADD: one rounding under RM and SUBNORMALS (R101). -/
def execFadd (n : Nat) (s : State) : Out := whenUp s (triF n 0x20 fpAdd s)

/-- WFADD: the operation on the active lanes (R106). -/
def execWfadd (n : Nat) (s : State) : Out := whenUp s (triWF n 0x20 fpAdd s)

/-- FSUB: one rounding under RM and SUBNORMALS (R101). -/
def execFsub (n : Nat) (s : State) : Out := whenUp s (triF n 0x21 fpSub s)

/-- WFSUB: the operation on the active lanes (R106). -/
def execWfsub (n : Nat) (s : State) : Out := whenUp s (triWF n 0x21 fpSub s)

/-- FMUL: one rounding under RM and SUBNORMALS (R101). -/
def execFmul (n : Nat) (s : State) : Out := whenUp s (triF n 0x22 fpMul s)

/-- WFMUL: the operation on the active lanes (R106). -/
def execWfmul (n : Nat) (s : State) : Out := whenUp s (triWF n 0x22 fpMul s)

/-- FDIV: one rounding under RM and SUBNORMALS (R101). -/
def execFdiv (n : Nat) (s : State) : Out := whenUp s (triF n 0x23 fpDiv s)

/-- WFDIV: the operation on the active lanes (R106). -/
def execWfdiv (n : Nat) (s : State) : Out := whenUp s (triWF n 0x23 fpDiv s)

/-- FSQRT: one rounding under RM and SUBNORMALS (R101). -/
def execFsqrt (n : Nat) (s : State) : Out := whenUp s (triF n 0x24 fpSqrt s)

/-- WFSQRT: the operation on the active lanes (R106). -/
def execWfsqrt (n : Nat) (s : State) : Out := whenUp s (triWF n 0x24 fpSqrt s)

/-- FMIN: one rounding under RM and SUBNORMALS (R101). -/
def execFmin (n : Nat) (s : State) : Out := whenUp s (triF n 0x25 fpMin s)

/-- WFMIN: the operation on the active lanes (R106). -/
def execWfmin (n : Nat) (s : State) : Out := whenUp s (triWF n 0x25 fpMin s)

/-- FMAX: one rounding under RM and SUBNORMALS (R101). -/
def execFmax (n : Nat) (s : State) : Out := whenUp s (triF n 0x26 fpMax s)

/-- WFMAX: the operation on the active lanes (R106). -/
def execWfmax (n : Nat) (s : State) : Out := whenUp s (triWF n 0x26 fpMax s)

/-- FABS: a bit operation (R59, R101). -/
def execFabs (n : Nat) (s : State) : Out := whenUp s (signBits 0x27 bitsAbs n s)

/-- WFABS: a bit operation on the active lanes (R59, R106). -/
def execWfabs (n : Nat) (s : State) : Out := whenUp s (signBitsW 0x27 bitsAbs n s)

/-- FNEG: a bit operation (R59, R101). -/
def execFneg (n : Nat) (s : State) : Out := whenUp s (signBits 0x28 bitsNeg n s)

/-- WFNEG: a bit operation on the active lanes (R59, R106). -/
def execWfneg (n : Nat) (s : State) : Out := whenUp s (signBitsW 0x28 bitsNeg n s)

/-- FCVT with KIND 0 (R148). -/
def execFcvtFp64ToSigned (n : Nat) (s : State) : Out := whenUp s (ccFcvt n 0 s)

/-- FCVT with KIND 1 (R148). -/
def execFcvtFp64ToUnsigned (n : Nat) (s : State) : Out := whenUp s (ccFcvt n 1 s)

/-- FCVT with KIND 2 (R148). -/
def execFcvtSignedToFp64 (n : Nat) (s : State) : Out := whenUp s (ccFcvt n 2 s)

/-- FCVT with KIND 3 (R148). -/
def execFcvtUnsignedToFp64 (n : Nat) (s : State) : Out := whenUp s (ccFcvt n 3 s)

/-- WFCVT: FCVT of the active lanes by KIND (R106, R148). -/
def execWfcvt (n : Nat) (s : State) : Out := whenUp s (ccRow n (isVector 0x29) (fun x s =>
    let r := regsOf x s
    (putLanes x s (tD x.w) ((lanes r).map (fun j =>
      (j, fcvt (tB x.w) (rmOf s (tRm x.w)) (flushOn s) (wGet r (tA x.w) j)))), true)) s)

/-- FMA: fD := fA × fB + fC with one rounding (R143). -/
def execFma (n : Nat) (s : State) : Out := whenUp s (ccRow n (isSub 0) (fun x s =>
    let r := regsOf x s
    let g := fun hi lo => rd64 s (fGet r (bitsOf x.w hi lo))
    let o := fpFma (rmOf s (bitsOf x.w 2 0)) (flushOn s) (g 17 13) (g 12 8) (g 7 3)
    (ccRaise x (ccRegs x s (fun r => fSet r (bitsOf x.w 22 18) (BitVec.ofNat 64 o.1))) [(0, o.2)], true)) s)

/-- WFMA: FMA of the active lanes (R143). -/
def execWfma (n : Nat) (s : State) : Out := whenUp s (ccRow n (isSub 1) (fun x s =>
    let r := regsOf x s
    let g := fun hi lo j => rd64 s (wGet r (bitsOf x.w hi lo) j)
    (putLanes x s (bitsOf x.w 22 18) ((lanes r).map (fun j =>
      (j, fpFma (rmOf s (bitsOf x.w 2 0)) (flushOn s) (g 17 13 j) (g 12 8 j) (g 7 3 j)))), true)) s)

/-- FMVG: fD := gA unchanged (R101). -/
def execFmvg (n : Nat) (s : State) : Out := whenUp s (ccReg n (isMinor 0x2A) (fun w r => fSet r (tD w) (gGet r (tA w))) s)

/-- GMVF: gD := fA unchanged (R101). -/
def execGmvf (n : Nat) (s : State) : Out := whenUp s (ccReg n (isMinor 0x2B) (fun w r => gSet r (tD w) (fGet r (tA w))) s)

/-- FMVS: fD := sumA (R101, R147). -/
def execFmvs (n : Nat) (s : State) : Out := whenUp s (ccReg n (isMinor 0x2C) (fun w r => fSet r (tD w) (sumGet r (tA w))) s)

/-- WBCAST: active lanes of wD := fA (R147). -/
def execWbcast (n : Nat) (s : State) : Out := whenUp s (ccReg n (isMinor 0x2D) (fun w r => (lanes r).foldl (fun q j => wSet q (tD w) j (fGet r (tA w))) r) s)

/-- WGATHER (R107). -/
def execWgather (n : Nat) (s : State) : Out := whenUp s (ccWgather n s)

/-- WSCATTER (R107). -/
def execWscatter (n : Nat) (s : State) : Out := whenUp s (ccWscatter n s)

/-- WREDADD: lanes added in order, one rounding each (R108). -/
def execWredadd (n : Nat) (s : State) : Out := whenUp s (wred n 0x30 fpAdd s)

/-- WREDMAX (R108). -/
def execWredmax (n : Nat) (s : State) : Out := whenUp s (wred n 0x31 fpMax s)

/-- SETSVL: svl := IMM or gA; a value above 8 is illegal (R106, R149). DEDUCED (log entry 24). -/
def execSetsvl (n : Nat) (s : State) : Out := whenUp s (ccRow n (isMinor 0x32) (fun x s =>
    let v := if bitOf x.w 4 then (gGet (regsOf x s) (tA x.w)).toNat else bitsOf x.w 3 0
    if 8 < v then ccSkipped x s stIllegal else (ccRegs x s (fun r => { r with svl := v }), true)) s)

/-- LD: 64 bits of the core store into g (R103, R104). -/
def execLd (n : Nat) (s : State) : Out := whenUp s (ccLoad n 2 0 gSet s)

/-- ST (R103). -/
def execSt (n : Nat) (s : State) : Out := whenUp s (ccStore n 3 gGet s)

/-- FLD (R103, R104). -/
def execFld (n : Nat) (s : State) : Out := whenUp s (ccLoad n 4 qnan64 fSet s)

/-- FST (R103). -/
def execFst (n : Nat) (s : State) : Out := whenUp s (ccStore n 5 fGet s)

/-- WLD: active lanes of a 64-byte block (R103, R106). -/
def execWld (n : Nat) (s : State) : Out := whenUp s (ccWld n s)

/-- WST (R103, R106). -/
def execWst (n : Nat) (s : State) : Out := whenUp s (ccWst n s)

/-- MOVS: a special register into g; TIME is skipped under the lock (R109). -/
def execMovs (n : Nat) (s : State) : Out := whenUp s (ccRow n (isMinor 0x33) (fun x s =>
    if tA x.w = 8 && locked s then ccSkipped x s stDet
    else (ccRegs x s (fun r => gSet r (tD x.w) (BitVec.ofNat 64 (special x s (tA x.w)))), true)) s)

/-- PUSH: the template is patched, checked and enqueued, or a void entry is (R126, R127). -/
def execPush (n : Nat) (s : State) : Out := whenUp s (ccPush n s)

/-- POST (R129). -/
def execPost (n : Nat) (s : State) : Out := whenUp s (ccPost n s)

/-- WAIT (R129). -/
def execWait (n : Nat) (s : State) : Out := whenUp s (ccWaitStep n s)

/-- A wait held for longer than TOKEN_STALL_LIMIT is released (R131). -/
def execTokenStallRelease (n : Nat) (u : Waiter) (at_ : Nat) (s : State) : Out := whenUp s (stallRelease n u (atTime s at_))

/-- SELECT: the slot of candidate CAND is the selection (R122). -/
def execSelect (n : Nat) (s : State) : Out := whenUp s (ccRow n (isMinor 0x37) (fun x s =>
    let c := coreAt s x.k
    let f := candField (formeWord c (slotBase c x.r.slot + 8)) (bitsOf x.w 1 0)
    if f.1 then (modCore s x.k (fun c => { c with run := c.run.map (fun r => { r with sel := some f.2 }) }), true)
    else (logEvent s x.k 0 cdSelectInvalid x.off x.r.iter, true)) s)

/-- SETRPT: the carried count := gA; above 2^32 − 1 it is illegal (R121). DEDUCED (log entry 24). -/
def execSetrpt (n : Nat) (s : State) : Out := whenUp s (ccRow n (isMinor 0x38) (fun x s =>
    let v := (gGet (regsOf x s) (tA x.w)).toNat
    if max32 < v then ccSkipped x s stIllegal
    else (modCore s x.k (fun c => { c with carry := some v }), true)) s)

end Sys2Proof.Machine
end

