-- ==== Sys2Proof/Machine/Queue.lean ====
section
/-! DEFINITION. Void entries and NOOPs (R127, R151, R152): the two rows that any of the five queues may hold at its head. An
engine reaches them in queue order, when the command before them has retired (R126, R128). -/
namespace Sys2Proof.Machine
open Sys2Proof Config

/-- Solver engine `e` can serve a head that needs no array beat: no solve in progress, its domain ON (R237, R263, R450). -/
def seIdle (s : State) (e : Nat) : Bool :=
  (engineAt s e).job.isNone && ((domAt s (336 + e)).st == 2 || s.grade == 3)

/-- The engine of a queue has reached the queue's head: the command before it has retired (R126, R128), a stopped DE takes none
(R322), and the solver engine takes heads in the order of its cores (R237). -/
def queueFree (s : State) (n : Nat) (c : Core) : QueueId → Bool
  | .mq => c.meJob.isNone
  | .vq => c.veJob.isNone
  | .dq => c.de.job.isNone && c.de.chain.isNone && !c.de.stop
  | .cq => c.coll.stage == 0
  | .sq => seIdle s (engineOf s n) && (sePick s (engineOf s n)).map (·.1) == some n

/-- The solver engine takes a command (R237, R448); on GZ-9S, where it has no supply, it has no V-step. -/
def served (n : Nat) (q : QueueId) (s : State) : State :=
  if q != .sq then s
  else if s.grade = 3 then modEngine s (engineOf s n) (fun g => { g with last := some n })
  else seTake s (engineOf s n) n

/-- VOID_ENTRY: the engine retires a void entry: it has waited, it posts, and has no other effect (R127, R152). -/
def execVoidEntry (n : Nat) (q : QueueId) (s : State) : Host.Outcome State Fault Refusal :=
  whenUp s (match keyOf s n with
    | none => s
    | some k =>
      let c := coreAt s k
      match queueOf c q with
      | [] => s
      | x :: _ =>
        if !headReady c q || !x.void || !queueFree s n c q then s
        else postCmd (served n q (putCore s k (takeHead (timeNs s) c q))) k (queueSource q) x)

/-- A NOOP's own status: a stale launch's CQ command is EPOCH_STALE (R19, R367); CTRL and words 1–3 must be zero (R151); where no solver engine serves the core, an SQ command that
passes its checks is skipped with SKIPPED_FUSED (R163, R470). -/
def noopStatus (s : State) (n : Nat) (q : QueueId) (x : Cmd) : Nat :=
  if q == .cq && (match keyOf s n with | some k => epochStale s k | none => false) then stEpochStale
  else if fld x.w0 27 0 != 0 || x.w1 != 0 || x.w2 != 0 || x.w3 != 0 then stIllegal
  else if q == .sq && (s.grade == 3 || (engineAt s (engineOf s n)).failed) then stFused
  else stOk

/-- NOOP: the engine waits, posts and does nothing else (R151); it counts neither in VE_COMMANDS nor in SE_COMMANDS. DESIGN CHOICE (log entry 153). -/
def execNoop (n : Nat) (q : QueueId) (s : State) : Host.Outcome State Fault Refusal :=
  whenUp s (engineRow n q (fun x => w0Op x.w0 == 0) (fun s _ c => !queueFree s n c q)
    (fun e s =>
      let st := noopStatus s n q e.x
      exEnd e (dcount (served n q s) kEpochStaleSkips (b2n (st == stEpochStale))) st) s)

end Sys2Proof.Machine
end

