-- ==== Sys2Proof/Machine/Ve.lean ====
section
/-! DEFINITION. The vector engine's commands (R157): one meaning per row. -/
namespace Sys2Proof.Machine
open Sys2Proof Config

/-- VADD element by element with one rounding (R157, R209). -/
def execVadd (n : Nat) (s : State) : Host.Outcome State Fault Refusal := whenUp s (veRow n (isOp 0x01) (elementwise eAdd) s)

/-- VSUB element by element with one rounding (R157, R209). -/
def execVsub (n : Nat) (s : State) : Host.Outcome State Fault Refusal := whenUp s (veRow n (isOp 0x02) (elementwise eSub) s)

/-- VMUL element by element with one rounding (R157, R209). -/
def execVmul (n : Nat) (s : State) : Host.Outcome State Fault Refusal := whenUp s (veRow n (isOp 0x03) (elementwise eMul) s)

/-- VDIV element by element with one rounding (R157, R209). -/
def execVdiv (n : Nat) (s : State) : Host.Outcome State Fault Refusal := whenUp s (veRow n (isOp 0x04) (elementwise eDiv) s)

/-- VFMA element by element with one rounding (R157, R209). -/
def execVfma (n : Nat) (s : State) : Host.Outcome State Fault Refusal := whenUp s (veRow n (isOp 0x05) (elementwise eFma) s)

/-- VMIN element by element with one rounding (R157, R209). -/
def execVmin (n : Nat) (s : State) : Host.Outcome State Fault Refusal := whenUp s (veRow n (isOp 0x06) (elementwise eMin) s)

/-- VMAX element by element with one rounding (R157, R209). -/
def execVmax (n : Nat) (s : State) : Host.Outcome State Fault Refusal := whenUp s (veRow n (isOp 0x07) (elementwise eMax) s)

/-- VCLAMP element by element with one rounding (R157, R209). -/
def execVclamp (n : Nat) (s : State) : Host.Outcome State Fault Refusal := whenUp s (veRow n (isOp 0x08) (elementwise eClamp) s)

/-- VSQRT element by element with one rounding (R157, R209). -/
def execVsqrt (n : Nat) (s : State) : Host.Outcome State Fault Refusal := whenUp s (veRow n (isOp 0x0B) (elementwise eSqrt) s)

/-- VABS: a bit operation within one format, a conversion otherwise (R209). -/
def execVabs (n : Nat) (s : State) : Host.Outcome State Fault Refusal := whenUp s (veRow n (isOp 0x09) (signOp (fun _ => false)) s)

/-- VNEG (R209). -/
def execVneg (n : Nat) (s : State) : Host.Outcome State Fault Refusal := whenUp s (veRow n (isOp 0x0A) (signOp (fun b => !b)) s)

/-- VCVT, with block scales and the amax tap (R215, R216). -/
def execVcvt (n : Nat) (s : State) : Host.Outcome State Fault Refusal := whenUp s (veRow n (isOp 0x0C) cvtOut s)

/-- VLUT: table interpolation (R223, R224). -/
def execVlut (n : Nat) (s : State) : Host.Outcome State Fault Refusal := whenUp s (veRow n (isOp 0x0D) lutOut s)

/-- VLUTLOAD: a table into the buffer (R222). -/
def execVlutload (n : Nat) (s : State) : Host.Outcome State Fault Refusal := whenUp s (engineRow n .vq (fun x => isOp 0x0E x || 0x18 ≤ w0Op x.w0) veBusy lutLoad s)

/-- VSMACC: online softmax accumulation (R227). -/
def execVsmacc (n : Nat) (s : State) : Host.Outcome State Fault Refusal := whenUp s (veRow n (isOp 0x0F) smaccOut s)

/-- VSNORM: online softmax normalisation (R228). -/
def execVsnorm (n : Nat) (s : State) : Host.Outcome State Fault Refusal := whenUp s (veRow n (isOp 0x10) snormOut s)

/-- VRED with SUB 0 (R218). -/
def execVredSum (n : Nat) (s : State) : Host.Outcome State Fault Refusal := whenUp s (veRow n (isOpSub 0x11 0 3) redOut s)

/-- VRED with SUB 1 (R218). -/
def execVredMax (n : Nat) (s : State) : Host.Outcome State Fault Refusal := whenUp s (veRow n (isOpSub 0x11 1 3) redOut s)

/-- VRED with SUB 2 (R218). -/
def execVredMin (n : Nat) (s : State) : Host.Outcome State Fault Refusal := whenUp s (veRow n (isOpSub 0x11 2 3) redOut s)

/-- VRED with SUB 3 (R218). -/
def execVredLargestMagnitude (n : Nat) (s : State) : Host.Outcome State Fault Refusal := whenUp s (veRow n (isOpSub 0x11 3 3) redOut s)

/-- VCMP with SUB 0 EQ (R214). -/
def execVcmpEq (n : Nat) (s : State) : Host.Outcome State Fault Refusal := whenUp s (veRow n (isOpSub 0x12 0 6) cmpOut s)

/-- VCMP with SUB 1 NE (R214). -/
def execVcmpNe (n : Nat) (s : State) : Host.Outcome State Fault Refusal := whenUp s (veRow n (isOpSub 0x12 1 6) cmpOut s)

/-- VCMP with SUB 2 LT (R214). -/
def execVcmpLt (n : Nat) (s : State) : Host.Outcome State Fault Refusal := whenUp s (veRow n (isOpSub 0x12 2 6) cmpOut s)

/-- VCMP with SUB 3 LE (R214). -/
def execVcmpLe (n : Nat) (s : State) : Host.Outcome State Fault Refusal := whenUp s (veRow n (isOpSub 0x12 3 6) cmpOut s)

/-- VCMP with SUB 4 GT (R214). -/
def execVcmpGt (n : Nat) (s : State) : Host.Outcome State Fault Refusal := whenUp s (veRow n (isOpSub 0x12 4 6) cmpOut s)

/-- VCMP with SUB 5 GE (R214). -/
def execVcmpGe (n : Nat) (s : State) : Host.Outcome State Fault Refusal := whenUp s (veRow n (isOpSub 0x12 5 6) cmpOut s)

/-- VCMP with SUB 6 UN (R214). -/
def execVcmpUn (n : Nat) (s : State) : Host.Outcome State Fault Refusal := whenUp s (veRow n (isOpSub 0x12 6 6) cmpOut s)

/-- VSEL: D from A or B by the mask (R213). -/
def execVsel (n : Nat) (s : State) : Host.Outcome State Fault Refusal := whenUp s (veRow n (isOp 0x13) selOut s)

/-- VPERM in its two stages (R217). -/
def execVperm (n : Nat) (s : State) : Host.Outcome State Fault Refusal := whenUp s (engineRow n .vq (fun x => isOp 0x14 x || 0x18 ≤ w0Op x.w0) veBusy indexedRun s)

/-- VGATHER in its two stages (R217). -/
def execVgather (n : Nat) (s : State) : Host.Outcome State Fault Refusal := whenUp s (engineRow n .vq (fun x => isOp 0x15 x || 0x18 ≤ w0Op x.w0) veBusy indexedRun s)

/-- VSCATTER in its two stages (R217). -/
def execVscatter (n : Nat) (s : State) : Host.Outcome State Fault Refusal := whenUp s (engineRow n .vq (fun x => isOp 0x16 x || 0x18 ≤ w0Op x.w0) veBusy indexedRun s)

/-- VCOPY: encodings unchanged (R157). -/
def execVcopy (n : Nat) (s : State) : Host.Outcome State Fault Refusal := whenUp s (veRow n (isOp 0x17) (fun fs c f sl => moveOut fs c f (srcA c f sl)) s)

/-- A request for a galley slot has outlasted TOKEN_STALL_LIMIT: a phantom slot is served (R191). -/
def phantom (k : Nat) (s : State) (j : VeJob) : State :=
  let zero : GSlot := ⟨List.replicate 4096 0, 0, true⟩
  let job : VeJob := { j with slots := j.slots ++ [zero], since := timeNs s }
  dcount (dcount (tallySkip (modCore s k (fun c => { c with veJob := some job })) k) kGalleyPhantomSlots 1) kVeGalleySlotsRead 1

/-- GALLEY_PHANTOM_SLOT (R191): served to a command that still wants a slot, while none is FINISHED and the limit has passed; the command
computes when its last slot is this one, at its next row. -/
def execGalleyPhantomSlot (n at_ : Nat) (s0 : State) : Host.Outcome State Fault Refusal :=
  whenUp s0 (let s := atTime s0 at_
    match keyOf s n with
    | none => s
    | some k =>
      let c := coreAt s k
      match c.veJob with
      | none => s
      | some j =>
        let limit := dget s kTokenStallLimit
        let wants := (veFields s j.cmd).any (fun f => decide (j.slots.length < slotsNeeded f))
        if !wants || limit = 0 || timeNs s ≤ j.since + limit || !c.galley.isEmpty then s else phantom k s j)

end Sys2Proof.Machine
end

