-- ==== Sys2Proof/Machine/Dispatch.lean ====
section
/-! DEFINITION. One arm per command: a direct call of its meaning, or a refusal by name while it has none. -/
namespace Sys2Proof.Machine
open Sys2Proof

/-- The effect of a command on everything but the queue of waiting commands. DESIGN CHOICE (log entry 2). -/
def exec (i : Instr) (s : State) : Host.Outcome State Fault Refusal :=
  match i with
  | .powerUpResetRelease pkgpos brdpos => Sys2Proof.Machine.execPowerUpResetRelease pkgpos brdpos s
  | .vin48UnderVoltage ns => Sys2Proof.Machine.execVin48UnderVoltage ns s
  | .pkgrstNAssert ns => Sys2Proof.Machine.execPkgrstNAssert ns s
  | .cxlPerstNReset => Sys2Proof.Machine.execCxlPerstNReset s
  | .cxlFunctionLevelReset => Sys2Proof.Machine.execCxlFunctionLevelReset s
  | .coreStoreZeroingDone => Sys2Proof.Machine.execCoreStoreZeroingDone s
  | .stackTrainingDone st o => Sys2Proof.Machine.execStackTrainingDone st o s
  | .stackZeroingDone st => Sys2Proof.Machine.execStackZeroingDone st s
  | .lifetimeLoadDone => Sys2Proof.Machine.execLifetimeLoadDone s
  | .portTrainingDone port o => Sys2Proof.Machine.execPortTrainingDone port o s
  | .jobPhaseWrite v => Sys2Proof.Machine.execJobPhaseWrite v s
  | .teardownDrainComplete at_ => Sys2Proof.Machine.execTeardownDrainComplete at_ s
  | .addi n => Sys2Proof.Machine.execAddi n s
  | .andi n => Sys2Proof.Machine.execAndi n s
  | .ori n => Sys2Proof.Machine.execOri n s
  | .xori n => Sys2Proof.Machine.execXori n s
  | .muli n => Sys2Proof.Machine.execMuli n s
  | .mini n => Sys2Proof.Machine.execMini n s
  | .maxi n => Sys2Proof.Machine.execMaxi n s
  | .minui n => Sys2Proof.Machine.execMinui n s
  | .maxui n => Sys2Proof.Machine.execMaxui n s
  | .subi n => Sys2Proof.Machine.execSubi n s
  | .ldimm n => Sys2Proof.Machine.execLdimm n s
  | .add n => Sys2Proof.Machine.execAdd n s
  | .sub n => Sys2Proof.Machine.execSub n s
  | .and n => Sys2Proof.Machine.execAnd n s
  | .or n => Sys2Proof.Machine.execOr n s
  | .xor n => Sys2Proof.Machine.execXor n s
  | .sll n => Sys2Proof.Machine.execSll n s
  | .srl n => Sys2Proof.Machine.execSrl n s
  | .sra n => Sys2Proof.Machine.execSra n s
  | .mul n => Sys2Proof.Machine.execMul n s
  | .mulhu n => Sys2Proof.Machine.execMulhu n s
  | .min n => Sys2Proof.Machine.execMin n s
  | .max n => Sys2Proof.Machine.execMax n s
  | .minu n => Sys2Proof.Machine.execMinu n s
  | .maxu n => Sys2Proof.Machine.execMaxu n s
  | .slli n => Sys2Proof.Machine.execSlli n s
  | .srli n => Sys2Proof.Machine.execSrli n s
  | .srai n => Sys2Proof.Machine.execSrai n s
  | .cmpeq n => Sys2Proof.Machine.execCmpeq n s
  | .cmpne n => Sys2Proof.Machine.execCmpne n s
  | .cmplt n => Sys2Proof.Machine.execCmplt n s
  | .cmpltu n => Sys2Proof.Machine.execCmpltu n s
  | .cmpge n => Sys2Proof.Machine.execCmpge n s
  | .cmpgeu n => Sys2Proof.Machine.execCmpgeu n s
  | .fcmpeq n => Sys2Proof.Machine.execFcmpeq n s
  | .fcmplt n => Sys2Proof.Machine.execFcmplt n s
  | .fcmple n => Sys2Proof.Machine.execFcmple n s
  | .fcmpgt n => Sys2Proof.Machine.execFcmpgt n s
  | .fcmpun n => Sys2Proof.Machine.execFcmpun n s
  | .pand n => Sys2Proof.Machine.execPand n s
  | .por n => Sys2Proof.Machine.execPor n s
  | .pxor n => Sys2Proof.Machine.execPxor n s
  | .pnot n => Sys2Proof.Machine.execPnot n s
  | .fadd n => Sys2Proof.Machine.execFadd n s
  | .fsub n => Sys2Proof.Machine.execFsub n s
  | .fmul n => Sys2Proof.Machine.execFmul n s
  | .fdiv n => Sys2Proof.Machine.execFdiv n s
  | .fsqrt n => Sys2Proof.Machine.execFsqrt n s
  | .fma n => Sys2Proof.Machine.execFma n s
  | .fmin n => Sys2Proof.Machine.execFmin n s
  | .fmax n => Sys2Proof.Machine.execFmax n s
  | .fabs n => Sys2Proof.Machine.execFabs n s
  | .fneg n => Sys2Proof.Machine.execFneg n s
  | .fcvtFp64ToSigned n => Sys2Proof.Machine.execFcvtFp64ToSigned n s
  | .fcvtFp64ToUnsigned n => Sys2Proof.Machine.execFcvtFp64ToUnsigned n s
  | .fcvtSignedToFp64 n => Sys2Proof.Machine.execFcvtSignedToFp64 n s
  | .fcvtUnsignedToFp64 n => Sys2Proof.Machine.execFcvtUnsignedToFp64 n s
  | .fmvg n => Sys2Proof.Machine.execFmvg n s
  | .gmvf n => Sys2Proof.Machine.execGmvf n s
  | .fmvs n => Sys2Proof.Machine.execFmvs n s
  | .wadd n => Sys2Proof.Machine.execWadd n s
  | .wsub n => Sys2Proof.Machine.execWsub n s
  | .wand n => Sys2Proof.Machine.execWand n s
  | .wor n => Sys2Proof.Machine.execWor n s
  | .wxor n => Sys2Proof.Machine.execWxor n s
  | .wsll n => Sys2Proof.Machine.execWsll n s
  | .wsrl n => Sys2Proof.Machine.execWsrl n s
  | .wsra n => Sys2Proof.Machine.execWsra n s
  | .wmul n => Sys2Proof.Machine.execWmul n s
  | .wmulhu n => Sys2Proof.Machine.execWmulhu n s
  | .wmin n => Sys2Proof.Machine.execWmin n s
  | .wmax n => Sys2Proof.Machine.execWmax n s
  | .wminu n => Sys2Proof.Machine.execWminu n s
  | .wmaxu n => Sys2Proof.Machine.execWmaxu n s
  | .wfadd n => Sys2Proof.Machine.execWfadd n s
  | .wfsub n => Sys2Proof.Machine.execWfsub n s
  | .wfmul n => Sys2Proof.Machine.execWfmul n s
  | .wfdiv n => Sys2Proof.Machine.execWfdiv n s
  | .wfsqrt n => Sys2Proof.Machine.execWfsqrt n s
  | .wfmin n => Sys2Proof.Machine.execWfmin n s
  | .wfmax n => Sys2Proof.Machine.execWfmax n s
  | .wfabs n => Sys2Proof.Machine.execWfabs n s
  | .wfneg n => Sys2Proof.Machine.execWfneg n s
  | .wfcvt n => Sys2Proof.Machine.execWfcvt n s
  | .wfma n => Sys2Proof.Machine.execWfma n s
  | .wbcast n => Sys2Proof.Machine.execWbcast n s
  | .wgather n => Sys2Proof.Machine.execWgather n s
  | .wscatter n => Sys2Proof.Machine.execWscatter n s
  | .wredadd n => Sys2Proof.Machine.execWredadd n s
  | .wredmax n => Sys2Proof.Machine.execWredmax n s
  | .setsvl n => Sys2Proof.Machine.execSetsvl n s
  | .ld n => Sys2Proof.Machine.execLd n s
  | .st n => Sys2Proof.Machine.execSt n s
  | .fld n => Sys2Proof.Machine.execFld n s
  | .fst n => Sys2Proof.Machine.execFst n s
  | .wld n => Sys2Proof.Machine.execWld n s
  | .wst n => Sys2Proof.Machine.execWst n s
  | .movs n => Sys2Proof.Machine.execMovs n s
  | .push n => Sys2Proof.Machine.execPush n s
  | .post n => Sys2Proof.Machine.execPost n s
  | .wait n => Sys2Proof.Machine.execWait n s
  | .tokenStallRelease n u at_ => Sys2Proof.Machine.execTokenStallRelease n u at_ s
  | .select n => Sys2Proof.Machine.execSelect n s
  | .setrpt n => Sys2Proof.Machine.execSetrpt n s
  | .launchAdmission n => Sys2Proof.Machine.execLaunchAdmission n s
  | .formeBoundary n => Sys2Proof.Machine.execFormeBoundary n s
  | .logClear n v met => Sys2Proof.Machine.execLogClear n v met s
  | .flagClearWrite u v met => Sys2Proof.Machine.execFlagClearWrite u v met s
  | .captureRelease u v met => Sys2Proof.Machine.execCaptureRelease u v met s
  | .impositionGroupValidSet g v => Sys2Proof.Machine.execImpositionGroupValidSet g v s
  | .registerWrite p a v => Sys2Proof.Machine.execRegisterWrite p a v s
  | .voidEntry n q => Sys2Proof.Machine.execVoidEntry n q s
  | .noop n q => Sys2Proof.Machine.execNoop n q s
  | .mma n => Sys2Proof.Machine.execMma n s
  | .mewma n => Sys2Proof.Machine.execMewma n s
  | .gatherSegmentTake n => Sys2Proof.Machine.execGatherSegmentTake n s
  | .galleySlotReserve n => Sys2Proof.Machine.execGalleySlotReserve n s
  | .galleyStallRelease n at_ => Sys2Proof.Machine.execGalleyStallRelease n at_ s
  | .galleyPhantomSlot n at_ => Sys2Proof.Machine.execGalleyPhantomSlot n at_ s
  | .vadd n => Sys2Proof.Machine.execVadd n s
  | .vsub n => Sys2Proof.Machine.execVsub n s
  | .vmul n => Sys2Proof.Machine.execVmul n s
  | .vdiv n => Sys2Proof.Machine.execVdiv n s
  | .vfma n => Sys2Proof.Machine.execVfma n s
  | .vmin n => Sys2Proof.Machine.execVmin n s
  | .vmax n => Sys2Proof.Machine.execVmax n s
  | .vclamp n => Sys2Proof.Machine.execVclamp n s
  | .vabs n => Sys2Proof.Machine.execVabs n s
  | .vneg n => Sys2Proof.Machine.execVneg n s
  | .vsqrt n => Sys2Proof.Machine.execVsqrt n s
  | .vcvt n => Sys2Proof.Machine.execVcvt n s
  | .vlut n => Sys2Proof.Machine.execVlut n s
  | .vlutload n => Sys2Proof.Machine.execVlutload n s
  | .vsmacc n => Sys2Proof.Machine.execVsmacc n s
  | .vsnorm n => Sys2Proof.Machine.execVsnorm n s
  | .vredSum n => Sys2Proof.Machine.execVredSum n s
  | .vredMax n => Sys2Proof.Machine.execVredMax n s
  | .vredMin n => Sys2Proof.Machine.execVredMin n s
  | .vredLargestMagnitude n => Sys2Proof.Machine.execVredLargestMagnitude n s
  | .vcmpEq n => Sys2Proof.Machine.execVcmpEq n s
  | .vcmpNe n => Sys2Proof.Machine.execVcmpNe n s
  | .vcmpLt n => Sys2Proof.Machine.execVcmpLt n s
  | .vcmpLe n => Sys2Proof.Machine.execVcmpLe n s
  | .vcmpGt n => Sys2Proof.Machine.execVcmpGt n s
  | .vcmpGe n => Sys2Proof.Machine.execVcmpGe n s
  | .vcmpUn n => Sys2Proof.Machine.execVcmpUn n s
  | .vsel n => Sys2Proof.Machine.execVsel n s
  | .vperm n => Sys2Proof.Machine.execVperm n s
  | .vgather n => Sys2Proof.Machine.execVgather n s
  | .vscatter n => Sys2Proof.Machine.execVscatter n s
  | .vcopy n => Sys2Proof.Machine.execVcopy n s
  | .range e times => Sys2Proof.Machine.execRange e times s
  | .lu e times => Sys2Proof.Machine.execLu e times s
  | .chol e times => Sys2Proof.Machine.execChol e times s
  | .ldlt e times => Sys2Proof.Machine.execLdlt e times s
  | .tridiag e times => Sys2Proof.Machine.execTridiag e times s
  | .banded e times => Sys2Proof.Machine.execBanded e times s
  | .trsv e times => Sys2Proof.Machine.execTrsv e times s
  | .cg e times => Sys2Proof.Machine.execCg e times s
  | .gmres e times => Sys2Proof.Machine.execGmres e times s
  | .solverReductionReturn e sums lapse at_ => Sys2Proof.Machine.execSolverReductionReturn e sums lapse at_ s
  | .copy n => Sys2Proof.Machine.execCopy n s
  | .copyT n => Sys2Proof.Machine.execCopyT n s
  | .nmuReduceAdd n => Sys2Proof.Machine.execNmuReduceAdd n s
  | .nmuScatterAdd n => Sys2Proof.Machine.execNmuScatterAdd n s
  | .nmuGather n => Sys2Proof.Machine.execNmuGather n s
  | .nmuTransposition n => Sys2Proof.Machine.execNmuTransposition n s
  | .nmuConversion n => Sys2Proof.Machine.execNmuConversion n s
  | .chain n => Sys2Proof.Machine.execChain n s
  | .fence n => Sys2Proof.Machine.execFence n s
  | .dqAtomicIadd n => Sys2Proof.Machine.execDqAtomicIadd n s
  | .dqAtomicFadd n => Sys2Proof.Machine.execDqAtomicFadd n s
  | .dqAtomicMin n => Sys2Proof.Machine.execDqAtomicMin n s
  | .dqAtomicMax n => Sys2Proof.Machine.execDqAtomicMax n s
  | .dqAtomicSwap n => Sys2Proof.Machine.execDqAtomicSwap n s
  | .dqAtomicCas n => Sys2Proof.Machine.execDqAtomicCas n s
  | .deDescriptorComplete n => Sys2Proof.Machine.execDeDescriptorComplete n s
  | .deStop n v => Sys2Proof.Machine.execDeStop n v s
  | .deStopped n => Sys2Proof.Machine.execDeStopped n s
  | .barrier n => Sys2Proof.Machine.execBarrier n s
  | .hbreduceIntegerSum n => Sys2Proof.Machine.execHbreduceIntegerSum n s
  | .hbreduceMinimum n => Sys2Proof.Machine.execHbreduceMinimum n s
  | .hbreduceMaximum n => Sys2Proof.Machine.execHbreduceMaximum n s
  | .hbreduceAnd n => Sys2Proof.Machine.execHbreduceAnd n s
  | .hbreduceOr n => Sys2Proof.Machine.execHbreduceOr n s
  | .hbreduceXor n => Sys2Proof.Machine.execHbreduceXor n s
  | .hbreduceFx192Sum n => Sys2Proof.Machine.execHbreduceFx192Sum n s
  | .hbreduceExactFp64Sum n => Sys2Proof.Machine.execHbreduceExactFp64Sum n s
  | .allgather n => Sys2Proof.Machine.execAllgather n s
  | .reduceScatter n => Sys2Proof.Machine.execReduceScatter n s
  | .allreduceRing n => Sys2Proof.Machine.execAllreduceRing n s
  | .allreduceTree n => Sys2Proof.Machine.execAllreduceTree n s
  | .broadcast n => Sys2Proof.Machine.execBroadcast n s
  | .alltoall n => Sys2Proof.Machine.execAlltoall n s
  | .alltoallv n => Sys2Proof.Machine.execAlltoallv n s
  | .stagingReserved n at_ => Sys2Proof.Machine.execStagingReserved n at_ s
  | .collEntryRoundResult g o => Sys2Proof.Machine.execCollEntryRoundResult g o s
  | .collComplete n at_ => Sys2Proof.Machine.execCollComplete n at_ s
  | .collTimeoutExpiry n at_ => Sys2Proof.Machine.execCollTimeoutExpiry n at_ s
  | .hbUp port f => Sys2Proof.Machine.execHbUp port f s
  | .hbDown port f => Sys2Proof.Machine.execHbDown port f s
  | .hbAbort port f at_ => Sys2Proof.Machine.execHbAbort port f at_ s
  | .segDone port f => Sys2Proof.Machine.execSegDone port f s
  | .collGroupValidSet g v => Sys2Proof.Machine.execCollGroupValidSet g v s
  | .setPoison n tile => Sys2Proof.Machine.execSetPoison n tile s
  | .clearPoison n tile met => Sys2Proof.Machine.execClearPoison n tile met s
  | .scrubRead line => Sys2Proof.Machine.execScrubRead line s
  | .stackRetrain v => Sys2Proof.Machine.execStackRetrain v s
  | .stackClear v => Sys2Proof.Machine.execStackClear v s
  | .stackClearDone st => Sys2Proof.Machine.execStackClearDone st s
  | .stackRetrainDone st o => Sys2Proof.Machine.execStackRetrainDone st o s
  | .nmuAtomicApply st => Sys2Proof.Machine.execNmuAtomicApply st s
  | .cowHeldWriteRelease => Sys2Proof.Machine.execCowHeldWriteRelease s
  | .snapshotPartCopied st page => Sys2Proof.Machine.execSnapshotPartCopied st page s
  | .read port f => Sys2Proof.Machine.execRead port f s
  | .write port f => Sys2Proof.Machine.execWrite port f s
  | .writeMask port f => Sys2Proof.Machine.execWriteMask port f s
  | .atomicIadd port f => Sys2Proof.Machine.execAtomicIadd port f s
  | .atomicFadd port f => Sys2Proof.Machine.execAtomicFadd port f s
  | .atomicMin port f => Sys2Proof.Machine.execAtomicMin port f s
  | .atomicMax port f => Sys2Proof.Machine.execAtomicMax port f s
  | .atomicSwap port f => Sys2Proof.Machine.execAtomicSwap port f s
  | .atomicCas port f => Sys2Proof.Machine.execAtomicCas port f s
  | .readResp port f => Sys2Proof.Machine.execReadResp port f s
  | .writeAck port f => Sys2Proof.Machine.execWriteAck port f s
  | .atomicResp port f => Sys2Proof.Machine.execAtomicResp port f s
  | .snpInv port f => Sys2Proof.Machine.execSnpInv port f s
  | .snpRd port f => Sys2Proof.Machine.execSnpRd port f s
  | .snpAck port f => Sys2Proof.Machine.execSnpAck port f s
  | .snpData port f => Sys2Proof.Machine.execSnpData port f s
  | .sysAck port f => Sys2Proof.Machine.execSysAck port f s
  | .linkFlitReceiveFail port lseq => Sys2Proof.Machine.execLinkFlitReceiveFail port lseq s
  | .linkRetryResend port => Sys2Proof.Machine.execLinkRetryResend port s
  | .portRetrain v => Sys2Proof.Machine.execPortRetrain v s
  | .e2eRetry fd tag at_ => Sys2Proof.Machine.execE2eRetry fd tag at_ s
  | .replyTimeoutExpiry fd tag at_ => Sys2Proof.Machine.execReplyTimeoutExpiry fd tag at_ s
  | .replayEntryExpiry fd src tag at_ => Sys2Proof.Machine.execReplayEntryExpiry fd src tag at_ s
  | .hotLineCool fd egress line at_ => Sys2Proof.Machine.execHotLineCool fd egress line at_ s
  | .sysResend dst seq at_ => Sys2Proof.Machine.execSysResend dst seq at_ s
  | .translationEntryWrite l v => Sys2Proof.Machine.execTranslationEntryWrite l v s
  | .determinismScopeWrite v => Sys2Proof.Machine.execDeterminismScopeWrite v s
  | .contextOpen c => Sys2Proof.Machine.execContextOpen c s
  | .contextClose c => Sys2Proof.Machine.execContextClose c s
  | .contextAbandon c => Sys2Proof.Machine.execContextAbandon c s
  | .contextDrained c => Sys2Proof.Machine.execContextDrained c s
  | .contextSeal c drained => Sys2Proof.Machine.execContextSeal c drained s
  | .contextRecordForm c parts => Sys2Proof.Machine.execContextRecordForm c parts s
  | .contextRecordReceive c rec => Sys2Proof.Machine.execContextRecordReceive c rec s
  | .closeRootTimeout c at_ parts => Sys2Proof.Machine.execCloseRootTimeout c at_ parts s
  | .closePackageTimeout c at_ => Sys2Proof.Machine.execClosePackageTimeout c at_ s
  | .leafArrival c l => Sys2Proof.Machine.execLeafArrival c l s
  | .attach a v => Sys2Proof.Machine.execAttach a v s
  | .sensorReading r at_ => Sys2Proof.Machine.execSensorReading r at_ s
  | .budgetDecision => Sys2Proof.Machine.execBudgetDecision s
  | .vstepSettled dom at_ => Sys2Proof.Machine.execVstepSettled dom at_ s
  | .thermalEmergencyStep dom at_ => Sys2Proof.Machine.execThermalEmergencyStep dom at_ s
  | .thermalEmergencyEnd dom at_ => Sys2Proof.Machine.execThermalEmergencyEnd dom at_ s
  | .domainRetainEntry dom at_ => Sys2Proof.Machine.execDomainRetainEntry dom at_ s
  | .domainWake dom => Sys2Proof.Machine.execDomainWake dom s
  | .hostDomainsOffWrite v hart => Sys2Proof.Machine.execHostDomainsOffWrite v hart s
  | .timeSyncFrame offset at_ => Sys2Proof.Machine.execTimeSyncFrame offset at_ s
  | .timeHoldoverEntry at_ => Sys2Proof.Machine.execTimeHoldoverEntry at_ s
  | .stackBankProofPass st row faulty => Sys2Proof.Machine.execStackBankProofPass st row faulty s
  | .coreStoreMacroProofPass n macroNo faulty => Sys2Proof.Machine.execCoreStoreMacroProofPass n macroNo faulty s
  | .coreProofPass n faulty => Sys2Proof.Machine.execCoreProofPass n faulty s
  | .portProofPass port faulty => Sys2Proof.Machine.execPortProofPass port faulty s
  | .fdieMacroProofPass fd macroNo faulty => Sys2Proof.Machine.execFdieMacroProofPass fd macroNo faulty s
  | .hdieWayProofPass half way faulty => Sys2Proof.Machine.execHdieWayProofPass half way faulty s
  | .proofPassComplete u => Sys2Proof.Machine.execProofPassComplete u s
  | .coreSparing n bad => Sys2Proof.Machine.execCoreSparing n bad s
  | .monitorWindowLatch m at_ => Sys2Proof.Machine.execMonitorWindowLatch m at_ s
  | .monitorRestart m w => Sys2Proof.Machine.execMonitorRestart m w s
  | .lifetimeCommit at_ => Sys2Proof.Machine.execLifetimeCommit at_ s
  | .calendarCommit at_ => Sys2Proof.Machine.execCalendarCommit at_ s
  | .shutdown v at_ => Sys2Proof.Machine.execShutdown v at_ s
  | .take => Sys2Proof.Machine.execTake s
  | .snapshotLocalCopyDone => Sys2Proof.Machine.execSnapshotLocalCopyDone s
  | .stripeLinesDone => Sys2Proof.Machine.execStripeLinesDone s
  | .snapConfirmDecision d => Sys2Proof.Machine.execSnapConfirmDecision d s
  | .snapTimeoutExpiry at_ => Sys2Proof.Machine.execSnapTimeoutExpiry at_ s
  | .restore => Sys2Proof.Machine.execRestore s
  | .restoreRemoteDone => Sys2Proof.Machine.execRestoreRemoteDone s
  | .restoreComplete => Sys2Proof.Machine.execRestoreComplete s
  | .epochAdvance v => Sys2Proof.Machine.execEpochAdvance v s
  | .jobEpochWrite v => Sys2Proof.Machine.execJobEpochWrite v s
  | .setupSave v => Sys2Proof.Machine.execSetupSave v s
  | .fovisRead src at_ => Sys2Proof.Machine.execFovisRead src at_ s
  | .fovisWrite src at_ => Sys2Proof.Machine.execFovisWrite src at_ s
  | .describe src at_ => Sys2Proof.Machine.execDescribe src at_ s
  | .discover src at_ => Sys2Proof.Machine.execDiscover src at_ s
  | .bundleOpen src at_ => Sys2Proof.Machine.execBundleOpen src at_ s
  | .bundleData src at_ => Sys2Proof.Machine.execBundleData src at_ s
  | .bundleApply src at_ => Sys2Proof.Machine.execBundleApply src at_ s
  | .bundleVerifyDone rsaOk slhOk => Sys2Proof.Machine.execBundleVerifyDone rsaOk slhOk s
  | .bundleCancel src at_ => Sys2Proof.Machine.execBundleCancel src at_ s
  | .bundleOwnerTimeout at_ => Sys2Proof.Machine.execBundleOwnerTimeout at_ s
  | .replyCacheExpiry at_ => Sys2Proof.Machine.execReplyCacheExpiry at_ s
  | .neighbourSolicitation src target => Sys2Proof.Machine.execNeighbourSolicitation src target s
  | .icmpv6EchoRequest src dst body => Sys2Proof.Machine.execIcmpv6EchoRequest src dst body s
  | .hartLoad h pa size => Sys2Proof.Machine.execHartLoad h pa size s
  | .hartStore h pa size v => Sys2Proof.Machine.execHartStore h pa size v s
  | .hartAmo h op pa v => Sys2Proof.Machine.execHartAmo h op pa v s
  | .hartFence h pred => Sys2Proof.Machine.execHartFence h pred s
  | .hartAsyncError h pa status => Sys2Proof.Machine.execHartAsyncError h pa status s
  | .machineTimerInterrupt h at_ => Sys2Proof.Machine.execMachineTimerInterrupt h at_ s
  | .hartRelease v => Sys2Proof.Machine.execHartRelease v s
  | .ringEnable r v => Sys2Proof.Machine.execRingEnable r v s
  | .ringDisable r => Sys2Proof.Machine.execRingDisable r s
  | .ringProducerAdvance r v => Sys2Proof.Machine.execRingProducerAdvance r v s
  | .ringRecordTake r => Sys2Proof.Machine.execRingRecordTake r s
  | .ringRecordDelivery r => Sys2Proof.Machine.execRingRecordDelivery r s
  | .ringCompletionEntry r => Sys2Proof.Machine.execRingCompletionEntry r s
  | .hdmDecoderCommit k d => Sys2Proof.Machine.execHdmDecoderCommit k d s
  | .cxlMemAccess hpa acc => Sys2Proof.Machine.execCxlMemAccess hpa acc s
  | .cxlCacheHostSnoop line inv => Sys2Proof.Machine.execCxlCacheHostSnoop line inv s
  | .doeSpdmRequest m => Sys2Proof.Machine.execDoeSpdmRequest m s
  | .bootStart v => Sys2Proof.Machine.execBootStart v s
  | .bootVerifyDone rsaOk slhOk => Sys2Proof.Machine.execBootVerifyDone rsaOk slhOk s
  | .hdieReset v => Sys2Proof.Machine.execHdieReset v s
  | .tableSetLoad v => Sys2Proof.Machine.execTableSetLoad v s
  | .tableSetVerifyDone rsaOk slhOk => Sys2Proof.Machine.execTableSetVerifyDone rsaOk slhOk s
  | .attestNonce nonce => Sys2Proof.Machine.execAttestNonce nonce s
  | .attestReportDone => Sys2Proof.Machine.execAttestReportDone s
  | .colophonSign a => Sys2Proof.Machine.execColophonSign a s
  | .colophonSignDone => Sys2Proof.Machine.execColophonSignDone s
  | .monitorOccupancySample at_ => Sys2Proof.Machine.execMonitorOccupancySample at_ s

end Sys2Proof.Machine
end

