-- ==== Sys2Proof/Safety.lean ====
section
/-! DEFINITION. The terms in which claims are stated: what a command gives, when an instruction of the CC stands at its
place, when the head of an engine queue may be taken, and the invariant of a package in reset. -/
namespace Sys2Proof.Safety
open Sys2Proof Config Machine

/-- Command `i` takes `s` to `t`, with the queue of waiting commands, the fuses and the reset of `s` as they were. -/
def Gives (i : Instr) (s t : State) : Prop := exec i s = .next (keep s t)

/-- The package is out of reset and logical core `n` is physical core `k`. -/
def CoreUp (s : State) (n k : Nat) : Prop := s.up = true ∧ keyOf s n = some k

/-- In reset the package holds nothing but what reset leaves (R566): entering reset again changes nothing. -/
def Off (s : State) : Prop := s.up = false → enterReset s = s

/-! ### The control core -/

/-- `x` is the instruction at the place of its core, in a launch that has not finished, and its word is one of `mine` or of a
reserved opcode. -/
def CcPlace (mine : Nat → Bool) (s : State) (x : CcX) : Prop :=
  CoreUp s x.n x.k ∧ (coreAt s x.k).run = some x.r ∧ x.r.finished = false ∧ x.off = 0x40 + 4 * x.r.pc ∧
  x.w = formeInsn (coreAt s x.k) (slotBase (coreAt s x.k) x.r.slot + x.off) ∧ (mine x.w || iReserved x.w) = true

/-- It stands there, is legal, and its predicate holds (R124, R141, R150): it executes. -/
def CcAt (mine : Nat → Bool) (s : State) (x : CcX) : Prop :=
  CcPlace mine s x ∧ mine x.w = true ∧ encIllegal x.w = false ∧ predHolds (coreAt s x.k).regs x.w = true

/-- Instruction `i` on words `mine`: it does `act` and the CC goes on to the next instruction. -/
def CcDoes (i : Nat → Instr) (mine : Nat → Bool) (act : CcX → State → State) : Prop :=
  ∀ s x, CcAt mine s x → Gives (i x.n) s (ccDone x (act x (coreInternal s x.k)))

/-- Instruction `i` on words `mine`: where `ok` holds it does `act` and the CC goes on; elsewhere it is skipped with `code`: logged and tallied, and
the CC goes on without executing it (R14, R137). -/
def CcMay (i : Nat → Instr) (mine : Nat → Bool) (code : Nat) (ok : CcX → State → Prop) (act : CcX → State → State) : Prop :=
  ∀ s x, CcAt mine s x →
    let t := coreInternal s x.k
    (ok x t → Gives (i x.n) s (ccDone x (act x t))) ∧ (¬ok x t → Gives (i x.n) s (ccPass x (ccSkip x t code)))

/-- Instruction `i` on words `mine`: the registers of its core become `f` of them, and nothing else of the core changes but its place. -/
def CcGives (i : Nat → Instr) (mine : Nat → Bool) (f : Nat → CcRegs → CcRegs) : Prop :=
  CcDoes i mine (fun x s => ccRegs x s (f x.w))

/-- The immediate of formats IMM, sign-extended (R142, R145). -/
def imm16 (w : Nat) : Word := (BitVec.ofNat 16 (bitsOf w 15 0)).signExtend 64

/-- Words of class 10 with an IOP (R145). -/
def isIop (i w : Nat) : Bool := iClass w == 2 && iIop w == i

/-- An FP64 compare of fA and fB into pD: `un` is its value when an operand is a NaN, `quiet` whether only signalling NaNs raise
invalid (R101). -/
def fcmpAct (quiet un : Bool) (f : Ordering → Bool) (x : CcX) (s : State) : State :=
  let a := rd64 s (fGet (regsOf x s) (tA x.w))
  let b := rd64 s (fGet (regsOf x s) (tB x.w))
  let nan := isNan a || isNan b
  ccRaise x (ccRegs x s (fun r => pSet r (tD x.w) (if nan then un else f (fcmp a b))))
    [(0, if (if quiet then isSnan a || isSnan b else nan) then flInv else noFlags)]

/-- An FP64 operation of fA and fB into fD (R101). -/
def fpAct (f : FpOp) (x : CcX) (s : State) : State :=
  let r := regsOf x s
  let o := f (rmOf s (tRm x.w)) (flushOn s) (rd64 s (fGet r (tA x.w))) (rd64 s (fGet r (tB x.w)))
  ccRaise x (ccRegs x s (fun r => fSet r (tD x.w) (BitVec.ofNat 64 o.1))) [(0, o.2)]

/-- An FP64 operation of the active lanes of wA and wB into wD (R106). -/
def fpLanes (f : FpOp) (x : CcX) (s : State) : State :=
  let r := regsOf x s
  putLanes x s (tD x.w) ((lanes r).map (fun j =>
    (j, f (rmOf s (tRm x.w)) (flushOn s) (rd64 s (wGet r (tA x.w) j)) (rd64 s (wGet r (tB x.w) j)))))

/-- A conversion of fA into fD (R148). -/
def fcvtAct (kind : Nat) (x : CcX) (s : State) : State :=
  let o := fcvt kind (rmOf s (tRm x.w)) (flushOn s) (fGet (regsOf x s) (tA x.w))
  ccRaise x (ccRegs x s (fun r => fSet r (tD x.w) (BitVec.ofNat 64 o.1))) [(0, o.2)]

/-- The immediate operations of the CC with the words that are their own (R101). -/
def ccImmediateRows : List ((Nat → Instr) × (Nat → Bool)) :=
  [(.addi, fun w => iClass w == 0), (.andi, isIop 0), (.ori, isIop 1), (.xori, isIop 2), (.muli, isIop 3), (.mini, isIop 4),
   (.maxi, isIop 5), (.minui, isIop 6), (.maxui, isIop 7), (.subi, isIop 8),
   (.ldimm, fun w => iClass w == 2 && 0x0C ≤ iIop w && iIop w ≤ 0x0F)]

/-- The operations on registers. -/
def ccRegisterRows : List ((Nat → Instr) × (Nat → Bool)) :=
  [(.add, isScalar 0x00), (.sub, isScalar 0x01), (.and, isScalar 0x02), (.or, isScalar 0x03), (.xor, isScalar 0x04),
   (.sll, isScalar 0x05), (.srl, isScalar 0x06), (.sra, isScalar 0x07), (.mul, isScalar 0x08), (.mulhu, isScalar 0x09),
   (.min, isScalar 0x0A), (.max, isScalar 0x0B), (.minu, isScalar 0x0C), (.maxu, isScalar 0x0D)]

/-- The operations on short vectors. -/
def ccVectorRows : List ((Nat → Instr) × (Nat → Bool)) :=
  [(.wadd, isVector 0x00), (.wsub, isVector 0x01), (.wand, isVector 0x02), (.wor, isVector 0x03), (.wxor, isVector 0x04),
   (.wsll, isVector 0x05), (.wsrl, isVector 0x06), (.wsra, isVector 0x07), (.wmul, isVector 0x08), (.wmulhu, isVector 0x09),
   (.wmin, isVector 0x0A), (.wmax, isVector 0x0B), (.wminu, isVector 0x0C), (.wmaxu, isVector 0x0D)]

/-- The shifts by a constant, compares and predicate operations. -/
def ccCompareRows : List ((Nat → Instr) × (Nat → Bool)) :=
  [(.slli, isMinor 0x0E), (.srli, isMinor 0x0F), (.srai, isMinor 0x10), (.cmpeq, isMinor 0x11), (.cmpne, isMinor 0x12),
   (.cmplt, isMinor 0x13), (.cmpltu, isMinor 0x14), (.cmpge, isMinor 0x15), (.cmpgeu, isMinor 0x16), (.fcmpeq, isMinor 0x17),
   (.fcmplt, isMinor 0x18), (.fcmple, isMinor 0x19), (.fcmpgt, isMinor 0x1A), (.fcmpun, isMinor 0x1B), (.pand, isMinor 0x1C),
   (.por, isMinor 0x1D), (.pxor, isMinor 0x1E), (.pnot, isMinor 0x1F)]

/-- The FP64 operations. -/
def ccFloatRows : List ((Nat → Instr) × (Nat → Bool)) :=
  [(.fadd, isScalar 0x20), (.fsub, isScalar 0x21), (.fmul, isScalar 0x22), (.fdiv, isScalar 0x23), (.fsqrt, isScalar 0x24),
   (.fmin, isScalar 0x25), (.fmax, isScalar 0x26), (.fabs, isScalar 0x27), (.fneg, isScalar 0x28),
   (.wfadd, isVector 0x20), (.wfsub, isVector 0x21), (.wfmul, isVector 0x22), (.wfdiv, isVector 0x23), (.wfsqrt, isVector 0x24),
   (.wfmin, isVector 0x25), (.wfmax, isVector 0x26), (.wfabs, isVector 0x27), (.wfneg, isVector 0x28)]

/-- The conversions, moves and loads. -/
def ccMoveRows : List ((Nat → Instr) × (Nat → Bool)) :=
  [(.fcvtFp64ToSigned, fun w => isScalar 0x29 w && (tB w == 0 || 4 ≤ tB w)),
   (.fcvtFp64ToUnsigned, fun w => isScalar 0x29 w && (tB w == 1 || 4 ≤ tB w)),
   (.fcvtSignedToFp64, fun w => isScalar 0x29 w && (tB w == 2 || 4 ≤ tB w)),
   (.fcvtUnsignedToFp64, fun w => isScalar 0x29 w && (tB w == 3 || 4 ≤ tB w)),
   (.wfcvt, isVector 0x29), (.fma, isSub 0), (.wfma, isSub 1), (.fmvg, isMinor 0x2A), (.gmvf, isMinor 0x2B),
   (.fmvs, isMinor 0x2C), (.wbcast, isMinor 0x2D), (.wgather, isMinor 0x2E), (.wredadd, isMinor 0x30), (.wredmax, isMinor 0x31),
   (.setsvl, isMinor 0x32), (.ld, isSub 2), (.fld, isSub 4), (.wld, isSub 6), (.movs, isMinor 0x33)]

/-- PUSH, POST, WAIT, SELECT and SETRPT. -/
def ccSequenceRows : List ((Nat → Instr) × (Nat → Bool)) :=
  [(.push, isMinor 0x34), (.post, isMinor 0x35), (.wait, isMinor 0x36), (.select, isMinor 0x37), (.setrpt, isMinor 0x38)]

/-- Every row of the CC's instruction table but those that store, with the words that are its own. -/
def ccTable : List ((Nat → Instr) × (Nat → Bool)) :=
  ccImmediateRows ++ ccRegisterRows ++ ccVectorRows ++ ccCompareRows ++
    ccFloatRows ++ ccMoveRows ++ ccSequenceRows

/-- The rows that store: with those of `ccTable`, every instruction of the CC. -/
def ccStores : List ((Nat → Instr) × (Nat → Bool)) :=
  [(.st, isSub 3), (.fst, isSub 5), (.wst, isSub 7), (.wscatter, isMinor 0x2F)]

/-- Byte `a` of the core store of physical core `k`. -/
def storeByte (s : State) (k a : Nat) : Byte := memGet (coreAt s k).store a

/-! ### Engine queues -/

/-- The engine of queue `q` may take its head (R126, R152): the wait is satisfied, the engine is free, and the command is one of `mine`
and not void. -/
def HeadAt (q : QueueId) (mine : Cmd → Bool) (busy : State → Nat → Core → Bool) (s : State) (e : Ex) : Prop :=
  CoreUp s e.n e.k ∧ e.q = q ∧ (queueOf (coreAt s e.k) q).head? = some e.x ∧ headReady (coreAt s e.k) q = true ∧
  e.x.void = false ∧ busy s e.k (coreAt s e.k) = false ∧ mine e.x = true

/-- The state in which the engine has taken the head. -/
def taken (s : State) (e : Ex) : State := putCore s e.k (takeHead (timeNs s) (coreAt s e.k) e.q)

/-- A VE command may run: the VE is free and not held, its extents are fixed, its checks pass, and the galley slots that it
needs are FINISHED (R167, R188, R206). -/
def VeAt (mine : Cmd → Bool) (s : State) (e : Ex) (f : VeF) : Prop :=
  HeadAt .vq mine veBusy s e ∧ veFields (taken s e) e.x = some f ∧
  firstSkip [(veIllegal (flushOn (taken s e)) (coreAt (taken s e) e.k) e.x f, stIllegal), (veBounds f, stBounds)] = none

/-- A VE row completes: with COUNT 0 it ends OK and makes no access; otherwise it takes FINISHED galley slots and, once it has the slots it
needs, computes `out` of its operands, at its take or when its row comes again while issue is not held (R188, R206, R450, R451). -/
def VeDoes (i : Nat → Instr) (mine : Cmd → Bool) (out : State → Core → VeF → List GSlot → VeOut) : Prop :=
  (∀ s e f, VeAt mine s e f →
    let t := dcount (taken s e) kVeCommands 1
    let g := (coreAt (taken s e) e.k).galley
    (f.cnt = 0 → Gives (i e.n) s (exEnd e t stOk)) ∧
    (f.cnt ≠ 0 → slotsNeeded f ≤ g.length →
      Gives (i e.n) s (veCompute out e.k (freeSlots t e.k (slotsNeeded f)) e.x f (g.take (slotsNeeded f)))) ∧
    (f.cnt ≠ 0 → g.length < slotsNeeded f → Gives (i e.n) s (modCore (freeSlots t e.k (slotsNeeded f)) e.k
      (fun c => { c with veJob := some { cmd := e.x, slots := g, since := timeNs s } })))) ∧
  (∀ s n k j f, CoreUp s n k → (coreAt s k).veJob = some j → mine j.cmd = true → heldEngine s k = false → veFields s j.cmd = some f →
    j.slots.length ≤ slotsNeeded f → slotsNeeded f ≤ j.slots.length + (coreAt s k).galley.length →
    Gives (i n) s (veCompute out k (freeSlots s k (slotsNeeded f - j.slots.length)) j.cmd f
      (j.slots ++ (coreAt s k).galley.take (slotsNeeded f - j.slots.length))))

/-- A VE row of the commands `mine` that a check stops is skipped with the status of the first check that applies (R14, R206). -/
def VeSkips (i : Nat → Instr) (mine : Cmd → Bool) : Prop :=
  ∀ s e, HeadAt .vq mine veBusy s e → (veFields (taken s e) e.x = none → Gives (i e.n) s (exEnd e (taken s e) stIllegal)) ∧
  ∀ f st, veFields (taken s e) e.x = some f →
    firstSkip [(veIllegal (flushOn (taken s e)) (coreAt (taken s e) e.k) e.x f, stIllegal), (veBounds f, stBounds)] = some st →
    Gives (i e.n) s (exEnd e (taken s e) st)

/-! ### The fabric -/

/-- Flit `f` comes on port `p` as a command of kind `kind`: nothing stands against it on the way to its handler, which gets `g` in
the state `t` (R334, R345, R366). -/
def FlitAt (kind p : Nat) (s : State) (f g : Flit) (t : State) : Prop :=
  s.up = true ∧ fKind f = kind ∧ arrive s p f = (t, some g)

/-! ### The memory engines -/

/-- What MMA and MEWMA check before they run (R155, R175, R186, R313): nothing applies. -/
def meClear (ew : Bool) (s : State) (x : Cmd) (f : MeF) : Prop :=
  meIllegal x ew (some f) = false ∧ meFused s f = false ∧ (meSrcs f ew ++ meDst f).any (fun r => !inStore r.1 r.2) = false

/-- The state in which solver engine `e` has taken the head of the queue of logical core `n`, core `k` (R237, R240, R448). -/
def seTaken (s : State) (e n k : Nat) : State :=
  seTake (putCore s k (takeHead (timeNs s) (coreAt s k) .sq)) e n

/-- Solver engine `e` takes command `x` of core `k` (R237): the engine is free and the core is next in turn. -/
def SeHead (op e : Nat) (s : State) (n k : Nat) (x : Cmd) : Prop :=
  s.up = true ∧ seFree s e = true ∧ sePick s e = some (n, k) ∧ (coreAt s k).sq.head? = some x ∧ x.void = false ∧ w0Op x.w0 = op

/-- The command's own words are legal and its engine is there (R163, R240, R244). -/
def SeLegal (e : Nat) (s : State) (x : Cmd) : Prop := seIllegal x = false ∧ s.grade ≠ 3 ∧ (engineAt s e).failed = false

/-- The scale table that a command reads before its other operands (R244). -/
def seTable (f : SeF) : List (Nat × Nat) := if seReadsScale f then [seScale f] else []

/-- No check skips the command, whose fields are `f` (R239–R245); `t` is the state after the tile checks of the descriptor and of the scale
table, with their condition. -/
def SeAt (op e : Nat) (s : State) (n k : Nat) (x : Cmd) (f : SeF) (t : State × Nat) : Prop :=
  let f0 := seFields x []
  let d := verifyTiles (seTaken s e n k) k (tilesOfRanges [seDesc f0])
  let v := verifyNew d.1 k (tilesOfRanges [seDesc f0]) (seTable f)
  SeHead op e s n k x ∧ SeLegal e s x ∧ f0.n ≠ 0 ∧ f0.batch ≠ 0 ∧ inStore f0.aA 128 = true ∧
  f = seFields x ((List.range 16).map (wAt (words64 (coreAt d.1 k) (seDesc f0)))) ∧ seDescBad d.1 n x f = false ∧
  seScaleBad v.1 k f = false ∧ ([seScale f, seMat f, seFact f, seB f, seX f]).any (fun r => !inStore r.1 r.2) = false ∧
  t = (v.1, worse d.2 v.2)

/-- The DE takes the head of DQ (R309): no descriptor is in execution, no chain is open, no stop is requested, and the lines that the
descriptor accesses can be accessed. -/
def DqAt (mine : Cmd → Bool) (s : State) (e : Ex) : Prop :=
  (deAt s e.k).job = none ∧ (deAt s e.k).stop = false ∧ (deAt s e.k).chain = none ∧ HeadAt .dq mine dqBusy s e

/-- The descriptor in execution, its clusters awake (R441). -/
def deBegun (s : State) (e : Ex) (src dst : Loc) : State :=
  let t := taken s e
  wakeLoc (wakeLoc (modDe t e.k (fun d => { d with job := some { x := e.x, cidx := none, takenAt := timeNs t } })) src) dst

/-- A DQ row starts its descriptor: one that a check stops is skipped (R19, R314), with a LENGTH of 0 it makes no access (R308, R315),
otherwise `go` of its places. -/
def DeDoes (i : Nat → Instr) (mine : Cmd → Bool) (op : Nat) (go : State → Ex → Loc → Loc → State → Prop) : Prop :=
  ∀ s e, DqAt mine s e → w0Op e.x.w0 = op →
    (∀ st, dSkip (taken s e) e.k e.x = some st → Gives (i e.n) s (deSkip (taken s e) e.k e.x none st)) ∧
    (dSkip (taken s e) e.k e.x = none →
      (dEmpty e.x = true → Gives (i e.n) s (modJob (dcount (modDe (taken s e) e.k (fun d =>
        { d with job := some { x := e.x, cidx := none, takenAt := timeNs s } })) kNmuOperations (if op = 3 then 1 else 0)) e.k (fun j =>
          { j with writing := true, amax := if op = 3 ∧ dNmu e.x = 4 then some 0 else none }))) ∧
      (∀ src dst t, dEmpty e.x = false → dLocs (taken s e) e.k e.x = some (src, dst) → go (deBegun s e src dst) e src dst t →
        Gives (i e.n) s t))

/-- The rows of DQ with the descriptors that are their own. -/
def deTable : List ((Nat → Instr) × (Cmd → Bool)) :=
  [(.copy, deMine 1), (.copyT, deMine 2), (.nmuReduceAdd, nmuMine 0), (.nmuScatterAdd, nmuMine 1), (.nmuGather, nmuMine 2),
   (.nmuTransposition, nmuMine 3), (.nmuConversion, nmuMine 4), (.chain, deMine 4), (.fence, deMine 5), (.dqAtomicIadd, aopMine 0),
   (.dqAtomicFadd, aopMine 1), (.dqAtomicMin, aopMine 2), (.dqAtomicMax, aopMine 3), (.dqAtomicSwap, aopMine 4),
   (.dqAtomicCas, aopMine 5)]

/-- What the take of a collective has read: the sizes of an ALLTOALLV (R384, R399), nothing otherwise. -/
def collRead0 (s : State) (e : Ex) : VTake :=
  let t := modColl (taken s e) e.k (fun c => { c with seen := [] })
  if w0Op e.x.w0 = 9 then vTake t e.k (collGroup (taken s e) (qGroup e.x)) e.x else { s := t }

/-- A collective of group `qGroup x` that no check skips is entered (R379, R381, R382): it takes its place in the order of the group. -/
def collEntered (s : State) (e : Ex) : State :=
  let g := qGroup e.x
  let v := collRead0 s e
  let i := cqTakenOf (taken s e) e.n g
  let t := dcount (takePlace v.s e.n g) kHarebellOps (b2n (w0Op e.x.w0 == 1 || w0Op e.x.w0 == 2))
  modCore t e.k (fun c => { c with
    collCmd := some e.x, collReady := [],
    coll := { c.coll with id := qId e.x, inst := i, stage := 1, taken := timeNs t, waitFrom := timeNs t, cap := v.cap, cond := v.cond } })

/-- The CQ rows of opcode `op` (and operator): once the snoops that its reads need have gone out (`s`, R361), the head enters its collective and
reserves staging, or ends with the abort record that its instance has; one that a check skips does not enter, and aborts the others where it
keeps its place (R383, R402). -/
def CollDoes (i : Nat → Instr) (op : Nat) (rop : Option Nat) : Prop :=
  ∀ s0 s e, s0.up = true → s = cqPrep s0 e.n (collMine op rop) → HeadAt .cq (collMine op rop) collBusy s e →
    let g := collGroup (taken s e) (qGroup e.x)
    let here := fun (a : HeldAbort) => a.g == qGroup e.x && a.inst == cqTakenOf (taken s e) e.n (qGroup e.x) && !a.solver
    (∀ st, collSkip (taken s e) e.n e.k e.x = some st → Gives (i e.n) s0
      (if st = stEpochStale ∨ g.valid = false ∨ isMember g e.n = false then collSkipEnd (taken s e) e.k e.x st
       else peerSkipped (taken s e) e.n e.k (qGroup e.x) e.x st)) ∧
    (collSkip (taken s e) e.n e.k e.x = none →
      (∀ st, (collRead0 s e).skip = some st → Gives (i e.n) s0 (peerSkipped (collRead0 s e).s e.n e.k (qGroup e.x) e.x st)) ∧
      ((collRead0 s e).skip = none →
        ((collEntered s e).collAborts.find? here = none → Gives (i e.n) s0 (reserveStaging (collEntered s e) e.k e.x)) ∧
        (∀ a, (collEntered s e).collAborts.find? here = some a →
          Gives (i e.n) s0 (collAbortEnd (collEntered s e) e.n e.k e.x a.ar stCollAbort))))

/-! ### Fovis -/

/-- The reply of a mailbox to a PDU that is malformed (R523). -/
def malformedReply (raw : List Byte) : List Byte := mkPdu (raw.getD 3 0).toNat (leNat ((raw.drop 8).take 4)) 0x87 []

/-- Command `i` serves the request in mailbox `m` in the state `t` (R513, R521–R523, R525): a mailbox that is not BUSY holds no request, and one whose
request is held is not served twice; a request is held while LIFETIME_STATE is LOADING, and a write while an earlier one waits; otherwise a
malformed PDU is answered, and one of the row's operation is served. -/
def BoxDoes (i : Instr) (op m : Nat) (hart : Option Nat) (s t : State) (serve : State → Asker → Pdu → State) : Prop :=
  let raw := boxPdu (boxAt t m)
  let u := modBox t m (fun b => { b with hart := hart })
  let queued := Gives i s { u with rxq := t.rxq ++ [.pdu (.box m) raw] }
  let loading := dget t kLifetimeState = 0
  ((boxAt t m).st ≠ 1 → Gives i s t) ∧
  ((boxAt t m).st = 1 → t.rxq.contains (.pdu (.box m) raw) = true → Gives i s t) ∧
  ((boxAt t m).st = 1 → t.rxq.contains (.pdu (.box m) raw) = false →
    (parsePdu raw = none → (loading → queued) ∧ (¬loading → Gives i s (fovisAnswer u (.box m) 0 (malformedReply raw)))) ∧
    (∀ q, parsePdu raw = some q → q.op = op →
      (loading ∨ (op = 2 ∧ writesHeld t = true) → queued) ∧
      (¬loading → (op = 2 → writesHeld t = false) → Gives i s (serve u (.box m) q))))

/-- The reply that is kept of a request from the field network, while it is kept (R512). -/
def keptReply (s : State) (a p id : Nat) : Option CachedReply :=
  s.cached.find? (fun c => c.addr == a && c.port == p && c.id == id && decide (timeNs s < c.since + cacheNs))

/-- Command `i` takes a datagram of the field network in the state `t` (R510–R512, R522, R523, R525): one for another address or port, or with a
wrong checksum, is not taken, and none while LIFETIME_STATE is LOADING; a PDU is counted, and discarded when it is malformed, finds the
queue full, or came to a group address without being DISCOVER to all nodes; queued when it is a write behind one that waits; answered again
from the kept reply; otherwise served. -/
def NetDoes (i : Nat → Nat → Nat → Nat → Nat → List Byte → Instr) (op : Nat) (s t : State) (serve : State → Asker → Pdu → State) : Prop :=
  ∀ a p d dp sum pdu,
    let go := i a p d dp sum pdu
    let u := dcount t kPdusReceived 1
    let mine := d = linkLocal t ∨ (d = allNodes ∧ op = 4)
    (netOk t a p d dp sum pdu = false ∨ dget t kLifetimeState = 0 → Gives go s t) ∧
    (netOk t a p d dp sum pdu = true → dget t kLifetimeState ≠ 0 →
      (parsePdu pdu = none → Gives go s (discardPdu u)) ∧
      (∀ q, parsePdu pdu = some q → q.op = op →
        (16 ≤ netHeld t ∨ ¬mine → Gives go s (discardPdu u)) ∧
        (netHeld t < 16 → mine →
          (op = 2 → writesHeld t = true → Gives go s { u with rxq := u.rxq ++ [.pdu (.net a p) pdu] }) ∧
          ((op = 2 → writesHeld t = false) →
            (keptReply u a p q.id = none → Gives go s (serve u (.net a p) q)) ∧
            (∀ c, keptReply u a p q.id = some c → Gives go s (netSend (dcount u kReplayedReplies 1) a p c.pdu))))))

/-- A Fovis row serves its PDU, which comes from a host mailbox, a CXL mailbox or the field network, whole or in fragments (R510–R516, R525);
what the arbiter has held goes on first. -/
def FovisDoes (c : FovisSrc → Nat → Instr) (op : Nat) (serve : State → Asker → Pdu → State) : Prop :=
  ∀ s at_, s.up = true →
    let t := fovisPump (atTime s at_)
    (∀ m h, m < 8 → BoxDoes (c (.hdie m h) at_) op m h s t serve) ∧
    (∀ m, m < 2 → BoxDoes (c (.cxl m) at_) op (8 + m) none s t serve) ∧
    NetDoes (fun a p d dp sum pdu => c (.net a p d dp sum pdu) at_) op s t serve ∧
    (∀ a d ident off more bytes, Gives (c (.frag a d ident off more bytes) at_) s (fragRow op a d ident off more bytes t))

/-! ### Lists of operations -/

/-- The operations of R101 on two 64-bit integers, with their MINOR. -/
def intOps : List (Nat × (Word → Word → Word)) :=
  [(0x00, fun a b => a + b), (0x01, fun a b => a - b), (0x02, fun a b => a &&& b), (0x03, fun a b => a ||| b),
   (0x04, fun a b => a ^^^ b), (0x05, fun a b => a <<< (b.toNat % 64)), (0x06, fun a b => a >>> (b.toNat % 64)),
   (0x07, fun a b => a.sshiftRight (b.toNat % 64)), (0x08, fun a b => a * b),
   (0x09, fun a b => BitVec.ofNat 64 (a.toNat * b.toNat / 2 ^ 64)), (0x0A, fun a b => if a.toInt ≤ b.toInt then a else b),
   (0x0B, fun a b => if a.toInt ≤ b.toInt then b else a), (0x0C, fun a b => if a.toNat ≤ b.toNat then a else b),
   (0x0D, fun a b => if a.toNat ≤ b.toNat then b else a)]

/-- The FP64 operations of R101 on two operands, with their MINOR. -/
def fpOps : List (Nat × FpOp) :=
  [(0x20, fpAdd), (0x21, fpSub), (0x22, fpMul), (0x23, fpDiv), (0x24, fpSqrt), (0x25, fpMin), (0x26, fpMax)]

end Sys2Proof.Safety
end

