-- ==== Sys2Proof/Certificates/Slice0/Obligations.lean ====
section
/-! DEFINITION. The statements about the model, for the provers. A row that carries `at_` happens at that TIME, and a row whose
precondition does not hold leaves the state as it is: both are the model's readings (log entries 4 and 6), and statements about
such rows rest on them. -/
open Sys2Proof Sys2Proof.Machine Sys2Proof.Config Sys2Proof.Safety

/-! ### The queue of commands, reset, and what no command does -/

/-- A step with command `c` at the front of the queue is `exec` of `c` on the state with the queue's rest. -/
def Obligations.StepRunsFrontCommand : Prop :=
  ∀ (c : Instr) (t : List Instr) (s : State), s.pending = c :: t → step s = exec c { s with pending := t }

/-- With no command waiting the package idles: out of reset TIME goes on by one edge of its clock (the model's choice, log entry 3) and
nothing else changes; in reset nothing does. -/
def Obligations.StepIdles : Prop :=
  ∀ s : State, s.pending = [] →
    (s.up = true → step s = .next { s with timeFx := s.timeFx + s.tick }) ∧ (s.up = false → step s = .next s)

/-- What reset release leaves (R21, R38, R279, R283, R335, R454, R457, R463, R567): phase IDLE, TIME 0, every stack and every port
training with work queued, core stores being zeroed, no launch, no error, the core map of manufacturing test, no command waiting.
The model's readings in it: log entries 14, 15. -/
def Obligations.ResetValues : Prop :=
  State.reset.pending = [] ∧ State.reset.up = true ∧ phase State.reset = phIdle ∧ timeNs State.reset = 0 ∧
  State.reset.zeroing = true ∧ State.reset.errCount = 0 ∧ State.reset.mem = [] ∧
  (∀ st, st < 16 → dget State.reset (kStackState + st) = 1 ∧ workOf State.reset st = [1, 2]) ∧
  (∀ p, p < 64 → portSt State.reset p = 1) ∧
  (∀ k, (coreAt State.reset k).run = none ∧ (coreAt State.reset k).launchQ = [] ∧ (coreAt State.reset k).store = []) ∧
  (∀ n, n < 10240 → keyOf State.reset n = some (1344 * (n / 1280) + n % 1280)) ∧
  (∀ d, (domAt State.reset d).st = 2 ∧ (domAt State.reset d).vstep = 3)

/-- Every command has an effect in every state (what is illegal is skipped and logged, R14, R18), and none changes the queue of waiting
commands or the grade of the fuses (R1). That a row
whose precondition fails completes without effect is the model's reading (log entry 6). -/
def Obligations.EveryCommandCompletes : Prop :=
  ∀ (i : Instr) (s : State), ∃ t, exec i s = .next t ∧ t.pending = s.pending ∧ t.grade = s.grade

/-- In reset (R566) every command but power-up, an under-voltage and PKGRST_N leaves the package as it is (the model's choice, log
entry 7). -/
def Obligations.ResetHoldsThePackage : Prop :=
  ∀ (i : Instr) (s : State), s.up = false →
    (∀ p b, i ≠ .powerUpResetRelease p b) → (∀ ns, i ≠ .vin48UnderVoltage ns) → (∀ ns, i ≠ .pkgrstNAssert ns) →
    exec i s = .next s

/-- Invariant: in reset the package holds nothing but what reset leaves (R566, R571), kept by every step (that no other command acts
in reset is the model's choice, log entry 7). -/
def Obligations.OffIsInvariant : Prop := ∀ s t : State, Off s → step s = .next t → Off t

/-- The invariant holds right after reset release, and whenever the package enters reset. -/
def Obligations.OffHoldsAtReset : Prop := Off State.reset ∧ ∀ s : State, Off (enterReset s)

/-! ### The control core -/

/-- Integer arithmetic of the CC: ADDI, the immediate operations and LDIMM; the operations on registers and the shifts by a constant; and
the short-vector operations on the active lanes of wD, the others kept (R101, R106, R142, R145, R146). -/
def Obligations.CcIntegerArithmetic : Prop :=
  (CcGives .addi (fun w => iClass w == 0) (fun w r => gSet r (bitsOf w 25 21) (gGet r (bitsOf w 20 16) + imm16 w)) ∧
  (∀ p ∈ ([(.andi, 0, fun a b => a &&& b), (.ori, 1, fun a b => a ||| b), (.xori, 2, fun a b => a ^^^ b), (.muli, 3, fun a b => a * b),
      (.mini, 4, fun a b => if a.toInt ≤ b.toInt then a else b), (.maxi, 5, fun a b => if a.toInt ≤ b.toInt then b else a),
      (.minui, 6, fun a b => if a.toNat ≤ b.toNat then a else b), (.maxui, 7, fun a b => if a.toNat ≤ b.toNat then b else a),
      (.subi, 8, fun a b => a - b)] : List ((Nat → Instr) × Nat × (Word → Word → Word))),
    CcGives p.1 (isIop p.2.1) (fun w r => gSet r (bitsOf w 20 16) (p.2.2 (gGet r (bitsOf w 20 16)) (imm16 w)))) ∧
  CcGives .ldimm (fun w => iClass w == 2 && 0x0C ≤ iIop w && iIop w ≤ 0x0F) (fun w r =>
    gSet r (bitsOf w 20 16) (putField (gGet r (bitsOf w 20 16)) (16 * (iIop w % 4) + 15) (16 * (iIop w % 4)) (bitsOf w 15 0)))) ∧
  ((∀ p ∈ ([.add, .sub, .and, .or, .xor, .sll, .srl, .sra, .mul, .mulhu, .min, .max, .minu, .maxu] : List (Nat → Instr)).zip intOps,
    CcGives p.1 (isScalar p.2.1) (fun w r => gSet r (tD w) (p.2.2 (gGet r (tA w)) (gGet r (tB w))))) ∧
  (∀ p ∈ ([(.slli, 0x0E, fun a n => a <<< n), (.srli, 0x0F, fun a n => a >>> n), (.srai, 0x10, fun a n => a.sshiftRight n)] :
      List ((Nat → Instr) × Nat × (Word → Nat → Word))),
    CcGives p.1 (isMinor p.2.1) (fun w r => gSet r (tD w) (p.2.2 (gGet r (tA w)) (bitsOf w 9 4))))) ∧
  (∀ p ∈ ([.wadd, .wsub, .wand, .wor, .wxor, .wsll, .wsrl, .wsra, .wmul, .wmulhu, .wmin, .wmax, .wminu, .wmaxu] :
      List (Nat → Instr)).zip intOps,
    CcGives p.1 (isVector p.2.1) (fun w r => (List.range (Nat.min r.svl 8)).foldl
      (fun q j => wSet q (tD w) j (p.2.2 (wGet r (tA w) j) (wGet r (tB w) j))) r))

/-- The compares into a predicate and the predicate operations (R101). -/
def Obligations.CcCompareRows : Prop :=
  (∀ p ∈ ([(.cmpeq, 0x11, fun a b => decide (a = b)), (.cmpne, 0x12, fun a b => decide (a ≠ b)),
      (.cmplt, 0x13, fun a b => decide (a.toInt < b.toInt)), (.cmpltu, 0x14, fun a b => decide (a.toNat < b.toNat)),
      (.cmpge, 0x15, fun a b => decide (b.toInt ≤ a.toInt)), (.cmpgeu, 0x16, fun a b => decide (b.toNat ≤ a.toNat))] :
      List ((Nat → Instr) × Nat × (Word → Word → Bool))),
    CcGives p.1 (isMinor p.2.1) (fun w r => pSet r (tD w) (p.2.2 (gGet r (tA w)) (gGet r (tB w))))) ∧
  (∀ p ∈ ([(.pand, 0x1C, fun a b => a && b), (.por, 0x1D, fun a b => a || b), (.pxor, 0x1E, fun a b => a != b),
      (.pnot, 0x1F, fun a _ => !a)] : List ((Nat → Instr) × Nat × (Bool → Bool → Bool))),
    CcGives p.1 (isMinor p.2.1) (fun w r => pSet r (tD w) (p.2.2 (pGet r (tA w)) (pGet r (tB w))))) ∧
  CcDoes .fcmpeq (isMinor 0x17) (fcmpAct true false (fun o => o == .eq)) ∧
  CcDoes .fcmplt (isMinor 0x18) (fcmpAct false false (fun o => o == .lt)) ∧
  CcDoes .fcmple (isMinor 0x19) (fcmpAct false false (fun o => o != .gt)) ∧
  CcDoes .fcmpgt (isMinor 0x1A) (fcmpAct false false (fun o => o == .gt)) ∧
  CcDoes .fcmpun (isMinor 0x1B) (fcmpAct true true (fun _ => false))

/-- The FP64 operations with the flags of their elements, scalar and on the active lanes (R59, R101, R106, R143, R148). -/
def Obligations.CcFloatArithmetic : Prop :=
  ((∀ p ∈ ([.fadd, .fsub, .fmul, .fdiv, .fsqrt, .fmin, .fmax] : List (Nat → Instr)).zip fpOps,
    CcDoes p.1 (isScalar p.2.1) (fpAct p.2.2)) ∧
  CcGives .fabs (isScalar 0x27) (fun w r => fSet r (tD w) (fGet r (tA w) &&& 0x7FFFFFFFFFFFFFFF#64)) ∧
  CcGives .fneg (isScalar 0x28) (fun w r => fSet r (tD w) (fGet r (tA w) ^^^ 0x8000000000000000#64)) ∧
  (∀ p ∈ ([(.fcvtFp64ToSigned, 0), (.fcvtFp64ToUnsigned, 1), (.fcvtSignedToFp64, 2), (.fcvtUnsignedToFp64, 3)] :
      List ((Nat → Instr) × Nat)), CcDoes p.1 (fun w => isScalar 0x29 w && (tB w == p.2)) (fcvtAct p.2)) ∧
  CcDoes .fma (isSub 0) (fun x s =>
    let v := fun i => rd64 s (fGet (regsOf x s) i)
    let o := fpFma (rmOf s (bitsOf x.w 2 0)) (flushOn s) (v (bitsOf x.w 17 13)) (v (bitsOf x.w 12 8)) (v (bitsOf x.w 7 3))
    ccRaise x (ccRegs x s (fun r => fSet r (bitsOf x.w 22 18) (BitVec.ofNat 64 o.1))) [(0, o.2)])) ∧
  ((∀ p ∈ ([.wfadd, .wfsub, .wfmul, .wfdiv, .wfsqrt, .wfmin, .wfmax] : List (Nat → Instr)).zip fpOps,
    CcDoes p.1 (isVector p.2.1) (fpLanes p.2.2)) ∧
  CcGives .wfabs (isVector 0x27) (fun w r => (lanes r).foldl (fun q j => wSet q (tD w) j (wGet r (tA w) j &&& 0x7FFFFFFFFFFFFFFF#64)) r) ∧
  CcGives .wfneg (isVector 0x28) (fun w r => (lanes r).foldl (fun q j => wSet q (tD w) j (wGet r (tA w) j ^^^ 0x8000000000000000#64)) r) ∧
  CcDoes .wfcvt (isVector 0x29) (fun x s => putLanes x s (tD x.w) ((lanes (regsOf x s)).map (fun j =>
    (j, fcvt (tB x.w) (rmOf s (tRm x.w)) (flushOn s) (wGet (regsOf x s) (tA x.w) j))))) ∧
  CcDoes .wfma (isSub 1) (fun x s =>
    let v := fun i j => rd64 s (wGet (regsOf x s) i j)
    putLanes x s (bitsOf x.w 22 18) ((lanes (regsOf x s)).map (fun j => (j, fpFma (rmOf s (bitsOf x.w 2 0)) (flushOn s)
      (v (bitsOf x.w 17 13) j) (v (bitsOf x.w 12 8) j) (v (bitsOf x.w 7 3) j))))))

/-- The moves between register files, the reductions of lanes, SETSVL, MOVS, SELECT and SETRPT where they have their effect (R101, R106,
R108, R109, R121, R122, R147, R149). The model's readings in it: log entry 23 (the flags of the sums of a reduction make one event), 24 (SETSVL and
SETRPT judge the register value when they execute, after their predicate), 26 (SELECT_INVALID is an event of the log and no tallied skip). -/
def Obligations.CcMoveRows : Prop :=
  CcGives .fmvg (isMinor 0x2A) (fun w r => fSet r (tD w) (gGet r (tA w))) ∧
  CcGives .gmvf (isMinor 0x2B) (fun w r => gSet r (tD w) (fGet r (tA w))) ∧
  CcGives .fmvs (isMinor 0x2C) (fun w r => fSet r (tD w) (sumGet r (tA w))) ∧
  CcGives .wbcast (isMinor 0x2D) (fun w r => (lanes r).foldl (fun q j => wSet q (tD w) j (fGet r (tA w))) r) ∧
  (∀ p ∈ ([(.wredadd, 0x30, fpAdd), (.wredmax, 0x31, fpMax)] : List ((Nat → Instr) × Nat × FpOp)),
    CcDoes p.1 (isMinor p.2.1) (fun x s =>
      let r := regsOf x s
      let a := fun j => wGet r (tA x.w) j
      let o := ((lanes r).drop 1).foldl (fun (q : Nat × Flags) j =>
        let v := p.2.2 (rmOf s (tRm x.w)) (flushOn s) (rd64 s (BitVec.ofNat 64 q.1)) (rd64 s (a j))
        (v.1, orFlags q.2 v.2)) ((a 0).toNat, noFlags)
      if r.svl = 0 then ccRegs x s (fun r => wSet r (tD x.w) 0 0)
      else if r.svl = 1 then ccRegs x s (fun r => wSet r (tD x.w) 0 (a 0))
      else ccRaise x (ccRegs x s (fun r => wSet r (tD x.w) 0 (BitVec.ofNat 64 o.1))) [(0, o.2)])) ∧
  (let v := fun (x : CcX) (s : State) => if bitOf x.w 4 then (gGet (regsOf x s) (tA x.w)).toNat else bitsOf x.w 3 0
   CcMay .setsvl (isMinor 0x32) stIllegal (fun x s => v x s ≤ 8) (fun x s => ccRegs x s (fun r => { r with svl := v x s }))) ∧
  CcMay .movs (isMinor 0x33) stDet (fun x s => ¬(tA x.w = 8 ∧ locked s = true))
    (fun x s => ccRegs x s (fun r => gSet r (tD x.w) (BitVec.ofNat 64 (special x s (tA x.w))))) ∧
  CcDoes .select (isMinor 0x37) (fun x s =>
    let f := candField (formeWord (coreAt s x.k) (slotBase (coreAt s x.k) x.r.slot + 8)) (bitsOf x.w 1 0)
    if f.1 = true then modCore s x.k (fun c => { c with run := c.run.map (fun r => { r with sel := some f.2 }) })
    else logEvent s x.k 0 cdSelectInvalid x.off x.r.iter) ∧
  CcMay .setrpt (isMinor 0x38) stIllegal (fun x s => (gGet (regsOf x s) (tA x.w)).toNat ≤ 2 ^ 32 - 1)
    (fun x s => modCore s x.k (fun c => { c with carry := some (gGet (regsOf x s) (tA x.w)).toNat }))

/-- The loads of the CC: BOUNDS where the access leaves the store or is unaligned, else the stored words, or the default of a bad tile,
which is logged (R103, R104, R106, R107). A WGATHER logs one entry with the worst condition of its lanes: the model's reading, log entry 25. -/
def Obligations.CcLoadRows : Prop :=
  (∀ p ∈ ([(.ld, 2, 0, gSet), (.fld, 4, qnan64, fSet)] : List ((Nat → Instr) × Nat × Word × (CcRegs → Nat → Word → CcRegs))),
    CcMay p.1 (isSub p.2.1) stBounds (fun x s => memAddr (regsOf x s) x.w % 8 = 0 ∧ memAddr (regsOf x s) x.w + 8 ≤ 0x80000) (fun x s =>
      let a := memAddr (regsOf x s) x.w
      let v := verifyTile s x.k (a / 4096)
      ccRegs x (ccLoadLog x v.1 v.2) (fun r => p.2.2.2 r (bitsOf x.w 22 18) (ccLoadWord s x.k a v.2 p.2.2.1)))) ∧
  CcMay .wld (isSub 6) stBounds (fun x s => memAddr (regsOf x s) x.w % 64 = 0 ∧ memAddr (regsOf x s) x.w + 64 ≤ 0x80000) (fun x s =>
    let a := memAddr (regsOf x s) x.w
    if (regsOf x s).svl = 0 then s
    else
      let v := verifyTile s x.k (a / 4096)
      ccRegs x (ccLoadLog x v.1 v.2) (fun r => (lanes r).foldl
        (fun q j => wSet q (bitsOf x.w 22 18) j (ccLoadWord s x.k (a + 8 * j) v.2 qnan64)) r)) ∧
  CcMay .wgather (isMinor 0x2E) stBounds (fun x s => ∀ p ∈ laneAddrs (regsOf x s) x.w, p.2 % 8 = 0 ∧ p.2 + 8 ≤ 0x80000) (fun x s =>
    let as_ := laneAddrs (regsOf x s) x.w
    let vs := (tilesOfRanges (as_.map (fun p => (p.2, 8)))).foldl (fun (p : State × List (Nat × Nat)) t =>
      ((verifyTile p.1 x.k t).1, p.2 ++ [(t, (verifyTile p.1 x.k t).2)])) (s, [])
    let cond := fun a => ((vs.2.find? (fun p => p.1 == a / 4096)).map (·.2)).getD 0
    ccRegs x (ccLoadLog x vs.1 (vs.2.foldl (fun b p => worse b p.2) 0))
      (fun r => as_.foldl (fun q p => wSet q (tD x.w) p.1 (ccLoadWord s x.k p.2 (cond p.2) qnan64)) r))

/-- The stores of the CC: BOUNDS, or the bytes at the address of the instruction; the lanes of WSCATTER in rising order (R103, R106,
R107, R275). -/
def Obligations.CcStoreRows : Prop :=
  (∀ p ∈ ([(.st, 3, gGet), (.fst, 5, fGet)] : List ((Nat → Instr) × Nat × (CcRegs → Nat → Word))),
    CcMay p.1 (isSub p.2.1) stBounds (fun x s => memAddr (regsOf x s) x.w % 8 = 0 ∧ memAddr (regsOf x s) x.w + 8 ≤ 0x80000) (fun x s =>
      engineWrite s x.k (memAddr (regsOf x s) x.w) (leBytes 8 (p.2.2 (regsOf x s) (bitsOf x.w 22 18)).toNat))) ∧
  CcMay .wst (isSub 7) stBounds (fun x s => memAddr (regsOf x s) x.w % 64 = 0 ∧ memAddr (regsOf x s) x.w + 64 ≤ 0x80000) (fun x s =>
    engineWrites s x.k ((lanes (regsOf x s)).map (fun j =>
      (memAddr (regsOf x s) x.w + 8 * j, leBytes 8 (wGet (regsOf x s) (bitsOf x.w 22 18) j).toNat)))) ∧
  CcMay .wscatter (isMinor 0x2F) stBounds (fun x s => ∀ p ∈ laneAddrs (regsOf x s) x.w, p.2 % 8 = 0 ∧ p.2 + 8 ≤ 0x80000) (fun x s =>
    engineWrites s x.k ((laneAddrs (regsOf x s) x.w).map (fun p => (p.2, leBytes 8 (wGet (regsOf x s) (tD x.w) p.1).toNat))))

/-- Frame of the storing rows: a next state of ST, FST, WST or WSCATTER has stack memory, and every byte of every core store, as before, but those
the form stores at its address or at the addresses of its lanes: 8 bytes, or 8 a lane (R103, R106, R107). -/
def Obligations.CcStoreFrame : Prop :=
  (∀ p ∈ ([(.st, 3), (.fst, 5)] : List ((Nat → Instr) × Nat)), ∀ s x t, CcAt (isSub p.2) s x → exec (p.1 x.n) s = .next t →
    t.mem = s.mem ∧
    ∀ k b, ¬(k = x.k ∧ memAddr (regsOf x s) x.w ≤ b ∧ b < memAddr (regsOf x s) x.w + 8) → storeByte t k b = storeByte s k b) ∧
  (∀ s x t, CcAt (isSub 7) s x → exec (.wst x.n) s = .next t → t.mem = s.mem ∧
    ∀ k b, ¬(k = x.k ∧ memAddr (regsOf x s) x.w ≤ b ∧ b < memAddr (regsOf x s) x.w + 8 * (lanes (regsOf x s)).length) →
      storeByte t k b = storeByte s k b) ∧
  (∀ s x t, CcAt (isMinor 0x2F) s x → exec (.wscatter x.n) s = .next t → t.mem = s.mem ∧
    ∀ k b, ¬(k = x.k ∧ ∃ p ∈ laneAddrs (regsOf x s) x.w, p.2 ≤ b ∧ b < p.2 + 8) → storeByte t k b = storeByte s k b)

/-- Frame of every other row of the CC: whatever it does, each byte of each core store, and all of stack memory, stay as they were. -/
def Obligations.CcNoStoreFrame : Prop :=
  ∀ p ∈ ccTable, ∀ s t n, exec (p.1 n) s = .next t → t.mem = s.mem ∧ ∀ k b, storeByte t k b = storeByte s k b

/-- An illegal word is skipped and logged whatever its predicate; a legal word whose predicate is 0 has no effect; both go on to the next
instruction, and neither is executed, so that the registers of the image stay (R124, R137, R141, R150; the model's reading, log entry 126). -/
def Obligations.CcSkipsAndPredicates : Prop :=
  ∀ p ∈ ccTable ++ ccStores, ∀ s x, CcPlace p.2 s x →
    (encIllegal x.w = true → Gives (p.1 x.n) s (ccPass x (ccSkip x (coreInternal s x.k) stIllegal))) ∧
    (encIllegal x.w = false → pGet (coreAt s x.k).regs (bitsOf x.w 30 28) = bitOf x.w 31 →
      Gives (p.1 x.n) s (ccPass x (coreInternal s x.k))) ∧
    (coreAt (ccPass x (coreInternal s x.k)) x.k).atEnd = (coreAt s x.k).atEnd

/-- The register files: g0 and p0 read 0 and 1 and discard writes; a write changes its register and lane only; f is lane 0 of w
(R100). -/
def Obligations.CcRegisterFiles : Prop :=
  ∀ (r : CcRegs) (i j l m : Nat) (v : Word) (b : Bool),
    gGet r 0 = 0 ∧ pGet r 0 = true ∧ gSet r 0 v = r ∧ pSet r 0 b = r ∧
    (i ≠ 0 → gGet (gSet r i v) j = if j = i then v else gGet r j) ∧
    (0 < i → i < 8 → j < 8 → pGet (pSet r i b) j = if j = i then b else pGet r j) ∧
    (l < 8 → m < 8 → wGet (wSet r i l v) j m = if j = i ∧ m = l then v else wGet r j m) ∧
    (fGet (fSet r i v) j = if j = i then v else fGet r j) ∧
    (sumGet (sumSet r i v) j = if j = i then v else sumGet r j)

/-- PUSH, POST and WAIT: a PUSH enqueues or places a void entry, and blocks while its queue is full; a WAIT is held until its counter
has its count; a stall release sets the counter to zero and ends the wait (R126, R127, R129, R131). -/
def Obligations.CcTokenRows : Prop :=
  (∀ s x q, CcAt (isMinor 0x34) s x → queueCode (bitsOf x.w 19 17) = some q →
    let t := coreInternal s x.k
    ((queueOf (coreAt t x.k) q).length < queueDepth q → Gives (.push x.n) s (ccDone x (pushTo x t q))) ∧
    (queueDepth q ≤ (queueOf (coreAt t x.k) q).length → Gives (.push x.n) s (modCore t x.k (fun c => { c with blocked := true })))) ∧
  CcDoes .post (isMinor 0x35) (fun x s => postTok s x.k (tD x.w) (bitsOf x.w 7 0) 0 x.off x.r.iter) ∧
  (∀ s x, CcAt (isMinor 0x36) s x →
    let t := coreInternal s x.k
    let c := coreAt t x.k
    let c1 := if c.ccWait.isSome then c else settle (timeNs t) { c with ccWait := some (tD x.w, bitsOf x.w 7 0) }
    (bitsOf x.w 7 0 = 0 → Gives (.wait x.n) s (ccDone x t)) ∧
    (bitsOf x.w 7 0 ≠ 0 → ccWaitDone c1 = true → Gives (.wait x.n) s (ccDone x (putCore t x.k (endCcWait c1)))) ∧
    (bitsOf x.w 7 0 ≠ 0 → ccWaitDone c1 = false → Gives (.wait x.n) s (putCore t x.k { c1 with blocked := true }))) ∧
  (∀ s n k u at_ t0 c cnt, CoreUp s n k → waitOf (coreAt s k) u = .held t0 → headWait (coreAt s k) u = some (c, cnt) →
    dget s kTokenStallLimit ≠ 0 → t0 + dget s kTokenStallLimit < timeNs (atTime s at_) →
    let p := stallPlace (coreAt s k) u
    Gives (.tokenStallRelease n u at_) s (dcount (tallySkip (modCore
      (logEvent (atTime s at_) k (waiterCode u) cdTokenStall p.1 p.2) k
      (fun d => settle (timeNs (atTime s at_)) (setWait (setTok d c 0) u .done))) k) kStallReleases 1))

/-- After a counter has served its waiters none is held whose count the counter has (R129, R130, R131); a stopped DE takes no wait (R322). -/
def Obligations.TokenWaitsServed : Prop :=
  ∀ (t t0 : Nat) (c : Core) (w : Waiter) (k n : Nat), (w ≠ .de ∨ c.de.stop = false) →
    waitOf (settle t c) w = .held t0 → headWait (settle t c) w = some (k, n) → tok (settle t c) k < n

/-! ### Launches, logs, flags and control registers -/

/-- LAUNCH_ADMISSION of a granted record whose core may take it: the core becomes a member of the context that its group is bound to, or the
launch of a bound group whose context is not OPEN is counted uncovered; a count of 0 runs nothing, a bad forme header is skipped and logged, and
otherwise the launch runs from iteration 0; a count other than 0 zeroes NMU_AMAX. FORME_BOUNDARY of a finished launch whose work has drained:
FINISHED galley slots are discarded and counted, the image is the registers at the end of the last executed instruction, and the core is free
(R100, R113, R118, R120, R122, R137, R192, R278, R424, R425). The model's readings in it: log entries 37, 126. -/
def Obligations.LaunchRows : Prop :=
  (∀ s n k l rest, CoreUp s n k → (coreAt s k).launchQ = l :: rest → (coreAt s k).granted = true →
    admitOpen s k (coreAt s k) = true →
    let c := coreAt s k
    let w0 := recWord l.words 0
    let now := timeNs s
    let u := modCore (dcount (monSample s 4 0 n (now - l.at_)) kAdmissionWaitNs (now - c.candSince.getD now)) k
      (fun d => { popLaunch now d with amax := if launchCount c w0 = 0 then d.amax else 0 })
    let b := bindingOf u (recGroup l.words)
    let t := contribute b.1 b.2 (fun x => { x with members := insNat n x.members })
    (launchCount c w0 = 0 → Gives (.launchAdmission n) s (launchEmpty t n k l false)) ∧
    (∀ f, launchCount c w0 ≠ 0 → formeCheck (coreAt t k) (launchSlot c w0) w0 = some f →
      Gives (.launchAdmission n) s (launchRun t n k l (launchSlot c w0) (launchCount c w0) f b.2)) ∧
    (launchCount c w0 ≠ 0 → formeCheck (coreAt t k) (launchSlot c w0) w0 = none →
      Gives (.launchAdmission n) s (launchEmpty (contribute
        (logEvent (dcount t kLaunchesAdmitted 1) k 6 stIllegal 0 0) b.2
        (fun x => { x with skip := satAdd max32 x.skip 1 })) n k l true))) ∧
  (∀ s n k r, CoreUp s n k → (coreAt s k).run = some r → r.finished = true → drainedCore s k (coreAt s k) = true →
    let t := restCluster (putCore (dcount s kGalleyDiscards (coreAt s k).galley.length) k (boundaryCore (timeNs s) (coreAt s k) r)) k
    (boundaryCore (timeNs s) (coreAt s k) r).galley = [] ∧ (boundaryCore (timeNs s) (coreAt s k) r).run = none ∧
    (boundaryCore (timeNs s) (coreAt s k) r).image = (coreAt s k).atEnd ∧
    Gives (.formeBoundary n) s (ringBoundary t r.ring r.idx n false))

/-- What software writes in control space, waking the cluster of a core it reaches: the clear of a log, flags with those of the same beat kept,
captures and reports, poison bits, the validity of an imposition group, and a register write on any path, which is lost where its links are
exhausted and after which a hart takes an interrupt that it brings (R13, R93, R95, R115, R135, R277, R313, R331, R407, R441, R460, R539).
The model's readings in it: log entries 112, 121, 143, 147. -/
def Obligations.ControlClears : Prop :=
  (∀ s n k, CoreUp s n k →
    (∀ (v : Word) met, v.getLsbD 0 = true →
      Gives (.logClear n v met) s (touchMod s k (fun c => { c with log := met.toList, dropped := 0 }))) ∧
    (∀ v met,
      let f := fun (b : FlagBlk) => { b with flags := (b.flags &&& ~~~(BitVec.ofNat 4 v.toNat)) ||| met }
      Gives (.flagClearWrite (.cc n) v met) s (touchMod s k (fun c => { c with ccF := f c.ccF })) ∧
      Gives (.flagClearWrite (.me n) v met) s (touchMod s k (fun c => { c with meF := f c.meF })) ∧
      Gives (.flagClearWrite (.ve n) v met) s (touchMod s k (fun c => { c with veF := f c.veF })) ∧
      Gives (.flagClearWrite (.coll n) v met) s (touchMod s k (fun c => { c with coll := { c.coll with
        flags := (c.coll.flags &&& ~~~(BitVec.ofNat 4 v.toNat)) ||| met } }))) ∧
    (∀ v met, Gives (.captureRelease (.cc n) v met) s (touchMod s k (fun c => { c with ccF := releaseCap c.ccF v.toNat met })) ∧
      Gives (.captureRelease (.me n) v met) s (touchMod s k (fun c => { c with meF := releaseCap c.meF v.toNat met })) ∧
      Gives (.captureRelease (.ve n) v met) s (touchMod s k (fun c => { c with veF := releaseCap c.veF v.toNat met })) ∧
      Gives (.captureRelease (.de n) v met) s (touchMod s k (fun c => { c with de := releaseDe c.de v met })) ∧
      Gives (.captureRelease (.coll n) v met) s (touchMod s k (fun c => { c with coll := releaseAbort c.coll v met }))) ∧
    (∀ t, t < 128 →
      Gives (.setPoison n t) s (touchMod s k (fun c => modTile c t (fun x => { x with poison := true }))) ∧
      Gives (.clearPoison n t false) s (touchMod s k (fun c => modTile c t (fun x => { x with poison := false }))) ∧
      Gives (.clearPoison n t true) s (touchMod s k (fun c => modTile c t (fun x => { x with poison := true }))))) ∧
  (∀ s : State, s.up = true →
    (∀ e v met, s.grade ≠ 3 → e < 64 → Gives (.flagClearWrite (.se e) v met) s
      (modEngine s e (fun g => { g with f := { g.f with flags := (g.f.flags &&& ~~~(BitVec.ofNat 4 v.toNat)) ||| met } }))) ∧
    (∀ st v met, st < 16 → Gives (.flagClearWrite (.nmu st) v met) s
      (modNmu s st (fun b => { b with flags := (b.flags &&& ~~~(BitVec.ofNat 4 v.toNat)) ||| met }))) ∧
    (∀ e v met, s.grade ≠ 3 → e < 64 → Gives (.captureRelease (.se e) v met) s
      (modEngine s e (fun g => { g with f := releaseCap g.f v.toNat met }))) ∧
    (∀ st v met, st < 16 → Gives (.captureRelease (.nmu st) v met) s (modNmu s st (fun b => releaseCap b v.toNat met))) ∧
    (∀ v met, Gives (.captureRelease .hdie v met) s (releaseHdie s v met)) ∧
    (∀ g v, g < 4096 → Gives (.impositionGroupValidSet g v) s (impSetValid s g (v.getLsbD 0))) ∧
    (∀ p a v r, a % 8 = 0 → pathReg s a p = some r →
      let x := regTry (regTouch s r) (pathOwner p) r
      (x.2 ≠ 0 → Gives (.registerWrite p a v) s x.1) ∧
      (∀ t, x.2 = 0 → regWrite x.1 v.toNat (2 ^ 64 - 1) r = some t →
        Gives (.registerWrite p a v) s ((List.range 64).foldl hartPoll t))))

/-- A capture is taken once: an event of an armed flag sets VALID and holds until released; later events leave it (R95). -/
def Obligations.CaptureHoldsFirstEvent : Prop :=
  ∀ (b : FlagBlk) (slot it off core : Nat) (e : FlagEv),
    (b.cap0.getLsbD 63 = true → (raiseEv b slot it off core e).cap0 = b.cap0 ∧ (raiseEv b slot it off core e).cap1 = b.cap1) ∧
    (b.cap0.getLsbD 63 = false → Nat.land (flagsNat e.fl) b.arm.toNat ≠ 0 →
      (raiseEv b slot it off core e).cap0.getLsbD 63 = true) ∧
    (raiseEv b slot it off core e).flags = b.flags ||| BitVec.ofNat 4 (flagsNat e.fl) ∧
    (raiseEv b slot it off core e).arm = b.arm

/-- The forme log holds its first 64 events; each further one is counted in DROPPED (R135). -/
def Obligations.FormeLogFills : Prop :=
  ∀ (s : State) (k src code off it : Nat),
    let c := coreAt s k
    let d := coreAt (logEvent s k src code off it) k
    (c.log.length < 64 → d.log = c.log ++ [⟨c.launchSeq, slotOf c, src, code, off, it⟩] ∧ d.dropped = c.dropped) ∧
    (64 ≤ c.log.length → d.log = c.log ∧ d.dropped = Nat.min (2 ^ 32 - 1) (c.dropped + 1)) ∧ d.regs = c.regs ∧ d.run = c.run

/-! ### The engines of a core -/

/-- A void entry and a NOOP at the head of a queue whose engine has reached them: they have waited, post, and do nothing else. A NOOP of CQ of a
stale launch is skipped, one with a non-zero field, and one of SQ where no solver engine serves the core (R19, R126, R127, R128, R151, R152, R163,
R367). That a NOOP counts neither in VE_COMMANDS nor in SE_COMMANDS is the model's choice, log entry 153. -/
def Obligations.VoidAndNoopRows : Prop :=
  (∀ s n k q x rest, CoreUp s n k → queueOf (coreAt s k) q = x :: rest → headReady (coreAt s k) q = true → x.void = true →
    queueFree s n (coreAt s k) q = true →
    Gives (.voidEntry n q) s (postCmd (served n q (putCore s k (takeHead (timeNs s) (coreAt s k) q))) k (queueSource q) x)) ∧
  (∀ s e, HeadAt e.q (fun x => w0Op x.w0 == 0) (fun s _ c => !queueFree s e.n c e.q) s e →
    
    let t := served e.n e.q (taken s e)
    let bad := ¬(fld e.x.w0 27 0 = 0 ∧ e.x.w1 = 0 ∧ e.x.w2 = 0 ∧ e.x.w3 = 0)
    (e.q = .cq → epochStale s e.k = true → Gives (.noop e.n e.q) s (exEnd e (dcount t kEpochStaleSkips 1) stEpochStale)) ∧
    (e.q ≠ .cq ∨ epochStale s e.k = false → Gives (.noop e.n e.q) s (exEnd e t
      (if bad then stIllegal
       else if e.q = .sq ∧ (s.grade = 3 ∨ (engineAt s (engineOf s e.n)).failed = true) then stFused else stOk))))

/-- MMA and MEWMA that pass their checks compute; one whose operands are illegal, name a fused format or leave the store is skipped. An MMA with a
gather window that no all-gather binds computes at once and is counted; one that binds takes its segments as they become ready, and is skipped
where the window breaks R194. Segments are taken while they are ready, and the command ends when all are taken; galley slots are reserved and
published while there is room, and once all have entered the last are published whether issue is held or not; a reservation or a wait for a slot
held for longer than TOKEN_STALL_LIMIT ends (R155, R175, R183, R187, R190, R191, R193, R194, R195, R196, R450). The model's readings in it: log
entries 123, 124, 129. -/
def Obligations.MatrixAndGalleyRows : Prop :=
  ((∀ s e f, HeadAt .mq (fun x => w0Op x.w0 == 1) meBusy s e → meFields (taken s e) e.x = some f → meClear false (taken s e) e.x f →
    let w := fld e.x.w1 11 0
    let t := taken s e
    (w = 0 → Gives (.mma e.n) s
      (meCompute e.k (dcount t kMeCommands 1) e.x f false (List.range (cdiv f.k 16)) false)) ∧
    (w ≠ 0 → gatherFor (coreAt t e.k) w = none → Gives (.mma e.n) s
      (meCompute e.k (dcount (dcount t kGatherUnbound 1) kMeCommands 1) e.x f false (List.range (cdiv f.k 16)) false)) ∧
    (∀ g, w ≠ 0 → gatherFor (coreAt t e.k) w = some g →
      let r := fld g.w3 63 32 / pitch f.b f.n
      let order := if (coreAt t e.k).collCmd.map (·.uid) = some g.uid then unionNat (coreAt t e.k).collReady [] else []
      let u := dcount (modCore t e.k (fun c => { c with boundUids := c.boundUids ++ [g.uid] })) kGatherBindings 1
      (windowBad t f g = true → Gives (.mma e.n) s
        (exEnd e (modCore u e.k (fun c => { c with boundUids := c.boundUids.filter (· != g.uid) })) stIllegal)) ∧
      (windowBad t f g = false → (f.m = 0 ∨ f.n = 0) → Gives (.mma e.n) s (meEnd e.k (dcount u kMeCommands 1) e.x stOk)) ∧
      (windowBad t f g = false → f.m ≠ 0 → f.n ≠ 0 →
        Gives (.mma e.n) s (gatherGo (segsNeeded f.k r + 1) e.k (modCore (dcount u kMeCommands 1)
          e.k (fun c => { c with meJob := some { cmd := e.x, bound := some g.uid, seg := r, order := order } })))))) ∧
  (∀ s e f, HeadAt .mq (fun x => w0Op x.w0 == 2) meBusy s e → meFields (taken s e) e.x = some f → meClear true (taken s e) e.x f →
    Gives (.mewma e.n) s (meCompute e.k (dcount (taken s e) kMeCommands 1) e.x f true (List.range (cdiv f.k 16)) false)) ∧
  (∀ p ∈ ([(.mma, false), (.mewma, true)] : List ((Nat → Instr) × Bool)), ∀ s e f,
    HeadAt .mq (fun x => w0Op x.w0 == (if p.2 then 2 else 1)) meBusy s e → (p.2 = false → fld e.x.w1 11 0 = 0) →
    (meFields (taken s e) e.x = none → Gives (p.1 e.n) s (exEnd e (taken s e) stIllegal)) ∧ (meFields (taken s e) e.x = some f →
    (meIllegal e.x p.2 (some f) = true → Gives (p.1 e.n) s (exEnd e (taken s e) stIllegal)) ∧
    (meIllegal e.x p.2 (some f) = false → meFused (taken s e) f = true → Gives (p.1 e.n) s (exEnd e (taken s e) stFused)) ∧
    (meIllegal e.x p.2 (some f) = false → meFused (taken s e) f = false →
      (meSrcs f p.2 ++ meDst f).any (fun r => !inStore r.1 r.2) = true → Gives (p.1 e.n) s (exEnd e (taken s e) stBounds))))) ∧
  ((∀ s n k j f, CoreUp s n k → (coreAt s k).meJob = some j → j.bound.isSome = true → meFields s j.cmd = some f →
    heldEngine s k = false →
    (∀ g, j.taken.length ≠ segsNeeded f.k j.seg → nextSeg s j (segsNeeded f.k j.seg) = some g →
      Gives (.gatherSegmentTake n) s (gatherGo 65536 k (gatherSeg k s j f g))) ∧
    (j.taken.length = segsNeeded f.k j.seg → j.taken ≠ [] → Gives (.gatherSegmentTake n) s (gatherEnd k s j f))) ∧
  (∀ s n k j, CoreUp s n k → (coreAt s k).meJob = some j → j.bound = none → heldEngine s k = false →
    galFits (coreAt s k) j.groups = true →
    Gives (.galleySlotReserve n) s (galRun k s j.cmd j.groups j.status)) ∧
  (∀ s n k j, CoreUp s n k → (coreAt s k).meJob = some j → j.bound = none → j.groups = [] →
    Gives (.galleySlotReserve n) s (galRun k s j.cmd [] j.status)) ∧
  (∀ s n k j at_, CoreUp s n k → (coreAt s k).meJob = some j → j.bound = none → dget s kTokenStallLimit ≠ 0 →
    j.since + dget s kTokenStallLimit < timeNs (atTime s at_) → galFits (coreAt s k) j.groups = false →
    Gives (.galleyStallRelease n at_) s (meEnd k (dcount (tallySkip (modCore (atTime s at_) k (fun c => { c with galleyRes := [] })) k)
      kGalleyStallReleases 1) j.cmd (worse j.status stPartial))) ∧
  (∀ s n k j f at_, CoreUp s n k → (coreAt s k).veJob = some j → veFields s j.cmd = some f → j.slots.length < slotsNeeded f →
    dget s kTokenStallLimit ≠ 0 → j.since + dget s kTokenStallLimit < timeNs (atTime s at_) → (coreAt s k).galley = [] →
    Gives (.galleyPhantomSlot n at_) s (phantom k (atTime s at_) j)))

/-- Every VE row of R157 but the indexed ones and VLUTLOAD: one that a check stops is skipped, with COUNT 0 it ends OK, otherwise it computes the
operation of its opcode once it has its galley slots (R14, R157, R188, R206). The model's readings in it: log entries 125, 130, 131, 132, 133, 153. -/
def Obligations.VectorRows : Prop :=
  (∀ p ∈ ([(.vadd, 0x01, elementwise eAdd), (.vsub, 0x02, elementwise eSub), (.vmul, 0x03, elementwise eMul),
      (.vdiv, 0x04, elementwise eDiv), (.vfma, 0x05, elementwise eFma), (.vmin, 0x06, elementwise eMin),
      (.vmax, 0x07, elementwise eMax), (.vclamp, 0x08, elementwise eClamp), (.vabs, 0x09, signOp (fun _ => false)),
      (.vneg, 0x0A, signOp (fun b => !b)), (.vsqrt, 0x0B, elementwise eSqrt), (.vcvt, 0x0C, cvtOut), (.vlut, 0x0D, lutOut),
      (.vsmacc, 0x0F, smaccOut), (.vsnorm, 0x10, snormOut), (.vsel, 0x13, selOut),
      (.vcopy, 0x17, fun fs c f sl => moveOut fs c f (srcA c f sl))] :
      List ((Nat → Instr) × Nat × (State → Core → VeF → List GSlot → VeOut))),
    VeDoes p.1 (isOp p.2.1) p.2.2 ∧ VeSkips p.1 (isOp p.2.1)) ∧
  (∀ p ∈ ([(.vredSum, 0), (.vredMax, 1), (.vredMin, 2), (.vredLargestMagnitude, 3)] : List ((Nat → Instr) × Nat)),
    VeDoes p.1 (isOpSub 0x11 p.2 3) redOut ∧ VeSkips p.1 (isOpSub 0x11 p.2 3)) ∧
  (∀ p ∈ ([(.vcmpEq, 0), (.vcmpNe, 1), (.vcmpLt, 2), (.vcmpLe, 3), (.vcmpGt, 4), (.vcmpGe, 5), (.vcmpUn, 6)] :
      List ((Nat → Instr) × Nat)), VeDoes p.1 (isOpSub 0x12 p.2 6) cmpOut ∧ VeSkips p.1 (isOpSub 0x12 p.2 6))

/-- VPERM, VGATHER and VSCATTER: indices out of range end BOUNDS, an overlap that the indices bring is illegal, otherwise elements move, VGATHER
verifying the elements that it reads. VLUTLOAD puts a table that is not bad in the buffer, with a program leaf for the colophon. Each is
skipped where a check stops it, and ends OK with COUNT 0 (R206, R217, R222, R225, R231, R426).
The model's readings in it: log entries 28, 125, 131, 132, 153. -/
def Obligations.IndexedVectorRows : Prop :=
  (∀ p ∈ ([(.vlutload, 0x0E), (.vperm, 0x14), (.vgather, 0x15), (.vscatter, 0x16)] : List ((Nat → Instr) × Nat)),
    VeSkips p.1 (isOp p.2) ∧
    ∀ s e f, VeAt (isOp p.2) s e f → f.cnt = 0 → Gives (p.1 e.n) s (exEnd e (dcount (taken s e) kVeCommands 1) stOk)) ∧
  (∀ s e f, VeAt (isOp 0x0E) s e f → f.cnt ≠ 0 →
    let t := taken s e
    let hv := verifyTiles t e.k (tilesOf f.aA 256)
    let bs := storeRead (coreAt t e.k) f.aA (256 + 4 * f.cnt)
    let bad := lutBad bs (bitsOf f.imm 22 20 + 1) f.cnt
    (bad = true → Gives (.vlutload e.n) s (exEnd e hv.1 stIllegal)) ∧
    (bad = false →
      let v := verifyTiles hv.1 e.k ((tilesOf f.aA (256 + 4 * f.cnt)).filter (fun q => !(tilesOf f.aA 256).contains q))
      let u := modCore v.1 e.k (fun c => { veStrips c f with lut := ⟨some (f.aA, bitsOf f.imm 22 20 + 1), worse hv.2 v.2 != 0, bs⟩ })
      Gives (.vlutload e.n) s (exEnd e (dcount (dcount (contribute u (bindOf (coreAt u e.k))
        (fun x => addProgLeaf x (sha384 (0x11 :: bs)))) kVeLutLoads 1) kVeCommands 1) (worse hv.2 v.2)))) ∧
  (∀ p ∈ ([(.vperm, 0x14), (.vgather, 0x15)] : List ((Nat → Instr) × Nat)), ∀ s e f, VeAt (isOp p.2) s e f → f.op = p.2 → f.cnt ≠ 0 →
    let t := taken s e
    let c := coreAt t e.k
    let js := indices c f
    let w := nfW f.s / 8
    let rg := if f.op = 0x14 then [] else reach f.aA w js
    let others := if f.op = 0x15 then [(f.dA, nfBytes f.s f.cnt)] else [(f.aA, nfBytes f.s f.cnt), (f.bA, 4 * f.cnt)]
    let out := js.any (fun j => if f.op = 0x14 then f.cnt ≤ j else 0x80000 < f.aA + (j + 1) * w)
    let bv := verifyTiles t e.k (tilesOf f.bA (4 * f.cnt))
    (out = true → Gives (p.1 e.n) s (exEnd e bv.1 stBounds)) ∧
    (out = false → rg.any (fun r => others.any (ovl r)) = true → Gives (p.1 e.n) s (exEnd e bv.1 stIllegal)) ∧
    (out = false → rg.any (fun r => others.any (ovl r)) = false →
      let read := ((idx js).filter (fun q => active c f q.1)).map (fun q => (f.aA + q.2 * w, w))
      let v := verifyTiles bv.1 e.k ((tilesOfRanges (veA f ++ (if f.op = 0x15 then read else []))).filter
        (fun q => !(tilesOf f.bA (4 * f.cnt)).contains q))
      Gives (p.1 e.n) s (veDeliver e.k (dcount v.1 kVeCommands 1) e.x f (worse bv.2 v.2)
        (moveOut (dcount v.1 kVeCommands 1) c f (js.map (fun j => leNat (storeRead c (f.aA + j * w) w))))))) ∧
  (∀ s e f, VeAt (isOp 0x16) s e f → f.op = 0x16 → f.cnt ≠ 0 →
    let t := taken s e
    let c := coreAt t e.k
    let js := indices c f
    let w := nfW f.s / 8
    let rg := reach f.dA w js
    let out := js.any (fun j => 0x80000 < f.dA + (j + 1) * w)
    let others := [(f.aA, nfBytes f.s f.cnt), (f.bA, 4 * f.cnt)]
    let bv := verifyTiles t e.k (tilesOf f.bA (4 * f.cnt))
    (out = true → Gives (.vscatter e.n) s (exEnd e bv.1 stBounds)) ∧
    (out = false → rg.any (fun r => others.any (ovl r)) = true → Gives (.vscatter e.n) s (exEnd e bv.1 stIllegal)) ∧
    (out = false → rg.any (fun r => others.any (ovl r)) = false →
      let v := verifyTiles bv.1 e.k ((tilesOfRanges (veA f ++ [])).filter (fun q => !(tilesOf f.bA (4 * f.cnt)).contains q))
      let xs := getElems (nfW f.s) f.cnt (storeRead c f.aA (nfBytes f.s f.cnt))
      Gives (.vscatter e.n) s (veDeliver e.k (dcount v.1 kVeCommands 1) e.x f (worse bv.2 v.2)
        ⟨[], [], (((idx js).zip xs).filter (fun p => active c f p.1.1)).map (fun p => (f.dA + p.1.2 * w, leBytes w p.2))⟩)))

/-- Every solver row: one of N or BATCH 0 ends OK and is counted in SE_COMMANDS (the model's choice, log entry 153), one whose descriptor or
extents break a rule is skipped before any other access, then one whose scale table holds a scale outside its range (the model's reading, log
entry 42), and otherwise its method runs; the partials of a joint reduction that it enters go up the tree. The return of a reduction serves
every member whose timeout has not come, at once or when the hold of its engine ends; an abort record of the same instant comes first (R236,
R237, R240, R244, R245, R248, R254, R258, R260, R263, R400, R403, R450, R576). The model's readings in it: log entries 43, 47, 76, 142. -/
def Obligations.SolverRows : Prop :=
  (∀ p ∈ ([(.range, 1, solverUp), (.lu, 2, id), (.chol, 3, id), (.ldlt, 4, id), (.tridiag, 5, id), (.banded, 6, id), (.trsv, 7, id),
      (.cg, 8, solverUp), (.gmres, 9, solverUp)] : List ((Nat → List Nat → Instr) × Nat × (State → State))), ∀ s e times n k x,
    SeHead p.2.1 e s n k x →
    let u := seTaken s e n k
    let f0 := seFields x []
    let d := verifyTiles u k (tilesOfRanges [seDesc f0])
    let f := seFields x ((List.range 16).map (wAt (words64 (coreAt d.1 k) (seDesc f0))))
    let v := verifyNew d.1 k (tilesOfRanges [seDesc f0]) (seTable f)
    let live := SeLegal e s x ∧ f0.n ≠ 0 ∧ f0.batch ≠ 0
    (seIllegal x = true → Gives (p.1 e times) s (p.2.2 (retire u k 5 x stIllegal))) ∧
    (seIllegal x = false → ¬SeLegal e s x → Gives (p.1 e times) s (p.2.2 (retire u k 5 x stFused))) ∧
    (SeLegal e s x → ¬live → Gives (p.1 e times) s (p.2.2 (retire (dcount u kSeCommands 1) k 5 x stOk))) ∧
    (live → inStore f0.aA 128 = false → Gives (p.1 e times) s (p.2.2 (retire u k 5 x stBounds))) ∧
    (live → inStore f0.aA 128 = true → seDescBad d.1 n x f = true → Gives (p.1 e times) s (p.2.2 (retire d.1 k 5 x stIllegal))) ∧
    (live → inStore f0.aA 128 = true → seDescBad d.1 n x f = false →
      let out := ([seScale f, seMat f, seFact f, seB f, seX f]).any (fun r => !inStore r.1 r.2)
      (out = true → Gives (p.1 e times) s (p.2.2 (retire d.1 k 5 x stBounds))) ∧
      (out = false → seScaleBad v.1 k f = true → Gives (p.1 e times) s (p.2.2 (retire v.1 k 5 x stIllegal)))) ∧
    (∀ t, SeAt p.2.1 e s n k x f t → Gives (p.1 e times) s
      (p.2.2 (seExec e n k x f (tilesOfRanges (seDesc f0 :: seTable f)) t.2 times (dcount t.1 kSeCommands 1))))) ∧
  (∀ s e sums lapse met at_ j, s.up = true →
    let t := metAbort [] met (atTime s at_)
    let ms := coMembers t j
    let r := (ms.map (fun m => m.2.it.out), sums, lapse != 0 || ms.any (fun m => m.2.it.lapse))
    (engineAt t e).job = some j → j.got = none → (collGroup t (j.jid / 256)).localCount ≤ ms.length →
    Gives (.solverReductionReturn e sums lapse ⟨met, at_⟩) s (solverUp
      ((ms.filter (fun m => timeNs t < m.2.since + dget t kCollTimeoutDefault)).foldl (fun u m =>
        if seHeld u m.1 = true then modEngine u m.1 (fun x => { x with job := some { m.2 with got := some r } })
        else jointReturn r u m) t)))

/-- Every DQ row: one that a check stops is skipped, otherwise its descriptor starts; so does an entry of a chain. The end of a descriptor, and a
stop of the DE at its boundary (R295, R309, R310, R314, R315, R316, R318, R320, R321, R322, R326). The model's readings in it: log entries 50, 51,
63, 127. -/
def Obligations.DmaDescriptors : Prop :=
  (DeDoes .copy (deMine 1) 1 (fun u e src _ t => t = startCopy u e.k e.x src) ∧
  DeDoes .copyT (deMine 2) 2 (fun u e src _ t => t = startCopy u e.k e.x src) ∧
  (∀ p ∈ ([(.nmuReduceAdd, 0), (.nmuScatterAdd, 1), (.nmuGather, 2), (.nmuTransposition, 3), (.nmuConversion, 4)] :
      List ((Nat → Instr) × Nat)), DeDoes p.1 (nmuMine p.2) 3 (fun u e src dst t => startNmu u e.n e.k e.x src dst = .inl t ∨
        ∃ v, startNmu u e.n e.k e.x src dst = .inr v ∧ t = deSkip (modDe v e.k (fun d => { d with job := none })) e.k e.x none stBounds)) ∧
  DeDoes .chain (deMine 4) 4 (fun u e _ _ t => t = chainRead (modDe u e.k (fun d => { d with
    job := none, chain := some { x := e.x, loc := dSrcL e.x, at_ := dSrc e.x, takenAt := timeNs u } })) e.k) ∧
  (∀ p ∈ ([(.dqAtomicIadd, 0), (.dqAtomicFadd, 1), (.dqAtomicMin, 2), (.dqAtomicMax, 3), (.dqAtomicSwap, 4), (.dqAtomicCas, 5)] :
      List ((Nat → Instr) × Nat)), DeDoes p.1 (aopMine p.2) 6 (fun u e _ dst t => t = startAtomic u e.n e.k e.x dst)) ∧
  (∀ p ∈ deTable, ∀ s n k ch x, CoreUp s n k → (deAt s k).job = none → (deAt s k).stop = false → (deAt s k).chain = some ch →
    ch.entry = some x → p.2 x = true → (deReady s k x).2 = true → Gives (p.1 n) s
      (deStart (modDe s k (fun d => { d with chain := some { ch with entry := none } })) n k x (some (ch.count - 1)))) ∧
  (∀ s e st, DqAt (deMine 5) s e → w0Op e.x.w0 = 5 → dSkip (taken s e) e.k e.x = some st →
    Gives (.fence e.n) s (deSkip (taken s e) e.k e.x none st)) ∧
  (∀ s e, DqAt (deMine 5) s e → w0Op e.x.w0 = 5 → dSkip (taken s e) e.k e.x = none → dEmpty e.x = false → Gives (.fence e.n) s
    (modJob (modDe (taken s e) e.k (fun d => { d with job := some { x := e.x, cidx := none, takenAt := timeNs (taken s e) } }))
      e.k (fun j => { j with writing := true })))) ∧
  ((∀ s n k j, CoreUp s n k → (deAt s k).job = some j →
    (j.writing = true → deBusyNow s k = false → Gives (.deDescriptorComplete n) s (deFinish s k j)) ∧
    (j.writing = false → Gives (.deDescriptorComplete n) s (deNext s k))) ∧
  (∀ s n k (v : Word), CoreUp s n k → v.getLsbD 0 = true → Gives (.deStop n v) s (touchMod s k (fun c => settle (timeNs s)
    { c with de := { c.de with stop := true, stopped := c.de.stopped || (c.de.job.isNone && c.de.chain.isNone) } }))) ∧
  (∀ s n k (v : Word), CoreUp s n k → v.getLsbD 0 = false → Gives (.deStop n v) s (touchMod s k (fun c => settle (timeNs s)
    { c with de := { c.de with stop := false, stopped := false } }))) ∧
  (∀ s n k, CoreUp s n k → (deAt s k).stop = true → (deAt s k).job = none →
    Gives (.deStopped n) s (modCore s k (fun c => { c with de := { c.de with stopped := true } }))))

/-- Every CQ row enters its collective when no check skips it (R379, R381, R382, R383, R388, R399, R402).
The model's readings in it: log entries 51, 78, 128. -/
def Obligations.CollectiveRows : Prop :=
  (∀ p ∈ ([(.barrier, 1), (.allgather, 3), (.reduceScatter, 4), (.allreduceRing, 5), (.allreduceTree, 6), (.broadcast, 7),
      (.alltoall, 8), (.alltoallv, 9)] : List ((Nat → Instr) × Nat)), CollDoes p.1 p.2 none) ∧
  (∀ p ∈ ([(.hbreduceIntegerSum, 0), (.hbreduceMinimum, 1), (.hbreduceMaximum, 2), (.hbreduceAnd, 3), (.hbreduceOr, 4),
      (.hbreduceXor, 5), (.hbreduceFx192Sum, 6), (.hbreduceExactFp64Sum, 7)] : List ((Nat → Instr) × Nat)),
    CollDoes p.1 2 (some p.2))

/-- The course of a collective: staging, the entry round and its mismatch, completion, timeouts of a collective and of a joint solve, and the
VALID of a group. An abort record that comes at the same time as a completion or an expiry is taken first, and is the one kept (R262, R376, R380,
R382, R396, R397, R400, R402, R403, R406). The model's readings in it: log entries 51, 75, 77, 78, 121, 140. -/
def Obligations.CollectiveCourseRows : Prop :=
  (∀ s n k x at_, CoreUp s n k → (coreAt s k).collCmd = some x → (collAt s k).stage = 1 →
    (collAt (reserveStaging (atTime s at_) k x) k).stage = 2 →
    Gives (.stagingReserved n at_) s (dcount (reserveStaging (atTime s at_) k x) kStagingWaitNs
      (timeNs (atTime s at_) - (collAt s k).waitFrom))) ∧
  (∀ s g o m ms, s.up = true →
    let gr := collGroup s g
    let at2 := running s g (fun c => c.stage == 2)
    let i := at2.foldl (fun a m => min a (collAt s m.2.1).inst) ((at2.head?.map (fun m => (collAt s m.2.1).inst)).getD 0)
    at2.filter (fun m => (collAt s m.2.1).inst == i) = m :: ms → gr.localCount ≤ (m :: ms).length →
    (hasTree gr = true ∨ o.words = []) →
    let bad := entryMismatch s gr (w0Op m.2.2.w0) ((m :: ms).map (fun m => entryWords s gr m.1 m.2.2) ++ o.words.map (·.2))
    let u := dcount ((m :: ms).foldl (fun s m => modColl s m.2.1 (fun c => { c with stage := 4 })) s) kCollMismatches 1
    (bad = true → Gives (.collEntryRoundResult g o) s
      (if gr.parent = 0xFFFF then acceptAbort u g i false (cqRec m.2.2 0x81 0xFFFFFFFF) else u)) ∧
    (bad = false → (phaseReady s gr (m :: ms)).2 = true → Gives (.collEntryRoundResult g o) s
      (collSettle (dataPhase (phaseReady s gr (m :: ms)).1 g i (m :: ms) m.2.2 o))) ∧
    (bad = false → (phaseReady s gr (m :: ms)).2 = false → Gives (.collEntryRoundResult g o) s (phaseReady s gr (m :: ms)).1)) ∧
  (∀ s g o, s.up = true → running s g (fun c => c.stage == 2) = [] → (collGroup s g).valid = true →
    (collGroup s g).localCount = 0 → o.words ≠ [] →
    Gives (.collEntryRoundResult g o) s (relayRound s g o)) ∧
  (∀ s n met at_,
    let u := collSettle (metAbort [] met (atTime s at_))
    ∀ k x, CoreUp s n k → keyOf u n = some k → (coreAt u k).collCmd = some x → (collAt u k).stage = 3 →
    timeNs u < (collAt u k).taken + qTimeout u x →
    ((collAt u k).known = true ∧ (∀ w ∈ (collAt u k).wants, w ∈ (collAt u k).segs) ∨ segsAll (collGroup u (qGroup x)) x (collAt u k) = true) →
    (collAt u k).sends = [] →
    ((collAt u k).wrote = true → collWaits u k = false → (collAt u k).lost = false →
      Gives (.collComplete n ⟨met, at_⟩) s (collFinish u n k x)) ∧
    (let m := memReady u [] (resultRanges x (collAt u k)) (.coll k)
     let t := collWrite m.1 n k x
     (collAt u k).wrote = false →
     (m.2 = false → Gives (.collComplete n ⟨met, at_⟩) s m.1) ∧
     (m.2 = true → Gives (.collComplete n ⟨met, at_⟩) s
      (if (collAt t k).stage = 3 ∧ collWaits t k = false ∧ (collAt t k).lost = false then collFinish t n k x else t)))) ∧
  (∀ s n met at_,
    let u := metAbort [n] met (atTime s at_)
    ∀ k, CoreUp s n k → keyOf u n = some k → Gives (.collTimeoutExpiry n ⟨met, at_⟩) s (seExpire n (cqExpire n k u))) ∧
  (∀ s n k x, (coreAt s k).collCmd = some x → (collAt s k).stage ≠ 0 → (collAt s k).taken + qTimeout s x ≤ timeNs s →
    let r : AbortRec := ⟨qId x, 0x80, rankOf (collGroup s (qGroup x)) n, qRop x, qNval x⟩
    cqExpire n k s = originate (dcount (collAbortEnd s n k x r stCollTimeout) kCollTimeouts 1) (qGroup x) (collAt s k).inst false r) ∧
  (∀ s n j, (engineAt s (engineOf s n)).job = some j → j.n = n → j.jid ≠ 0 → j.got = none →
    j.since + dget s kCollTimeoutDefault ≤ timeNs s →
    let r : AbortRec := ⟨j.jid, 0x80, rankOf (collGroup s (j.jid / 256)) n, seRop j, seNval j j.inst⟩
    seExpire n s = originate (dcount (seAbortBy (engineOf s n) stCollTimeout r s) kCollTimeouts 1) (j.jid / 256) j.inst true r) ∧
  (∀ s g v, s.up = true → g < 256 → Gives (.collGroupValidSet g v) s (groupSetValid s g (v.getLsbD 0)))

/-! ### Memory and the fabric -/

/-- The stacks: scrub, retraining and clearing in the phases that accept them and not in the others, where the dictionary takes writes, and held
where it does not, the ends of stack work, after which what waited is served, the first atomic at an NMU whose line takes writes, or that is too
old, and the first held write that may go on, each once the snoops of its line are answered (R282, R283, R289, R293, R302, R303, R353, R361,
R522). The model's readings in it: log entries 51, 58, 61, 138. -/
def Obligations.StackRows : Prop :=
  ∀ s : State, s.up = true →
    (∀ line, dget s kScrubInterval ≠ 0 → 128 * line < 2 ^ 40 → stackFree s (stackOf s (128 * line)) = true →
      Gives (.scrubRead line) s (lineRead s (128 * line)).1) ∧
    (∀ v : BitVec 16,
      (dictOpen s = true → (phase s = phIdle ∨ phase s = phTest ∨ phase s = phRecovery) → Gives (.stackRetrain v) s (stackRetrain s v.toNat)) ∧
      (dictOpen s = true → phase s = phIdle → Gives (.stackClear v) s (stackClear s v.toNat)) ∧
      (dictOpen s = true → ¬(phase s = phIdle ∨ phase s = phTest ∨ phase s = phRecovery) → exec (.stackRetrain v) s = .next s) ∧
      (dictOpen s = true → phase s ≠ phIdle → exec (.stackClear v) s = .next s) ∧
      (dictOpen s = false → Gives (.stackRetrain v) s { s with rxq := s.rxq ++ [.entry kStackRetrain v.toNat none] } ∧
        Gives (.stackClear v) s { s with rxq := s.rxq ++ [.entry kStackClear v.toNat none] })) ∧
    (∀ st o w, workOf s st = 1 :: w → Gives (.stackTrainingDone st o) s (drainIngress (setWork (stackTrained s st o) st w))) ∧
    (∀ st o w, workOf s st = 3 :: w → Gives (.stackRetrainDone st o) s (drainIngress (setWork (stackTrained s st o) st w))) ∧
    (∀ st w, workOf s st = 2 :: w → Gives (.stackZeroingDone st) s (drainIngress (setWork (zeroStack s st) st w))) ∧
    (∀ st w, workOf s st = 4 :: w → Gives (.stackClearDone st) s (drainIngress (setWork (zeroStack s st) st w))) ∧
    (∀ st q,
      let t := heldCow s
      let m := memReady t [] [(q.addr / 128 * 128, 128)] q.who
      t.atomics.find? (fun q => q.st == st && (atomicOld t q || atomicFree t q)) = some q →
      (atomicOld t q = true → Gives (.nmuAtomicApply st) s (drainIngress (atomicDrop t q))) ∧
      (atomicOld t q = false → m.2 = false → Gives (.nmuAtomicApply st) s m.1) ∧
      (atomicOld t q = false → m.2 = true →
        let r := atomicApply (atomicGone m.1 q) q (atomicFrom m.1 q.who)
        Gives (.nmuAtomicApply st) s (drainIngress (atomicGive r.1 q r.2.1 r.2.2)))) ∧
    (∀ h, heldNext s [] s.held = some h →
      (h.back = true → Gives .cowHeldWriteRelease s (heldProceeds s h)) ∧
      (h.back = false →
        let m := memReady s [] [(h.line, 128)] h.who
        Gives .cowHeldWriteRelease s (if m.2 = true then heldProceeds m.1 h else m.1)))

/-- A request flit that arrives at its home passes the detector of its F-die and is served as soon as it can be: it takes its place behind what
waits for the F-die, in the queue of hot lines where its line is hot, a line that lands in staging being remembered, but the write-back of a line
is written at once, and a READ or write that names the snapshot block acts on it. With nothing else waiting it is served at once, its credits
being returned, or, where its line is not to be had, it waits; one that is too old is dropped (R350, R353, R357, R360, R361, R368, R397, R484).
The model's readings in it: log entries 64, 72, 112, 135, 139, 140. -/
def Obligations.FabricRequestRows : Prop :=
  (∀ p ∈ ([(.read, 1), (.write, 2), (.writeMask, 3), (.atomicIadd, 4), (.atomicFadd, 5), (.atomicMin, 6), (.atomicMax, 7), (.atomicSwap, 8),
      (.atomicCas, 9)] : List ((Nat → Flit → Instr) × Nat)), ∀ s port f g t, FlitAt p.2 port s f g t →
    let fd := match lineOf t g with | some la => homeFd t la | none => port / 32
    let h := hotTouch t fd false (g.w1.toNat / 128)
    (∀ o, p.2 ≤ 3 → snapLine t g = some o → Gives (p.1 port f) s (snapServe t port g o)) ∧
    (3 < p.2 ∨ snapLine t g = none →
      (∀ la, lineOf t g = some la → p.2 = 2 → g.co = 3 → Gives (p.1 port f) s (agentWriteBack (creditBack h.1 port g) fd la g)) ∧
      (lineOf t g = none → Gives (p.1 port f) s (drainIngress { h.1 with ingress := h.1.ingress ++ [⟨fd, port, h.2, g⟩] })) ∧
      (∀ la, lineOf t g = some la → p.2 ≠ 2 ∨ g.co ≠ 3 →
        let u := noteLanding h.1 la g
        Gives (p.1 port f) s (drainIngress { u with ingress := u.ingress ++ [⟨fd, port, h.2, g⟩] })))) ∧
  (∀ (s : State) (q : Ingress), s.relayQ = [] → s.ingress = [q] →
    let r := ingressServe { s with ingress := [] } q []
    let u := creditBack (dcount { s with ingress := [] } kLifetimeDrops 1) q.port q.f
    (tooOld s q.f = true → drainIngress s = { u with ingress := [] }) ∧
    (tooOld s q.f = false → r.2.1 = true → r.2.2.1 = [q] ∧ r.2.2.2 = [] → drainIngress s = { creditBack r.1 q.port q.f with ingress := [] }) ∧
    (tooOld s q.f = false → r.2.1 = false → drainIngress s = { r.1 with ingress := [q] }))

/-- The other flits that arrive: replies end the request of their tag, as failed where the link between the F-dies is exhausted (R460), after which
an EPOCH_ADVANCE that waited for it is answered, a reply of none is counted; snoops are answered and their answers used; the acknowledgement
of the system network moves its window; harebell flits and SEG_DONE. The buffer of the flit is free once it is served (R344, R352, R354, R358,
R361, R371, R385, R397, R401, R502, R522). The model's readings in it: log entries 64, 65, 76, 79, 147. -/
def Obligations.FabricReplyRows : Prop :=
  (∀ p ∈ ([(.readResp, 0x0A, fun k => k == 1, fun s r g => readEnds s r g.payload (fStatus g), fovisPump),
      (.writeAck, 0x0B, fun k => k == 2 || k == 3, fun s r g => writeEnds s r (fStatus g), fovisPump ∘ collSettle),
      (.atomicResp, 0x0C, fun k => 4 ≤ k, fun s r g => atomicEnds s r (leNat (g.payload.take 8)) (fStatus g), fovisPump)] :
      List ((Nat → Flit → Instr) × Nat × (Nat → Bool) × (State → Req → Flit → State) × (State → State))), ∀ s port f g t0,
    FlitAt p.2.1 port s f g t0 →
    let t := creditBack t0 port g
    (reqOf t g p.2.2.1 = none → Gives (p.1 port f) s (p.2.2.2.2 (dcount t kLateReplies 1))) ∧
    (∀ r, reqOf t g p.2.2.1 = some r →
      let x := routeTry t (fabRoute (8 + port / 32) r.fd)
      let a := if x.2 = 0 then g else { g with w1 := BitVec.ofNat 64 (0x83 * 2 ^ 56) }
      Gives (p.1 port f) s (p.2.2.2.2 (epochTry (p.2.2.2.1
        ((tripSub r.f).foldl (fun s sub => monSample s 3 sub r.fd (timeNs s - r.first))
          { x.1 with reqs := x.1.reqs.filter (fun q => !(q.fd == r.fd && q.tag == r.tag)) }) r a))))) ∧
  (∀ p ∈ ([(.snpInv, 0x0D, fun s g => snoopAnswer s g true), (.snpRd, 0x0E, fun s g => snoopAnswer s g false),
      (.snpAck, 0x0F, fun s g => snoopBack s g false), (.snpData, 0x10, fun s g => snoopBack s g true),
      (.hbUp, 0x18, hbUpFlit), (.hbDown, 0x19, hbDownFlit), (.segDone, 0x1C, fun s g => collSettle (segDoneAt s g))] :
      List ((Nat → Flit → Instr) × Nat × (State → Flit → State))), ∀ s port f g t,
    FlitAt p.2.1 port s f g t → Gives (p.1 port f) s (p.2.2 (creditBack t port g) g)) ∧
  (∀ s port f g t at_, FlitAt 0x1A port (atTime s at_) f g t → Gives (.hbAbort port f at_) s (hbAbortFlit (creditBack t port g) g)) ∧
  (∀ s port f g t, FlitAt 0x11 port s f g t → Gives (.sysAck port f) s (sysRefill (modSysTx (creditBack t port g) (fSrc g) (fun q => { q with
      un := q.un.filter (fun u => (u.1 + 2 ^ 24 - fSeq g) % 2 ^ 24 < 2 ^ 23) })) (fSrc g)))

/-- A flit of any row that the link takes in order and that breaks R345 is dropped by whichever row it comes with: it is counted in
FLITS_MALFORMED, its credits are returned and nothing answers it. One whose CRC fails, or whose buffer fails its ECC, is discarded, and so is
every other until its LSEQ comes again (R334, R344, R345, R460). The model's readings in it: log entries 64, 66, 136. -/
def Obligations.MalformedFlitsAreDropped : Prop :=
  ∀ p ∈ ([(.read, id), (.write, id), (.writeMask, id), (.atomicIadd, id), (.atomicFadd, id), (.atomicMin, id), (.atomicMax, id),
      (.atomicSwap, id), (.atomicCas, id), (.readResp, fovisPump), (.writeAck, fovisPump ∘ collSettle), (.atomicResp, fovisPump), (.snpInv, id), (.snpRd, id),
      (.snpAck, id), (.snpData, id), (.sysAck, id), (.hbUp, id), (.hbDown, id), (.segDone, collSettle), (fun q f => .hbAbort q f 0, id)] :
      List ((Nat → Flit → Instr) × (State → State))), ∀ s port f, s.up = true → port < 64 → portUp s port = true → malformed f = true →
    let u := dcount s kFecCorrected f.fec
    (crcOk f = false → Gives (p.1 port f) s (p.2 (modPort u port (fun x => { x with bad := some x.rxNext })))) ∧
    (crcOk f = true → tLseq f.trailer ≠ awaited (portAt s port) → Gives (p.1 port f) s (p.2 u)) ∧
    (crcOk f = true → tLseq f.trailer = awaited (portAt s port) →
      let b := bufferCheck u port (fVl f)
      (b.2 = true → Gives (p.1 port f) s (p.2 (modPort b.1 port (fun x => { x with bad := some x.rxNext })))) ∧
      (b.2 = false → Gives (p.1 port f) s (p.2 (creditBack (dcount (drainOut
        (modPort b.1 port (fun x => linkAccept x f.trailer))) kFlitsMalformed 1) port { f with trailer := 0, fec := 0 }))))

/-- Links, ports, PORT_RETRAIN in the phases that accept it and not in the others, and the timers of requests (R333, R334, R335, R336, R338, R348,
R354, R356, R357, R358, R368, R371). The model's readings in it: log entries 70, 71, 73, 74. -/
def Obligations.LinkRows : Prop :=
  ∀ s : State, s.up = true →
    (∀ port lseq, port < 64 → portUp s port = true → Gives (.linkFlitReceiveFail port lseq) s
      (detect (dcount (modPort s port (fun x => if lseq % 4096 = x.rxNext then { x with bad := some x.rxNext } else x)) kFecUncorrected 1) 6
        (unitCoord s (portFd port) 0x7E0) (if portSt s port = 3 then 0x1FF else 0xFF) (.port port))) ∧
    (∀ port, port < 64 → portUp s port = true → (portAt s port).unacked ≠ [] → Gives (.linkRetryResend port) s
      (if (portAt s port).tries.any (15 ≤ ·) = true then portDown s port
       else dcount (modPort s port (fun x => { x with tries := x.tries.map (· + 1) })) kLinkRetries (portAt s port).unacked.length)) ∧
    (∀ v : Word, (dictOpen s = true → (phase s = phIdle ∨ phase s = phTest ∨ phase s = phRecovery) →
        Gives (.portRetrain v) s (portRetrain s v.toNat)) ∧
      (dictOpen s = true → ¬(phase s = phIdle ∨ phase s = phTest ∨ phase s = phRecovery) → exec (.portRetrain v) s = .next s) ∧
      (dictOpen s = false → Gives (.portRetrain v) s { s with rxq := s.rxq ++ [.entry kPortRetrain v.toNat none] })) ∧
    (∀ port (o : PortEyes), port < 64 → portSt s port = 1 →
      let rx := failedLanes o.rxFailed
      let tx := failedLanes o.txFailed
      let unit := unitCoord s (portFd port) 0x7E0
      (o.peer = none → Gives (.portTrainingDone port o) s (calEvent (dset s (kPortState + port) 0) 0x06 unit port)) ∧
      (∀ q, o.peer = some q →
        (2 ≤ rx.length ∨ 2 ≤ tx.length → Gives (.portTrainingDone port o) s (calEvent (dset s (kPortState + port) (peerBits q)) 0x06 unit port)) ∧
        (rx.length < 2 → tx.length < 2 → peerOk s port q.1 = false → Gives (.portTrainingDone port o) s
          (calEvent (dset s (kPortState + port) (4 * 2 ^ 24 + peerBits q)) 0x06 unit (port + 2 ^ 31))) ∧
        (rx.length < 2 → tx.length < 2 → peerOk s port q.1 = true → Gives (.portTrainingDone port o) s
          (drainOut ((rx ++ tx).foldl (fun s l => calEvent s 0x04 unit (port * 256 + l))
            (dset s (kPortState + port) ((if rx ++ tx = [] then 2 else 3) * 2 ^ 24 + peerBits q))))))) ∧
    (∀ dst seq at_ u, (sysTxAt (atTime s at_) dst).un.find? (fun u => u.1 == seq) = some u →
      let t := atTime s at_
      (dget t kRequestLifetime ≤ ageNs t u.2.2 → Gives (.sysResend dst seq at_) s
        (sysRefill (modSysTx t dst (fun q => { q with un := q.un.filter (fun v => v.1 != seq) })) dst)) ∧
      (ageNs t u.2.2 < dget t kRequestLifetime → u.2.1 + dget t kSysRetryInterval ≤ timeNs t → Gives (.sysResend dst seq at_) s
        (dcount (emit (modSysTx t dst (fun q => { q with un := q.un.map (fun v => if v.1 == seq then (seq, timeNs t, u.2.2) else v) }))
          u.2.2 (pChassis dst % 2)).1 kE2eRetries 1))) ∧
    (∀ fd tag at_ r, s.reqs.find? (fun r => r.fd == fd && r.tag == tag) = some r → fKind r.f ≠ 2 → fKind r.f ≠ 3 →
      (r.retries + 1) * dget s kE2eRetryInterval < dget s kRequestLifetime →
      r.first + (r.retries + 1) * dget s kE2eRetryInterval ≤ timeNs (atTime s at_) →
      Gives (.e2eRetry fd tag at_) s (dcount (post { atTime s at_ with reqs := s.reqs.map (fun q =>
        if q.fd == fd && q.tag == tag then { q with retries := q.retries + 1 } else q) } (withRetry r.f) r.fd) kE2eRetries 1)) ∧
    (∀ fd tag at_ r, s.reqs.find? (fun r => r.fd == fd && r.tag == tag) = some r →
      r.first + dget s kReplyTimeout ≤ timeNs (atTime s at_) →
      Gives (.replyTimeoutExpiry fd tag at_) s (fovisPump (collSettle (epochTry (failEnds
        { atTime s at_ with reqs := s.reqs.filter (fun q => !(q.fd == fd && q.tag == tag)) } r 0x84))))) ∧
    (∀ fd src tag at_ r, s.replay.find? (fun r => r.fd == fd && r.src == src && r.tag == tag) = some r →
      r.expiry ≤ timeNs (atTime s at_) →
      Gives (.replayEntryExpiry fd src tag at_) s (drainIngress { atTime s at_ with replay := s.replay.erase r })) ∧
    (∀ fd eg line at_, Gives (.hotLineCool fd eg line at_) s { atTime s at_ with hot := s.hot.map (fun h =>
      if h.fd == fd && h.egress == eg && h.line == line && h.hot && decide (h.since + 8000 ≤ timeNs (atTime s at_))
      then { h with hot := false } else h) }) ∧
    (∀ l v, l < 16384 → Gives (.translationEntryWrite l v) s (transWrite s l v.toNat (2 ^ 64 - 1)))

/-! ### Colophons -/

/-- The life of a context, and what each of its rows does where its precondition holds; elsewhere the row leaves the package as it is. OPEN begins
an invocation with nothing accumulated; CLOSE takes the fingerprint again; ABANDON returns the context to IDLE without a record, and after either
an EPOCH_ADVANCE that waited for leaves of the old invocation goes on; a drained package says so to the root, which seals, and every other package
then sends its partial; the root combines the partials and sends the record; each side has its timeout. A message of another epoch is dropped; a
leaf is entered by its owner, or refused, and how it ended goes back; an attachment takes the record of a context that is CLOSED (R366, R422,
R423, R427, R428, R430, R431, R432, R436, R437, R502). The model's readings in it: log entries 6, 83, 84, 85. -/
def Obligations.ColophonRows : Prop :=
  ∀ (s : State) (c : Nat), s.up = true → c < 16 →
    let x := ctxAt s c
    let own := dget s kOwnLogicalId
    let zero := fun (i : Ctx) => { i with
      flags := 0, skip := 0, poison := 0, reuse := 0, pivot := 0, members := [], prog := [], states := [0, 0, 0], sent := 0,
      localDone := false, sealed := false, awaits := [] }
    (let ok := (x.state = 0 ∨ x.state = 3) ∧ x.ownerBase + x.ownerCount ≤ 16384 ∧ x.ownerShift ≤ 32 ∧
        x.ownerBase ≤ own ∧ own < x.ownerBase + x.ownerCount
     (ok → Gives (.contextOpen c) s (epochTry (modCtx (dropLeaves s c) c (fun i => { zero i with
        state := 1, invocation := (i.invocation + 1) % 2 ^ 32, ownIndex := own - i.ownerBase, scope := dget s kDeterminismScope,
        fingerprint := fingerprint s, closeAt := 0, settingsChanged := false, leafCount := 0 })))) ∧
     (¬ok → exec (.contextOpen c) s = .next s)) ∧
    ((x.state = 1 → Gives (.contextClose c) s (modCtx s c (fun i => { i with
        state := 2, closeAt := timeNs s, settingsChanged := fingerprint s != i.fingerprint, fingerprint := fingerprint s,
        leafCount := dget s kLeafCount }))) ∧
     (x.state = 1 → Gives (.contextAbandon c) s
        (epochTry (dcount (modCtx (dropLeaves s c) c (fun i => { zero i with state := 0 })) kContextsAbandoned 1))) ∧
     (x.state ≠ 1 → exec (.contextClose c) s = .next s ∧ exec (.contextAbandon c) s = .next s)) ∧
    (x.state = 2 → ctxDrained s c = true → x.localDone = false →
      let t := modCtx s c (fun i => { i with localDone := true })
      Gives (.contextDrained c) s (if x.ownIndex = 0 then t else colSend t c 0 .drained)) ∧
    (∀ dr, x.state = 2 → x.localDone = true → x.sealed = false →
      let t := modCtx s c (fun i => { i with sealed := true })
      let all := (List.range x.ownerCount).all (fun i => i == 0 || dr.contains i)
      (x.ownIndex ≠ 0 → Gives (.contextSeal c dr) s (colSend t c 0 (.part (ownPartial s c)))) ∧
      (x.ownIndex = 0 → all = true → Gives (.contextSeal c dr) s (colSendAll t c .seal)) ∧
      (x.ownIndex = 0 → all = false → exec (.contextSeal c dr) s = .next s)) ∧
    (∀ ps, x.state = 2 → x.ownIndex = 0 → x.sealed = true → partsFull x ps = true →
      let b := combineParts s c (ownPartial s c) ps true
      Gives (.contextRecordForm c ps) s (colSendAll (closeWith s c b true true) c (.record b))) ∧
    (∀ r, x.state = 2 → x.ownIndex ≠ 0 → r.length = 256 →
      Gives (.contextRecordReceive c r) s (modCtx s c (fun i => { i with state := 3, record := r }))) ∧
    (∀ at_ ps, x.state = 2 → x.ownIndex = 0 → x.closeAt + dget s kCloseTimeout ≤ timeNs (atTime s at_) →
      let t := atTime s at_
      let full := x.sealed && partsFull x ps
      let b := combineParts t c (ownPartial t c) ps full
      Gives (.closeRootTimeout c at_ ps) s (colSendAll (closeWith t c b true full) c (.record b))) ∧
    (∀ at_, x.state = 2 → x.closeAt + 2 * dget s kCloseTimeout ≤ timeNs (atTime s at_) →
      let t := atTime s at_
      Gives (.closePackageTimeout c at_) s (closeWith t c (loneRecord t c) true false)) ∧
    (∀ l : LeafMsg, l.cls < 2 → l.digest.length = 48 → l.off < 2 ^ 32 →
      (l.epoch ≠ dget s kJobEpoch → Gives (.leafArrival c l) s (dcount s kEpochDrops 1)) ∧
      (l.epoch = dget s kJobEpoch →
        (∀ st, l.ended = some st → x.awaits.contains (l.cls, l.off) = true →
          let t := modCtx s c (fun i => { i with awaits := i.awaits.erase (l.cls, l.off) })
          Gives (.leafArrival c l) s (epochTry (if st = stOk then t else markClass t c l.cls 4))) ∧
        (l.ended = none → ownerOf x l.off = x.ownIndex →
          let r := leafEnter s c l.cls l.off l.digest l.poisoned
          Gives (.leafArrival c l) s { r.1 with
            colOut := r.1.colOut ++ [⟨l.src, c, l.epoch, .leafEnd l.cls l.off (if r.2 = true then stOk else stBounds)⟩] }) ∧
        (l.ended = none → ownerOf x l.off ≠ x.ownIndex →
          let t := dcount s kLeavesLost 1
          Gives (.leafArrival c l) s { t with colOut := t.colOut ++ [⟨l.src, c, l.epoch, .leafEnd l.cls l.off stBounds⟩] }))) ∧
    (∀ a (v : Word), a < 4096 →
      let k := v.toNat % 16
      let rec0 := (ctxAt s k).record
      (v.getLsbD 8 = false → Gives (.attach a v) s (modAttach s a (fun _ => { attachAt s a with context := k }))) ∧
      (v.getLsbD 8 = true → (ctxAt s k).state = 3 →
        Gives (.attach a v) s (modAttach s a (fun _ => { attachAt s a with context := k, valid := true, record := rec0 }))) ∧
      (v.getLsbD 8 = true → (ctxAt s k).state ≠ 3 →
        Gives (.attach a v) s (modAttach s a (fun _ => { attachAt s a with context := k, valid := false }))))

/-- DETERMINISM_SCOPE is written in IDLE, or in START while no forme runs, and while no context is OPEN or CLOSING, with a value that names a
scope; any other write leaves it, and one that comes while the dictionary serves no write is held (R98, R411, R412, R522). -/
def Obligations.DeterminismScopeRow : Prop :=
  ∀ (s : State) (v : Nat), s.up = true →
    let ok := v ≤ 2 ∧ (phase s = phIdle ∨ (phase s = phStart ∧ formeRuns s = false)) ∧ ∀ x ∈ s.ctxs, x.2.state ≠ 1 ∧ x.2.state ≠ 2
    (dictOpen s = true → ok → Gives (.determinismScopeWrite v) s (dset s kDeterminismScope v)) ∧
    (dictOpen s = true → ¬ok → exec (.determinismScopeWrite v) s = .next s) ∧
    (dictOpen s = false → Gives (.determinismScopeWrite v) s { s with rxq := s.rxq ++ [.entry kDeterminismScope v none] }) ∧
    (locked s = true ↔ dget s kDeterminismScope ≠ 0)

/-! ### Power, reset, phases -/

/-- Readings, with P1M the average of the P10 readings of the last 1 ms, the budget, V-steps, thermal emergencies and the solves that go on at
their end, RETAIN of clusters and solver engines, wakes, HOST_DOMAINS_OFF accepted and refused, and TIME (R441–R458). The model's readings in it:
log entries 87, 89, 91, 146. -/
def Obligations.PowerRows : Prop :=
  ∀ s : State, s.up = true →
    (∀ r at_, r.temp.any (fun p => 1250 ≤ p.2) = false →
      let ps := (r.p10 :: s.p10s).take 100
      Gives (.sensorReading r at_) s (holdReading (r.temp.foldl tempReading (r.power.foldl powerReading
        (monSample { atTime s at_ with p10 := r.p10, p10s := ps, p1m := ps.foldl (· + ·) 0 / ps.length } 0x14 0 0 r.p10))))) ∧
    (s.hold = false → s.zeroing = false →
      let now := timeNs s
      let t := { s with admits := s.admits.filter (fun a => now < a.1 + dget s kAdmitSettle) }
      let budget := dget t kPowerCeiling * (100 - dget t kPowerMargin) * 1000
      let used := t.p10 * 100000 + t.admits.foldl (fun a x => a + x.2) 0
      let free := (candidates t).filter (fun c => c.cost.isSome && clusterFree t (clusterOf c.k))
      let v := pickVstep t used budget free (dget t kVstepMin) (dget t kVstepMax - dget t kVstepMin)
      Gives .budgetDecision s (grantGo budget (candidates t) used
        (free.foldl (fun s c => setVstep s (clusterOf c.k) (min v (vstepCap s (clusterOf c.k)))) t))) ∧
    (∀ d at_, Gives (.vstepSettled d at_) s (modDom (atTime s at_) d (fun x => { x with settling := false }))) ∧
    (∀ d at_, (domAt s d).em = true → tLimit s ≤ (domAt s d).temp → (domAt s d).stepAt + 20000 ≤ timeNs (atTime s at_) →
      let t := atTime s at_
      ((domAt s d).vstep = 0 → d < 400 → Gives (.thermalEmergencyStep d at_) s (modDom t d (fun x => { x with held := true }))) ∧
      ((domAt s d).vstep ≠ 0 → Gives (.thermalEmergencyStep d at_) s
        (modDom (setVstep t d ((domAt s d).vstep - 2)) d (fun x => { x with stepAt := timeNs t })))) ∧
    (∀ d at_ t0, (domAt s d).em = true → (domAt s d).coolFrom = some t0 → t0 + 100000 ≤ timeNs (atTime s at_) →
      let t := modDom (if 400 ≤ d then setVstep (atTime s at_) d 3 else atTime s at_) d
        (fun x => { x with em := false, held := false, coolFrom := none })
      Gives (.thermalEmergencyEnd d at_) s (if 336 ≤ d ∧ d < 400 then seResume t (d - 336) else t)) ∧
    (∀ d at_, dget s kRetainDelay ≠ 0 → s.zeroing = false → (domAt s d).st = 2 → d < 336 →
      (domAt s d).idleFrom + dget s kRetainDelay ≤ timeNs (atTime s at_) → clusterIdle (atTime s at_) d = true →
      Gives (.domainRetainEntry d at_) s (modDom (atTime s at_) d (fun x => { x with
        st := if (clusterCores (atTime s at_) d).isEmpty then 0 else 1 }))) ∧
    (∀ d at_, dget s kRetainDelay ≠ 0 → s.zeroing = false → (domAt s d).st = 2 → 336 ≤ d → d < 400 →
      (domAt s d).idleFrom + dget s kRetainDelay ≤ timeNs (atTime s at_) →
      (engineWanted (atTime s at_) (d - 336) = false → Gives (.domainRetainEntry d at_) s (modDom (atTime s at_) d (fun x => { x with st := 1 }))) ∧
      (engineWanted (atTime s at_) (d - 336) = true → Gives (.domainRetainEntry d at_) s (atTime s at_))) ∧
    (∀ d, wakeCause s d = true → (domAt s d).st ≠ 2 → Gives (.domainWake d) s
      (dcount (modDom s d (fun x => { x with st := 2, idleFrom := timeNs s })) kDomainWakes 1)) ∧
    (∀ (v : BitVec 16) h, (dictOpen s = true → hostDomainsOk s v.toNat h = true →
        Gives (.hostDomainsOffWrite v h) s (hostDomains s (v.toNat % 1024))) ∧
      (dictOpen s = true → hostDomainsOk s v.toNat h = false → exec (.hostDomainsOffWrite v h) s = .next s) ∧
      (dictOpen s = false → Gives (.hostDomainsOffWrite v h) s { s with rxq := s.rxq ++ [.entry kHostDomainsOff v.toNat h] })) ∧
    (∀ at_, (dget s kTimeState = 1 ∨ dget s kTimeState = 2) → s.lastSync + 2000000000 ≤ timeNs (atTime s at_) →
      Gives (.timeHoldoverEntry at_) s (dset (atTime s at_) kTimeState 3))

/-- A frame of network time sets TIME_OFFSET and TIME_STATE; in IDLE an offset above 1 ms steps TIME forward, and otherwise TIME is slewed by at
most 100 ppm, towards it: the amount is open (a free value, log entry 5) (R455, R456). That TIME_STATE follows the measured offset after a step
too is the model's reading, log entry 88. -/
def Obligations.TimeSyncRow : Prop :=
  ∀ (s : State) (o : Int) (at_ : Nat), s.up = true →
    let t := atTime s at_
    let u := dset (dset { t with lastSync := timeNs t } kTimeOffsetNs (i64 o)) kTimeState (if o.natAbs ≤ 1000 then 1 else 2)
    (phase s = phIdle → 1000000 < o → Gives (.timeSyncFrame o at_) s
      { u with timeFx := u.timeFx + o.toNat * 2 ^ 32, stepped := u.stepped + o.toNat, lastSync := timeNs u + o.toNat, tick := 10 * 2 ^ 32 }) ∧
    ((phase s ≠ phIdle ∨ o ≤ 1000000) → ∃ adj, adj ≤ 10 * 2 ^ 32 / 10000 ∧
      Gives (.timeSyncFrame o at_) s { (freeNat u 4).1 with tick := if 0 ≤ o then 10 * 2 ^ 32 + adj else 10 * 2 ^ 32 - adj })

/-- Reset and its release: a supply under-voltage of more than 2 µs, PKGRST_N for more than 1 µs and an over-temperature reading put the package
into reset, in which THERMTRIP_N is low for a trip while VIN48 is up; release reads the straps and begins from the reset state (R45, R50, R565,
R566, R570, R571); that the levels of VIN48 and PKGRST_N hold between rows is the model's reading, log entry 8; the CXL resets and the end of
zeroing, when domains that HOST_DOMAINS_OFF names go OFF and, as the model reads R441 (log entry 141), RETAIN_DELAY counts anew (R279, R441, R458,
R549). -/
def Obligations.ResetRows : Prop :=
  (∀ s ns,
    let t := enterReset { s with tripped := false, vinOk := false }
    (2000 < ns → exec (.vin48UnderVoltage ns) s = .next t ∧ t.up = false ∧ thermTripLow t = false) ∧
    (ns ≤ 2000 → exec (.vin48UnderVoltage ns) s = .next s)) ∧
  (∀ s ns,
    let t := enterReset { s with tripped := false, rstLow := true }
    (1000 < ns → exec (.pkgrstNAssert ns) s = .next t ∧ t.up = false ∧ t.rstLow = true) ∧
    (ns ≤ 1000 → exec (.pkgrstNAssert ns) s = .next s)) ∧
  (∀ s r at_, s.up = true → r.temp.any (fun p => 1250 ≤ p.2) = true →
    let t := enterReset { s with tripped := true }
    exec (.sensorReading r at_) s = .next t ∧ t.up = false ∧ (∀ d, domState t d = 0) ∧ (thermTripLow t = true ↔ s.vinOk = true)) ∧
  (∀ s p b, s.up = false → s.tripped = true → exec (.powerUpResetRelease p b) s = .next s) ∧
  (∀ s p b, s.up = false → s.tripped = false → ∃ t, exec (.powerUpResetRelease p b) s = .next t ∧ t.up = true ∧
    t.pending = s.pending ∧ t.grade = s.grade ∧ t.timeFx = 0 ∧ t.vinOk = true ∧ t.rstLow = false ∧ t.zeroing = true ∧ t.cores = [] ∧ t.mem = [] ∧
    t.stackWork = State.reset.stackWork ∧ dget t kPackagePosition = p % 4 ∧ dget t kBoardNumber = b % 16) ∧
  (∀ s, s.up = true → Gives .cxlPerstNReset s { s with cxl := {} } ∧
    Gives .cxlFunctionLevelReset s (cancelCxlBoxes { s with cxl := { s.cxl with msix := [], msixPend := 0, bars := 0 } })) ∧
  (∀ s, s.up = true → s.zeroing = true →
    let t := { s with
      zeroing := false, cores := tblMap coreDflt s.cores (fun c => { c with store := [], tiles := [] })
      doms := (List.range 336).foldl (fun t d => tblMod domDflt t d (fun x => { x with idleFrom := max x.idleFrom (timeNs s) })) s.doms }
    Gives .coreStoreZeroingDone s (hostApply t) ∧
    ∀ k, (coreAt t k).store = [] ∧ (coreAt t k).tiles = [] ∧ (coreAt t k).regs = (coreAt s k).regs)

/-- The job phase moves only along the order of R23, with the actions of the new phase: leaving RUN gives up a snapshot; START from IDLE resets
the package and installs the setup image; TEARDOWN discards what is queued; RECOVERY abandons contexts. A write of another value leaves it.
Epochs, whose advance waits for outstanding requests and for the leaves sent (the model's reading, log entry 84), the setup image, and the end of
TEARDOWN. A write that comes while the dictionary serves none is held (R23, R24, R433, R492, R500, R501, R502, R504, R506, R522). The model's
readings in it: log entries 6, 101, 107, 115. -/
def Obligations.PhaseRows : Prop :=
  ∀ s : State, s.up = true →
    (dictOpen s = true → ∀ v,
      let t := if phase s = phRun then snapAbandon (setPhase s v) else setPhase s v
      let order := [(0, 1), (1, 2), (1, 3), (1, 5), (2, 3), (2, 4), (2, 5), (3, 2), (3, 1), (3, 5), (4, 2), (4, 5)]
      (phase s = phIdle → v = phStart → Gives (.jobPhaseWrite v) s (setupAtStart (startResets (setPhase s v)))) ∧
      ((phase s, v) ∈ order → v = phTeardown → Gives (.jobPhaseWrite v) s (teardown t)) ∧
      ((phase s, v) ∈ order → v = phRecovery → Gives (.jobPhaseWrite v) s (abandonAll t)) ∧
      ((phase s, v) ∈ order → phase s ≠ phIdle → v ≠ phTeardown → v ≠ phRecovery → Gives (.jobPhaseWrite v) s t) ∧
      ((phase s, v) ∉ order → exec (.jobPhaseWrite v) s = .next s)) ∧
    (∀ at_, phase s = phTeardown → quiet (atTime s at_) = true → s.reqs = [] → s.issueQ = [] →
      s.lastIssue + dget s kRequestLifetime ≤ timeNs (atTime s at_) →
      Gives (.teardownDrainComplete at_) s (setPhase (dset (atTime s at_) kLastEpoch (dget s kJobEpoch)) phIdle)) ∧
    (∀ v : BitVec 16, dictOpen s = true →
      (phase s = phIdle → v.toNat ≠ dget s kLastEpoch → Gives (.jobEpochWrite v) s (dset s kJobEpoch v.toNat)) ∧
      (phase s ≠ phIdle ∨ v.toNat = dget s kLastEpoch → exec (.jobEpochWrite v) s = .next s) ∧
      ((phase s = phTest ∨ phase s = phRecovery) → v.toNat ≠ dget s kJobEpoch →
        let clear := s.reqs = [] ∧ ∀ c ∈ s.ctxs, c.2.awaits = []
        (¬clear → Gives (.epochAdvance v) s { s with epochAdv := some v.toNat }) ∧
        (clear → Gives (.epochAdvance v) s
          (issueHeld (dcount (dset { s with epochAdv := none } kJobEpoch v.toNat) kEpochAdvances 1))))) ∧
    (∀ v, dictOpen s = true → v ≤ 1 → (phase s = phStart ∨ phase s = phTest) → Gives (.setupSave v) s (setupSave s)) ∧
    (dictOpen s = false → ∀ v (w : BitVec 16),
      Gives (.jobPhaseWrite v) s { s with rxq := s.rxq ++ [.entry kJobPhase v none] } ∧
      Gives (.jobEpochWrite w) s { s with rxq := s.rxq ++ [.entry kJobEpoch w.toNat none] } ∧
      Gives (.epochAdvance w) s { s with rxq := s.rxq ++ [.entry kEpochAdvance w.toNat none] } ∧
      Gives (.setupSave v) s { s with rxq := s.rxq ++ [.entry kSetupSave v none] })

/-- A write of START in IDLE, served where the dictionary serves writes (R522), resets every engine flag register, mask and capture, the bindings,
contexts and rings, and the translation and group tables, which stay empty where no setup record is in force (R505); core stores are zeroed
again (R96, R116, R279, R348, R376, R421, R422, R436, R540). That the registers and the launch state of a core stay is the model's reading,
log entries 36 and 125, and that its store holds its contents until the zeroing ends, log entries 36 and 141. -/
def Obligations.StartResetsEngines : Prop :=
  ∀ s : State, s.up = true → dictOpen s = true → phase s = phIdle → ∃ t, exec (.jobPhaseWrite phStart) s = .next t ∧ phase t = phStart ∧
    (∀ k e st, (coreAt t k).ccF = {} ∧ (coreAt t k).meF = {} ∧ (coreAt t k).veF = {} ∧ (coreAt t k).coll = {} ∧ (engineAt t e).f = {} ∧ nmuAt t st = {} ∧
      (coreAt t k).log = [] ∧ (coreAt t k).regs = (coreAt s k).regs ∧ (coreAt t k).launchSeq = (coreAt s k).launchSeq ∧
      (coreAt t k).store = (coreAt s k).store) ∧
    t.ctxs = [] ∧ t.bindings = [] ∧ t.rings = [] ∧ t.attached = [] ∧ t.zeroing = true ∧ t.snap = {} ∧
    (dget s kSetupKey = 0 → t.trans0 = [] ∧ t.trans1 = [] ∧ t.grpMembers = [] ∧ t.grpValid = [])

/-- A write of RECOVERY in RUN, the only phase that leads there (R23), served where the dictionary serves writes (R522), makes every context that is
OPEN or CLOSING IDLE without a record and counts it in CONTEXTS_ABANDONED, which saturates (R433, R438); a snapshot and a restore leave
contexts, records and attachments as they are (R433). -/
def Obligations.RecoveryAbandonsContexts : Prop :=
  (∀ s : State, s.up = true → dictOpen s = true → phase s = phRun → ∃ t, exec (.jobPhaseWrite phRecovery) s = .next t ∧
    phase t = phRecovery ∧ t.attached = s.attached ∧
    (let n := ((List.range 16).filter (fun c => (ctxAt s c).state = 1 || (ctxAt s c).state = 2)).length
     dget t kContextsAbandoned =
       if n = 0 then dget s kContextsAbandoned else min (2 ^ 64 - 1) (dget s kContextsAbandoned + n)) ∧
    ∀ c, c < 16 → (ctxAt t c).record = (ctxAt s c).record ∧
      (((ctxAt s c).state = 1 ∨ (ctxAt s c).state = 2) → (ctxAt t c).state = 0) ∧
      ((ctxAt s c).state ≠ 1 → (ctxAt s c).state ≠ 2 → (ctxAt t c).state = (ctxAt s c).state)) ∧
  (∀ s : State, (∃ t, exec .take s = .next t ∧ t.ctxs = s.ctxs ∧ t.attached = s.attached) ∧
    ∃ t, exec .restore s = .next t ∧ t.ctxs = s.ctxs ∧ t.attached = s.attached)

/-! ### Checks, monitors, lifetime -/

/-- Proof passes find their outcome, those of a core and its store waking its cluster, and end with the outcome in the error log; a pass that
finds a lasting fault waits while the records are SAFE, and one of a macro of an F-die or of a cache way that no error made due brings its error
with it. Core sparing, the core of lower number first (R441, R465, R466, R471, R472, R473, R481, R534). The model's readings in it: log entries
18, 92, 93. -/
def Obligations.ProofPassRows : Prop :=
  ∀ s : State, s.up = true →
    (∀ st row, row / 2 ^ 23 / 32 = st →
      let b := ProofUnit.bank (row / 2 ^ 23)
      let r := takeSpare s (spareBank (row / 2 ^ 23)) 16
      passDue s b = true →
      Gives (.stackBankProofPass st row false) s (passFound s b 1 0 (nmuCoord s st) 0) ∧
      (recordsSafe s = true → exec (.stackBankProofPass st row true) s = .next s) ∧
      (recordsSafe s = false → Gives (.stackBankProofPass st row true) s
        (if r.2 = true then passFound r.1 b 2 0x07 (nmuCoord s st) (row % 2 ^ 23)
         else passFound (blockRow s row) b 3 0x08 (nmuCoord s st) (row % 2 ^ 23)))) ∧
    (∀ n k m, keyOf s n = some k → m < 16 → passDue s (.sram (16 * k + m)) = true → (coreAt s k).run = none →
      let u := ProofUnit.sram (16 * k + m)
      let t := touchCore s k
      let r := takeSpare t (spareSram k m) 4
      Gives (.coreStoreMacroProofPass n m false) s (passFound t u 1 0 (coreCoord t k) 0) ∧
      (recordsSafe s = false → Gives (.coreStoreMacroProofPass n m true) s
        (if r.2 = true then passFound (freeNat r.1 1).1 u 2 0x07 (coreCoord t k) (freeNat r.1 1).2
         else passFound (markCore t k) u 3 0 (coreCoord t k) 0))) ∧
    (∀ n k, keyOf s n = some k → passDue s (.core k) = true → (coreAt s k).run = none →
      let t := touchCore s k
      Gives (.coreProofPass n false) s (passFound t (.core k) 1 0 (coreCoord t k) 0) ∧
      (recordsSafe s = false → Gives (.coreProofPass n true) s (passFound (markCore t k) (.core k)
        (if (usableSpares t (k / 1344)).isEmpty then 3 else 2) 0 (coreCoord t k) 0))) ∧
    (∀ p f, passDue s (.port p) = true → Gives (.portProofPass p f) s (passFound s (.port p)
      (if f = false then 1 else if portSt s p = 3 then 3 else 2) 0 (unitCoord s (portFd p) 0x7E0) 0)) ∧
    (∀ fd m, fd < 2 →
      let u := ProofUnit.fdieMacro (2 * m + fd)
      let co := unitCoord s fd 0x7E0
      let t := if passDue s u = true then s else detect s 0x0B co m u
      let r := takeSpare t (spareFdie (2 * m + fd)) 4
      passDue t u = true → Gives (.fdieMacroProofPass fd m false) s (passFound t u 1 0 co 0) ∧
        (recordsSafe t = false → Gives (.fdieMacroProofPass fd m true) s
          (if r.2 = true then passFound (freeNat r.1 1).1 u 2 0x07 co (freeNat r.1 1).2
           else passFound { t with banksOff := insNat (2 * m + fd) t.banksOff } u 3 0x0D co m))) ∧
    (∀ half way, half < 66 → way < 16 → bitOf (dget s kHdieWaysDisabled) (16 * half + way) = false →
      let b := 16 * half + way
      let co := unitCoord s 0 0x7F0
      let t := if passDue s (.hdieWay b) = true then s else detect s 0x0C co b (.hdieWay b)
      let u := t.hcache.foldl (fun s x => if wayUnit x.1 x.2.way = .hdieWay b then hEvict s x.1
        else hdieMod s x.1 (fun l => { l with near := l.near.filter (fun c => wayUnit x.1 c.way != .hdieWay b) })) t
      passDue t (.hdieWay b) = true →
      Gives (.hdieWayProofPass half way false) s (passFound u (.hdieWay b) 1 0 co 0) ∧
      (recordsSafe t = false → Gives (.hdieWayProofPass half way true) s
        (passFound (dset u kHdieWaysDisabled (dget u kHdieWaysDisabled + 2 ^ b)) (.hdieWay b) 3 0x0D co b))) ∧
    (∀ u e p, s.proofDone.find? (fun p => p.unit == u) = some e → s.proofs.find? (fun p => p.1 == u) = some p →
      let t := { s with proofDone := s.proofDone.filter (fun q => q.unit != u), proofs := s.proofs.filter (fun q => q.1 != u) }
      let v := countPass (errOutcome t p.2 e.outcome) e.outcome
      Gives (.proofPassComplete u) s (if e.event = 0 then v else calEvent v e.event e.coord e.detail)) ∧
    (∀ n k bad, keyOf s n = some k → sparingDue s n = true →
      let sp := usableSpares s (k / 1344)
      let t := (sp.takeWhile (fun p => bad.contains p)).foldl (fun s p => retireSpare s (1344 * (k / 1344) + p)) s
      (sparingYields s n k = true ∨ recordsSafe s = true → exec (.coreSparing n bad) s = .next s) ∧
      (sparingYields s n k = false → recordsSafe s = false →
        (∀ p l, sp.dropWhile (fun p => bad.contains p) = p :: l → Gives (.coreSparing n bad) s (spareTo t n k p)) ∧
        (sp.dropWhile (fun p => bad.contains p) = [] → Gives (.coreSparing n bad) s (outOfService t n k))))

/-- A detected error is logged PENDING and makes the proof pass of its unit due, or JOINED to one that is due; either way it is
counted (R463, R464, R465). -/
def Obligations.DetectedErrorsAreLogged : Prop :=
  ∀ (s : State) (cls unit detail : Nat) (u : ProofUnit),
    let t := detect s cls unit detail u
    let due := s.proofs.any (fun p => p.1 == u)
    t.errCount = s.errCount + 1 ∧
    tblGet errDflt t.errLog (s.errCount % 1024) =
      ⟨timeNs s, cls, if due then 4 else 0, unit, detail, s.errCount % 2 ^ 32⟩ ∧
    t.proofs = (if due then s.proofs else s.proofs ++ [(u, s.errCount)]) ∧ t.mem = s.mem ∧ t.cores = s.cores

/-- Monitors and the records of the package's life: the latch of a window that has ended, and of an empty one where more have; writes of a monitor;
the sample taken every 1 µs of TIME; the commits; SHUTDOWN; and the end of the load, after which a request that was held is served (R474,
R475, R477, R479, R481, R482, R483, R522, R525). The model's readings in it: log entries 6, 94, 95, 96, 107. -/
def Obligations.MonitorAndLifetimeRows : Prop :=
  ∀ s : State, s.up = true →
    (∀ m at_, m < 512 →
      let t := atTime s at_
      let x := monAt s m
      let n := (timeNs t - x.start) / x.window
      let e := x.start + n * x.window
      (x.window ≠ 0 → n = 1 → Gives (.monitorWindowLatch m at_) s (modMon t m (fun y => { y with
        res := y.acc, resStart := y.start, resEnd := e, acc := {}, start := e }))) ∧
      (x.window ≠ 0 → 2 ≤ n → Gives (.monitorWindowLatch m at_) s (modMon t m (fun y => { y with
        res := {}, resStart := e - y.window, resEnd := e, acc := {}, start := e })))) ∧
    (∀ m w, m < 512 →
      (dictOpen s = true →
        (∀ v, w = .source v → monSourceOk s v = true →
          Gives (.monitorRestart m w) s (modMon s m (fun x => monClear (timeNs s) { x with source := v }))) ∧
        (∀ v, w = .window v → monWindowOk v = true →
          Gives (.monitorRestart m w) s (modMon s m (fun x => monClear (timeNs s) { x with window := v }))) ∧
        (w = .restart → Gives (.monitorRestart m w) s (modMon s m (monClear (timeNs s))))) ∧
      (dictOpen s = false → Gives (.monitorRestart m w) s { s with rxq := s.rxq ++ [.entry (monKey m w).1 (monKey m w).2 none] })) ∧
    (∀ at_, let t := atTime s at_
      (s.occAt + 1000 ≤ timeNs t → Gives (.monitorOccupancySample at_) s (s.mons.foldl (fun u m => match occupancy u m.2.source with
        | some v => modMon u m.1 (fun x => monSampled (timeNs u) x v)
        | none => u) { t with occAt := timeNs t })) ∧
      (timeNs t < s.occAt + 1000 → Gives (.monitorOccupancySample at_) s t)) ∧
    (∀ at_, recordsOpen s = true → s.countsAt + 600000000000 ≤ timeNs (atTime s at_) →
      let t := atTime s at_
      Gives (.lifetimeCommit at_) s (nvmWrite { t with countsAt := timeNs t } (records t false))) ∧
    (∀ at_, recordsOpen s = true → s.calDone < s.calSeq →
      let t := atTime s at_
      let r := records t false
      (nvmNewer s = none → Gives (.calendarCommit at_) s (nvmWrite t { r with seconds := 0, wear := [], errs := [] })) ∧
      (∀ o, nvmNewer s = some o →
        Gives (.calendarCommit at_) s (nvmWrite t { r with seconds := o.seconds, wear := o.wear, errs := o.errs }))) ∧
    (∀ v at_,
      let t := atTime s at_
      let u := calEvent t 0x02 (unitCoord t 0 0x7F0) 0
      (dictOpen s = true → phase s = phIdle → v = 1 → recordsOpen s = true → Gives (.shutdown v at_) s
        (dset (nvmWrite { u with countsAt := timeNs u } (records u true)) kLifetimeState 2)) ∧
      (dictOpen s = true → (phase s ≠ phIdle ∨ v ≠ 1 ∨ recordsOpen s = false) → Gives (.shutdown v at_) s t) ∧
      (dictOpen s = false → Gives (.shutdown v at_) s { t with rxq := t.rxq ++ [.entry kShutdown v none] })) ∧
    (dget s kLifetimeState = 0 → nvmNewer s = none → Gives .lifetimeLoadDone s (fovisPump
      (dset ((earlyEvents s).foldl (calAgain 0) { s with powerCycle := 1, cal := [], calSeq := 0 }) kLifetimeState 3))) ∧
    (∀ r, dget s kLifetimeState = 0 → nvmNewer s = some r →
      let t := loadRecords s r
      let u := { t with nvmA := { t.nvmA with safe := false }, nvmB := { t.nvmB with safe := false } }
      let v := if r.safe = true then u else calEvent u 0x03 (unitCoord u 0 0x7F0) (r.seconds % 2 ^ 32)
      Gives .lifetimeLoadDone s (fovisPump
        (dset ((earlyEvents s).foldl (calAgain r.seconds) (calEvent v 0x01 (unitCoord v 0 0x7F0) 0)) kLifetimeState 1)))

/-! ### Snapshots -/

/-- A snapshot from TAKE, at which writes that wait for a part of it are held, to its record, and a restore (R302, R485–R497). The model's
readings in it: log entries 97, 98, 99, 100. -/
def Obligations.SnapshotRows : Prop :=
  ∀ s : State, s.up = true →
    (phase s = phRun → s.snap.state = 0 → snapGeometry s = true → snapGroupOk s = true →
      let n := if s.snap.commitValid then (s.snap.commitGen + 1) % 2 ^ 32 else 1
      Gives .take s (heldCow (modSnap s (fun x => { x with
        gen := n, localComplete := false, state := 1, copied := [], takenAt := timeNs s, striped := false, stripeFail := false, abortSent := false,
        decided := if x.early = some (n % 2 ^ 24) then some 2 else none, early := none, lines := [] })))) ∧
    (let ok := fun (i : Instr) (ph : Prop) (more : Prop) =>
       (¬ph → Gives i s (snapRefuse s stPhase)) ∧ (ph → s.snap.state ≠ 0 → Gives i s (snapRefuse s 0x80)) ∧
       (ph → s.snap.state = 0 → ¬(snapGeometry s = true ∧ snapGroupOk s = true ∧ more) → Gives i s (snapRefuse s 0x81))
     ok .take (phase s = phRun) True ∧ ok .restore (phase s = phStart ∨ phase s = phRecovery) (s.snap.restoreGen ≠ 0)) ∧
    (∀ st page, s.snap.state = 1 → st < 16 → stackFree s st = true → nextPart s st = some page →
      let base := dget s kSnapLocalBase
      let part := partOf s st page
      let m := memReady s (part.filterMap (fun o => (imageAddr (stateRegions s) o).map (·, 256))) (part.map (base + ·, 256)) .nobody
      Gives (.snapshotPartCopied st page) s (if m.2 = false then m.1 else modSnap (part.foldl (fun t o =>
        match imageAddr (stateRegions s) o with
        | some a => copyLine (copyLine t a (base + o)) (a + 128) (base + o + 128)
        | none => t) m.1) (fun x => { x with copied := x.copied ++ [(st, page)] }))) ∧
    (s.snap.state = 1 → allCopied s = true →
      let m := memReady s [localArea s] [] .nobody
      Gives .snapshotLocalCopyDone s (if m.2 = false then m.1 else
        stripeAll (modSnap m.1 (fun x => { x with localGen := x.gen, localComplete := true, state := 2, striped := true })))) ∧
    (s.snap.state = 2 → s.reqs.any (fun r => r.who == .stripe) = false → s.issueQ.any (fun r => r.who == .stripe) = false →
      Gives .stripeLinesDone s (snapTry (modSnap s (fun x => { x with state := 3 })))) ∧
    (∀ d, s.snap.state ≠ 0 → s.snap.state ≠ 4 →
      (s.snap.decided = some (decisionCode d) ∨
        s.snap.decided = none ∧ (collGroup s (dget s kSnapHbGroup)).parent ≠ 0xFFFF ∧ (d = .abort ∨ s.snap.state = 3)) →
      Gives (.snapConfirmDecision d) s (snapRecord s (decisionCode d))) ∧
    (∀ at_, s.snap.state ≠ 0 → s.snap.state ≠ 4 → s.snap.decided = none → s.snap.abortSent = false →
      s.snap.takenAt + dget s kSnapTimeout ≤ timeNs (atTime s at_) →
      Gives (.snapTimeoutExpiry at_) s
        (snapAbort (modSnap (atTime s at_) (fun x => { x with abortSent := true })) s.snap.gen (dget s kOwnLogicalId))) ∧
    ((phase s = phStart ∨ phase s = phRecovery) → s.snap.state = 0 → snapGeometry s = true → snapGroupOk s = true →
      s.snap.restoreGen ≠ 0 →
      let local_ := s.snap.localGen = s.snap.restoreGen ∧ s.snap.localComplete = true
      (quiet s = false → Gives .restore s (snapRefuse s 0x85)) ∧
      (quiet s = true → local_ → Gives .restore s (modSnap s (fun x => { x with
        state := 4, gen := x.restoreGen, decided := if x.gen = x.restoreGen then x.decided else none, rebuilt := 0, lost := 0, remote := false,
        striped := true, lines := [] }))) ∧
      (quiet s = true → ¬local_ → Gives .restore s (restoreReads (modSnap s (fun x => { x with
        state := 4, gen := x.restoreGen, decided := if x.gen = x.restoreGen then x.decided else none, rebuilt := 0, lost := 0, remote := true,
        striped := false, lines := [], localComplete := false }))))) ∧
    (s.snap.state = 4 → s.snap.remote = true → s.snap.striped = false →
      (s.reqs ++ s.issueQ).any (fun r => match r.who with | .restore _ _ => true | _ => false) = false →
      let need := ((((dataLines s).filter (fun l => mustForm s l.1 l.2)).map (·.2)).eraseDups).filter
        (fun o => (gotLine s 6 o).2 == 0 && excluded s != some 6)
      let m := memReady s [] [localArea s] .nobody
      (need ≠ [] → Gives .restoreRemoteDone s (need.foldl (fun s o => stripeRead s 6 o) s)) ∧
      (need = [] → Gives .restoreRemoteDone s (if m.2 = false then m.1 else
        modSnap ((dataLines s).foldl (fun t l => placeLine t l.1 l.2) m.1) (fun x => { x with
          localGen := x.gen, localComplete := true, striped := true, lines := [] })))) ∧
    (s.snap.state = 4 → s.snap.striped = true →
      let m := memReady s [localArea s] (stateRegions s) .nobody
      (m.2 = false → Gives .restoreComplete s m.1) ∧
      (m.2 = true → ∃ t, exec .restoreComplete s = .next t ∧ t.snap.state = 0 ∧
        t.snap.commitValid = true ∧ t.snap.commitGen = s.snap.gen ∧ t.snap.last = (if s.snap.lost = 0 then 0 else 0x86)))

/-! ### The H-die, CXL, rings, trust and Fovis -/

/-- Accesses of a hart that is released and whose group is ON, by what its address names: a size that is none or an address that its PMP shuts; a
fault; a core store or a register; stack memory of another chassis or package; a cached line, once it is there, with the poison of what it reads;
atomics in the caches and remote; fences, errors, the timer, the interrupt that a hart takes and release. An access whose links are exhausted
fails (R35, R460, R532, R534, R535, R536, R537, R538, R539). The model's readings in it: log entries 69, 90, 110, 111, 113, 135, 143, 147. -/
def Obligations.HartRows : Prop :=
  ∀ (s : State) (h : Nat), s.up = true → hartUp s h = true →
    (∀ pa (f : LoadForm), (sizeOk f.size = false ∨ pmpOk s h pa f.size (if f.fetch then 4 else 1) = false) →
      Gives (.hartLoad h pa f) s (hartDone s h pa 0 stBounds (if f.fetch then 1 else 5))) ∧
    (∀ pa size v, (sizeOk size = false ∨ pmpOk s h pa size 2 = false) →
      Gives (.hartStore h pa size v) s (hartDone s h pa 0 stBounds 7)) ∧
    (∀ pa (f : LoadForm), sizeOk f.size = true → pmpOk s h pa f.size (if f.fetch then 4 else 1) = true →
      let size := f.size
      let c := if f.fetch then 1 else 5
      (∀ st, paDecode s pa size = .fault st → Gives (.hartLoad h pa f) s (hartDone s h pa 0 st c)) ∧
      ((∀ k, paDecode s pa size ≠ .line k ∧ paDecode s pa size ≠ .host k ∧ paDecode s pa size ≠ .fault k) → aligned pa size = false →
        Gives (.hartLoad h pa f) s (hartDone s h pa 0 stBounds c)) ∧
      (∀ k o, paDecode s pa size = .store k o → aligned pa size = true →
        let p := dieTry (touchCore s k) (.hart h) (k / 1344)
        Gives (.hartLoad h pa f) s (hartDone p.1 h pa (leNat (storeRead (coreAt s k) o size)) (if p.2 = 0 then 0 else 0x83) c)) ∧
      (∀ r, paDecode s pa size = .reg r → aligned pa size = true →
        let p := regTry (regTouch s r) (.hart h) r
        Gives (.hartLoad h pa f) s (hartDone p.1 h pa (regRead p.1 r / 256 ^ (pa % 8) % 256 ^ size) (if p.2 = 0 then 0 else 0x83) c)) ∧
      (∀ a, paDecode s pa size = .mem a → aligned pa size = true →
        let m := memReady s [(a, size)] [] (.hart h)
        let r := memRange m.1 a size (.hart h)
        (m.2 = true → r.2.2 = 0 → Gives (.hartLoad h pa f) s (hartDone r.1 h pa (leNat r.2.1) 0)) ∧
        (m.2 = true → r.2.2 ≠ 0 → Gives (.hartLoad h pa f) s (hartDone r.1 h pa 0 (lineStatus (r.2.2 + 1)) c)) ∧
        (m.2 = false → Gives (.hartLoad h pa f) s m.1)) ∧
      (∀ a, paDecode s pa size = .away a → aligned pa size = true →
        let r := issue s 0 fkRead (a / 128 * 128) false [] (.hartLoad h pa size c)
        Gives (.hartLoad h pa f) s (if r.2 = 0 then r.1 else hartDone r.1 h pa 0 r.2 c)) ∧
      (∀ key, (paDecode s pa size = .line key ∨ paDecode s pa size = .host key) → (hLines key pa size).all (hFree s) = true →
        let ks := hLines key pa size
        let r := hFetchAll s h pa ks c
        let b := hBad r.1 h c ks pa size
        (r.2 = 0 → Gives (.hartLoad h pa f) s
          (if b.2 = true then hartDone b.1 h pa 0 stPoison c else hartDone (hNear b.1 h c ks) h pa (leNat (hBytes b.1 ks pa size)) 0)) ∧
        (r.2 = 1 → Gives (.hartLoad h pa f) s r.1) ∧
        (2 ≤ r.2 → Gives (.hartLoad h pa f) s (hartDone r.1 h pa 0 (lineStatus r.2) c)))) ∧
    (∀ pa size v, sizeOk size = true → pmpOk s h pa size 2 = true →
      let bs := leBytes size v.toNat
      (∀ st, paDecode s pa size = .fault st → Gives (.hartStore h pa size v) s (hartDone s h pa 0 st 7)) ∧
      ((∀ k, paDecode s pa size ≠ .line k ∧ paDecode s pa size ≠ .host k ∧ paDecode s pa size ≠ .fault k) → aligned pa size = false →
        Gives (.hartStore h pa size v) s (hartDone s h pa 0 stBounds 7)) ∧
      (∀ k o, paDecode s pa size = .store k o → aligned pa size = true →
        let w := writeLocal (touchCore s k) (.hart h) (.store k o) 0 (bs.map (fun b => some (b, false))) false
        Gives (.hartStore h pa size v) s (if w.failed = [] then w.s else hartAsync w.s h pa 0x83)) ∧
      (∀ r, paDecode s pa size = .reg r → aligned pa size = true →
        let p := regTry (regTouch s r) (.hart h) r
        (p.2 ≠ 0 → Gives (.hartStore h pa size v) s (hartAsync p.1 h pa 0x83)) ∧
        (p.2 = 0 → Gives (.hartStore h pa size v) s
          (match regWrite p.1 (v.toNat * 256 ^ (pa % 8) % 2 ^ 64) ((256 ^ size - 1) * 256 ^ (pa % 8)) r with
           | some t => (List.range 64).foldl hartPoll t
           | none => hartAsync s h pa stBounds))) ∧
      (∀ a, paDecode s pa size = .mem a → aligned pa size = true →
        let n := memReady s [] [(a, size)] (.hart h)
        let w := writeLine n.1 (a / 128 * 128) (lineSlice a bs (a / 128 * 128)) false (.hart h) pa pa
        (n.2 = true → Gives (.hartStore h pa size v) s (if w.2 = true then hartAsync w.1 h pa 0x83 else w.1)) ∧
        (n.2 = false → Gives (.hartStore h pa size v) s n.1)) ∧
      (∀ a, paDecode s pa size = .away a → aligned pa size = true →
        let m := lineSlice a bs (a / 128 * 128)
        let w := issue s 0 fkWriteMask (a / 128 * 128) false (m.map (·.getD 0) ++ maskBytes m) (.hartStore h pa)
        Gives (.hartStore h pa size v) s (if w.2 = 0 then w.1 else hartAsync w.1 h pa w.2)) ∧
      (∀ key, (paDecode s pa size = .line key ∨ paDecode s pa size = .host key) → (hLines key pa size).all (hFree s) = true →
        let ks := hLines key pa size
        let w := hFetchAll s h pa ks 0
        (w.2 = 0 → Gives (.hartStore h pa size v) s (hPut w.1 h ks pa bs)) ∧
        (w.2 = 1 → Gives (.hartStore h pa size v) s w.1) ∧
        (2 ≤ w.2 → Gives (.hartStore h pa size v) s (hartAsync w.1 h pa (lineStatus w.2))))) ∧
    (∀ op size pa v,
      let c := amoCause op
      let l := awayLine op (paDecode s pa size) pa
      ((size ≠ 4 ∧ size ≠ 8) ∨ aligned pa size = false ∨ (∃ e, op = .cas e) ∨ pmpOk s h pa size (if op = .lr then 1 else 3) = false →
        Gives (.hartAmo h ⟨op, size⟩ pa v) s (hartDone s h pa 0 stBounds c)) ∧
      (size = 4 ∨ size = 8 → aligned pa size = true → (∀ e, op ≠ .cas e) → pmpOk s h pa size (if op = .lr then 1 else 3) = true →
        (∀ key, (l = .line key ∨ l = .host key) →
          Gives (.hartAmo h ⟨op, size⟩ pa v) s (amoCached s h pa key op size v)) ∧
        (∀ a o, l = .mem a → size = 8 → amoRemote op = some o → Gives (.hartAmo h ⟨op, size⟩ pa v) s
          (atomicPut s ⟨stackOf s a, a, o, v.toNat, 0, .hart h, none, pa⟩)) ∧
        (∀ a o, l = .away a → size = 8 → amoRemote op = some o → offOf a < 2 ^ 40 →
          let r := issue s 0 (4 + o) a false (leBytes 8 v.toNat ++ leBytes 8 0) (.hartAmo h pa)
          Gives (.hartAmo h ⟨op, size⟩ pa v) s (if r.2 = 0 then r.1 else hartDone r.1 h pa 0 r.2 c)) ∧
        (∀ a, l = .away a → 2 ^ 40 ≤ offOf a → Gives (.hartAmo h ⟨op, size⟩ pa v) s (hartDone s h pa 0 stBounds c)) ∧
        ((∀ k, l ≠ .line k ∧ l ≠ .host k ∧ l ≠ .fault k) → (size = 4 ∨ amoRemote op = none ∨ ∀ a, l ≠ .mem a ∧ l ≠ .away a) →
          Gives (.hartAmo h ⟨op, size⟩ pa v) s (hartDone s h pa 0 stBounds c)) ∧
        (∀ st, l = .fault st → Gives (.hartAmo h ⟨op, size⟩ pa v) s (hartDone s h pa 0 st c)))) ∧
    (∀ pred : BitVec 4, ((pred.getLsbD 2 || pred.getLsbD 0) = false ∨ hartOutstanding s h = false) → Gives (.hartFence h pred) s
      { s with hresp := tblSet (fun _ => (0, false)) s.hresp h (0, false) }) ∧
    (∀ pa st, h < 64 → Gives (.hartAsyncError h pa st) s (hartAsync s h pa st)) ∧
    (∀ at_, h < 64 → mtimecmpOf s h ≤ timeNs (atTime s at_) →
      Gives (.machineTimerInterrupt h at_) s (hartPoll { atTime s at_ with mtip := setBits s.mtip h h 1 } h)) ∧
    (∀ i, irqOrder.find? (irqTaken s h) = some i → hartPoll s h = hartTrap s h i 0 true) ∧
    (irqOrder.find? (irqTaken s h) = none → hartPoll s h = s) ∧
    (∀ v : Word, dget s kBootState = 2 → Gives (.hartRelease v) s (hartsStart s v.toNat)) ∧
    (∀ v : Word, dget s kBootState ≠ 2 → Gives (.hartRelease v) s s)

/-- The CXL host: a decoder commits or reports that it did not, and is locked once committed; a CXL.mem read or write of an address that a
committed decoder maps, once the snoops of its line are answered, a read for ownership too; a snoop of a line that the H-die caches gives its data
and its poison up; DOE keeps the session and the IDE keys of the two streams, its response bytes being open, and the answer of a key exchange ends
in a signature of the identity keys (R361, R547, R548, R549). The model's readings in it: log entries 16, 113, 114, 118. -/
def Obligations.CxlRows : Prop :=
  ∀ s : State, s.up = true →
    (∀ k d, k < 2 →
      ((hdmAt s k).committed = false → Gives (.hdmDecoderCommit k d) s { s with cxl := { s.cxl with
        hdm := tblSet (fun _ => {}) s.cxl.hdm k ⟨d.base, d.size, d.ways, d.gran, d.dpa, hdmOk s k d, !hdmOk s k d⟩ } }) ∧
      ((hdmAt s k).committed = true → Gives (.hdmDecoderCommit k d) s s)) ∧
    (∀ hpa acc, hdmDecode s hpa = none → Gives (.cxlMemAccess hpa acc) s s) ∧
    (∀ hpa a, hdmDecode s hpa = some a →
      let la := a / 128 * 128
      stackFree s (stackOf s la) = true → dirIdle s [(la, 128)] = true →
      (∀ own,
       let t := agentRead s la (ownAgent s + 1) own hostOwner
       let acc := if own = true then CxlAccess.readOwn else .read
       (dirIdle t [(la, 128)] = false → Gives (.cxlMemAccess hpa acc) s t) ∧
       (dirIdle t [(la, 128)] = true →
        let r := lineFrom t la hostOwner
        Gives (.cxlMemAccess hpa acc) s { r.1 with cxl := { r.1.cxl with
          resp := (r.2.1.drop (a % 128 / 64 * 64)).take 64, respPoison := r.2.2 != 0 } })) ∧
      (∀ d en p,
       let t := agentRead s la (ownAgent s + 1) true hostOwner
       (dirIdle t [(la, 128)] = false → Gives (.cxlMemAccess hpa (.write d en p)) s t) ∧
       (dirIdle t [(la, 128)] = true →
        let o := a % 128 / 64 * 64
        let bs := (List.range 128).map (fun i => if o ≤ i ∧ i < o + 64 ∧ en.getD (i - o) false = true then some (d.getD (i - o) 0) else none)
        let w := writeLine (dirSet t la [] false) la bs p hostOwner
        Gives (.cxlMemAccess hpa (.write d en p)) s
          (if w.2 = true then { w.1 with cxl := { w.1.cxl with aer := w.1.cxl.aer + 1 } } else w.1)))) ∧
    (∀ line,
      let key := 3 * 2 ^ 47 + line
      let l := hLine s key
      let u := if l.dirty then lineWords s key (List.range 16) else s
      let t := { u with cxl := { u.cxl with resp := if l.dirty then l.bytes else [], respPoison := l.dirty && l.bad != 0 } }
      (l.bytes = [] → ∀ inv, Gives (.cxlCacheHostSnoop line inv) s s) ∧
      (l.bytes ≠ [] → Gives (.cxlCacheHostSnoop line true) s (hdieDrop t key) ∧
        Gives (.cxlCacheHostSnoop line false) s (hdieMod t key (fun l => { l with dirty := false, excl := false })))) ∧
    (∀ m, let t := (freeBytes s 64).1
     let b := (freeBytes s 64).2
     let sig := match m with
       | .keyExchange _ => (List.range 384).map (signByte (dget s kIdentityPublicKeys) (leNat b) s.freeCount)
       | _ => []
     let u := { t with cxl := { t.cxl with doe := b ++ sig } }
     Gives (.doeSpdmRequest m) s (match m with
       | .keyExchange ok => { u with cxl := { u.cxl with session := ok } }
       | .endSession => { u with cxl := { u.cxl with session := false } }
       | .ideKey mem k => if s.cxl.session = false then u else if mem then { u with cxl := { u.cxl with ideMem := some (k % 2 ^ 256) } }
           else { u with cxl := { u.cxl with ideIo := some (k % 2 ^ 256) } }
       | .ideStop mem => if s.cxl.session = false then u else if mem then { u with cxl := { u.cxl with ideMem := none } }
           else { u with cxl := { u.cxl with ideIo := none } }
       | _ => u))

/-- Dispatch rings: enabling, disabling, the producer, taking and delivering records, completion entries, which notify once they are written
(R540–R544). The model's readings in it: log entries 115, 119. -/
def Obligations.RingRows : Prop :=
  ∀ (s : State) (r : Nat), s.up = true → r < 16384 →
    (∀ v : Word, v.getLsbD 63 = true →
      let x := ringAt s r
      let y := ringConfig x v.toNat
      let both := fun (a n b m : Nat) => a < b + m ∧ b < a + n
      let rec_ := 2 ^ y.size * 128
      let cq := 2 ^ y.size * 16
      let ok := y.st = 0 ∧ y.size ≤ 16 ∧ y.base % 4096 = 0 ∧ y.cq % 4096 = 0 ∧ y.base + rec_ ≤ 2 ^ 40 ∧ y.cq + cq ≤ 2 ^ 40 ∧
        ¬both y.base rec_ y.cq cq ∧
        (y.dbMem = true → y.db % 8 = 0 ∧ y.db + 8 ≤ 2 ^ 40 ∧ ¬both y.db 8 y.base rec_ ∧ ¬both y.db 8 y.cq cq ∧
          ∀ q ∈ s.rings, q.1 ≠ r → q.2.enable = true → q.2.dbMem = true → q.2.db ≠ y.db)
      (x.enable = true → Gives (.ringEnable r v) s s) ∧
      (x.enable = false → ¬ok → Gives (.ringEnable r v) s (modRing s r (fun _ => y)) ∧ y.enable = false ∧ y.st = x.st ∧
        y.consumer = x.consumer ∧ y.completed = x.completed ∧ y.producer = x.producer) ∧
      (x.enable = false → ok → y.dbMem = false → Gives (.ringEnable r v) s
        (modRing s r (fun _ => { y with enable := true, st := 1, consumer := y.producer, completed := y.producer }))) ∧
      (x.enable = false → ok → y.dbMem = true → Gives (.ringEnable r v) s (doorbell (modRing s r (fun _ => { y with enable := true })) r))) ∧
    ((ringAt s r).enable = true → Gives (.ringDisable r) s
      (modRing s r (fun x => { x with enable := false, waitDb := false, st := if x.recs.isEmpty then 0 else x.st }))) ∧
    (∀ p, (ringAt s r).dbMem = false → Gives (.ringProducerAdvance r (some p)) s
      (modRing s r (fun x => ringCheck { x with producer := p % 2 ^ 32 }))) ∧
    ((ringAt s r).dbMem = true → (ringAt s r).enable = true →
      Gives (.ringProducerAdvance r none) s (doorbell s r)) ∧
    (let s' := if (ringAt s r).waitDb = true then doorbell s r else s
     let x := ringAt s' r
     let a := x.base + 128 * (x.consumer % 2 ^ x.size)
     x.st = 1 → x.enable = true → x.consumer ≠ x.producer → (x.consumer + 2 ^ 32 - x.completed) % 2 ^ 32 < 2 ^ x.size →
     let m := memReady s' [(a, 128)] [] .nobody
     let l := readLine m.1 a .nobody
     let ws := (chunks 8 l.2.1).map (fun b => BitVec.ofNat 64 (leNat b))
     let st := recStatus l.1 l.2.2 ws
     Gives (.ringRecordTake r) s (if m.2 = false then m.1 else modRing l.1 r (fun y => { y with
       consumer := (y.consumer + 1) % 2 ^ 32,
       recs := y.recs ++ [{ idx := x.consumer, tag := recWord ws 1 % 2 ^ 32, words := ws, status := st,
                            todo := if st = 0 then impList l.1 (recGroup ws) else [] }] }))) ∧
    (∀ q, (ringAt s r).recs.find? (fun y => !y.todo.isEmpty) = some q →
      Gives (.ringRecordDelivery r) s (q.todo.foldl (deliverTo r q) s)) ∧
    (∀ q rest, (ringAt s r).recs = q :: rest → q.todo = [] → q.out = [] →
      let x := ringAt s r
      let a := x.cq + 16 * (q.idx % 2 ^ x.size)
      let m := memReady s [] [(a, 16)] .nobody
      let w := if q.stored = true then s
        else modRing (memStore m.1 a (entryBytes q) false .nobody).1 r (fun y => { y with recs := { q with stored := true } :: rest })
      let t := modRing (dcount (dcount w kRingCompletions 1) kRingSkips (b2n (q.status != 0))) r (fun y => { y with
          completed := (q.idx + 1) % 2 ^ 32, recs := rest, st := if !y.enable && rest.isEmpty then 0 else y.st })
      (q.stored = false → m.2 = false → Gives (.ringCompletionEntry r) s m.1) ∧
      (q.stored = true ∨ m.2 = true →
        (w.held.any (fun h => h.who == .nobody && h.line == a / 128 * 128) = true → Gives (.ringCompletionEntry r) s w) ∧
        (w.held.any (fun h => h.who == .nobody && h.line == a / 128 * 128) = false → Gives (.ringCompletionEntry r) s
          (if x.notEn = false then t else if x.notMsix then msixSend t x.target else notifyHart t r))))

/-- The trust unit: boot, the reset of the H-die, table sets, attestation and the signing of colophons (R550–R562); a write of its entries that
comes while the arbiter holds writes waits for them (R522, R525).
The model's readings in it: log entries 117, 118. -/
def Obligations.TrustRows : Prop :=
  ∀ s : State, s.up = true →
    (dictOpen s = true → (trustFull s = false ∨ dget s kBootState = 1 ∨ dget s kBootState = 2) → Gives (.bootStart 1) s (bootStart s)) ∧
    (dictOpen s = false → ∀ v a, a < 4096 →
      Gives (.bootStart v) s { s with rxq := s.rxq ++ [.entry kBootStart v none] } ∧
      Gives (.hdieReset v) s { s with rxq := s.rxq ++ [.entry kHdieReset v none] } ∧
      Gives (.tableSetLoad v) s { s with rxq := s.rxq ++ [.entry kTableSetLoad v none] } ∧
      Gives (.colophonSign a) s { s with rxq := s.rxq ++ [.entry kColophonSign a none] }) ∧
    (∀ q rsa slh, s.trust.queue = .boot :: q → dget s kBootState ≠ 1 → Gives (.bootVerifyDone rsa slh) s (trustPop s)) ∧
    (∀ q rsa slh, s.trust.queue = .boot :: q → dget s kBootState = 1 →
      let b := if s.trust.bootRead = true then s else bootTry s
      let v := fun code => setStatus (verified b code) kBootStatus code
      (b.trust.bootRead = false → Gives (.bootVerifyDone rsa slh) s b) ∧
      (b.trust.bootRead = true → b.trust.bootPre ≠ 0 → b.trust.bootPre ≠ 1 →
        Gives (.bootVerifyDone rsa slh) s (trustPop (dset (v b.trust.bootPre) kBootState 3))) ∧
      (b.trust.bootRead = true → b.trust.bootPre = 0 → Gives (.bootVerifyDone rsa slh) s
        (trustPop (hartsStart (modTrust (dset (dset (v 1) kBootDigest b.trust.bootDigest) kBootState 2) (fun x => { x with
          entry := leNat ((b.trust.bootHdr.drop 16).take 8), load := b.trust.bootLo,
          imageVersion := leNat ((b.trust.bootHdr.drop 4).take 4) })) 1)))) ∧
    (dictOpen s = true → phase s = phIdle → Gives (.hdieReset 1) s (hdieReset s)) ∧
    (dictOpen s = true → phase s = phIdle → trustFull s = false → Gives (.tableSetLoad 1) s (trustPush (setStatus s kTableSetStatus 2) .table)) ∧
    (∀ q rsa slh, s.trust.queue = .table :: q →
      let m := tableReady s (dget s kTableSetAddr)
      let r := tableCheck m.1 (dget m.1 kTableSetAddr)
      let t := setStatus (verified r.1 r.2.1) kTableSetStatus r.2.1
      Gives (.tableSetVerifyDone rsa slh) s (if m.2 = false then m.1 else if r.2.1 ≠ 1 then trustPop t
        else trustPop (modTrust (dset (dset t kTableSetRevision r.2.2.1) kTableSetDigest r.2.2.2.2) (fun x =>
          { x with tables := r.2.2.2.1 })))) ∧
    (∀ x : List Byte, x.length = 32 → dictOpen s = true → trustFull s = false →
      Gives (.attestNonce x) s (setStatus (trustPush s (.attest (leNat x))) kSignerStatus 2)) ∧
    (∀ a q, s.trust.queue = .attest a :: q →
      Gives .attestReportDone s (signerAfter (trustPop (dcount (placeSignature s kAttestReport true) kSignatures 1)) 1)) ∧
    (∀ a, a < 4096 → dictOpen s = true → trustFull s = false → Gives (.colophonSign a) s (setStatus (trustPush s (.sign a)) kSignerStatus 2)) ∧
    (∀ a q, s.trust.queue = .sign a :: q → Gives .colophonSignDone s (if s.trust.bad then signerAfter (trustPop s) 4
      else signerAfter (trustPop (dcount (placeSignature s kColophonSignature false) kSignatures 1)) 1))

/-- Fovis serves a PDU of every operation, from a mailbox or the field network. A bundle's verification ends: with a bad signature or block the
bundle is refused with SEAL, with good ones by the required keys it is checked and applied. An owner that is silent for 10 s loses the buffer,
replies are kept for 1 s, and a solicitation of the package's address, and an echo request to it, are answered, once the neighbour is resolved; a
duplicate of the address silences the port (R510–R529, R554). The model's readings in it: log entries 106, 107, 109. -/
def Obligations.FovisRequests : Prop :=
  (FovisDoes .fovisRead 1 serveRead ∧ FovisDoes .fovisWrite 2 serveWrite ∧ FovisDoes .describe 3 serveDescribe ∧
  FovisDoes .discover 4 serveDiscover ∧ FovisDoes .bundleOpen 0x10 serveBundleOpen ∧ FovisDoes .bundleData 0x11 serveBundleData ∧
  FovisDoes .bundleApply 0x12 serveBundleApply ∧ FovisDoes .bundleCancel 0x13 serveBundleCancel) ∧
  (∀ s : State, s.up = true →
    (let t := fovisPump s
     ∀ b i q rsa slh, t.trust.queue = .bundle :: q → t.bundle = some b → b.applying = some i → writesHeld t = false → b.next = none →
      let body := bundleBody b
      let good := match bundleKeys t body with
        | some ks => itemOk 1 ks body ((memRead b.bytes 0 b.len).drop (b.len - 16672))
        | none => false
      Gives (.bundleVerifyDone rsa slh) s (trustPop (if 16672 ≤ b.len ∧ good = true then bundleRun (verified t 1) b (leNat i)
        else bundleEnds (verified t 7) b.owner (leNat i) 0 stSeal false))) ∧
    (∀ at_ b, s.bundle = some b → b.applying = none →
      (b.last + 10000000000 ≤ timeNs (atTime s at_) → Gives (.bundleOwnerTimeout at_) s { atTime s at_ with bundle := none }) ∧
      (timeNs (atTime s at_) < b.last + 10000000000 → Gives (.bundleOwnerTimeout at_) s (atTime s at_))) ∧
    (∀ at_, Gives (.replyCacheExpiry at_) s { atTime s at_ with
      cached := s.cached.filter (fun c => decide (timeNs (atTime s at_) < c.since + cacheNs)) }) ∧
    (timeNs s < 1000000000 → Gives (.neighbourSolicitation 0 (linkLocal s)) s { s with netDup := true }) ∧
    (∀ src, src ≠ 0 ∨ 1000000000 ≤ timeNs s → s.netDup = false →
      let dst := if src = 0 then 0xFF02 * 2 ^ 112 + 1 else src
      Gives (.neighbourSolicitation src (linkLocal s)) s { s with
        neigh := if src = 0 ∨ src ∈ s.neigh then s.neigh else s.neigh ++ [src]
        sent := s.sent ++ [⟨dst, 0, 0, icmp (linkLocal s) dst 136 ((([if src = 0 then 0x20 else 0x60, 0, 0, 0] : List Byte)) ++
          beBytes 16 (linkLocal s) ++ [2, 1] ++ macBytes s)⟩] }) ∧
    (∀ src body, src ∈ s.neigh → s.netDup = false → Gives (.icmpv6EchoRequest src (linkLocal s) body) s
      { s with sent := s.sent ++ [⟨src, 0, 0, icmp (linkLocal s) src 129 body⟩] }) ∧
    (∀ src body, src ∉ s.neigh → src / 2 ^ 120 ≠ 0xFF → s.netDup = false →
      Gives (.icmpv6EchoRequest src (linkLocal s) body) s { s with
        neigh := s.neigh ++ [src]
        sent := s.sent ++ [⟨solicitedNode src, 0, 0, icmp (linkLocal s) (solicitedNode src) 135
          ((([0, 0, 0, 0] : List Byte)) ++ beBytes 16 src ++ [1, 1] ++ macBytes s)⟩,
          ⟨src, 0, 0, icmp (linkLocal s) src 129 body⟩] }) ∧
    (s.netDup = true → ∀ src body, Gives (.icmpv6EchoRequest src (linkLocal s) body) s s) ∧
    (∀ a body, a ≠ linkLocal s → ∀ src, Gives (.neighbourSolicitation src a) s s ∧ Gives (.icmpv6EchoRequest src a body) s s))

/-! ### Operations that the families share -/

/-- Stack memory and core stores: what is written is read back, and every other byte reads as before. -/
def Obligations.MemoryReadAfterWrite : Prop :=
  ∀ (m : List Host.Cell) (a : Nat) (bs : List Byte), memRead (memWrite m a bs) a bs.length = bs ∧
    (∀ b n, (b + n ≤ a ∨ a + bs.length ≤ b) → memWf m = true → memRead (memWrite m a bs) b n = memRead m b n)

/-- A write by an engine of a core, over tile boundaries, puts its bytes and no others into the core store of that core, and changes
the store of no other core (R275). -/
def Obligations.EngineWriteBytes : Prop :=
  ∀ (s : State) (k a : Nat) (bs : List Byte),
    (∀ i, i < bs.length → storeByte (engineWrite s k a bs) k (a + i) = bs.getD i 0) ∧
    (∀ j b, ¬(j = k ∧ a ≤ b ∧ b < a + bs.length) → storeByte (engineWrite s k a bs) j b = storeByte s j b) ∧
    (engineWrite s k a bs).mem = s.mem

/-- A shared scale byte E below 0xFF multiplies the value of each element of its block by 2^(E − 127), infinities and NaNs staying what they
are; an element of a block whose byte is 0xFF reads as a quiet NaN whatever it holds, which is no signalling NaN (R79, R84). -/
def Obligations.SharedScales : Prop :=
  (∀ (fl : Bool) (nf : NumFmt) (xs : List Nat) (sc : List Byte) (i : Nat), nf.sc = true → i < xs.length →
    let e := (sc.getD (i / nf.blk) 0).toNat
    let v := elemVal fl nf.fmt (xs.getD i 0)
    (e = 0xFF → (readVals fl nf xs sc)[i]? = some (.nan false) ∧ isSnan (.nan false) = false) ∧
    (e ≠ 0xFF → ∀ n m x, v = .fin n m x → (readVals fl nf xs sc)[i]? = some (.fin n m (x + ((e : Int) - 127)))) ∧
    (e ≠ 0xFF → (∀ n m x, v ≠ .fin n m x) → (readVals fl nf xs sc)[i]? = some v))

/-- An MMA with K = 0 makes every element of C +0 when ACC is 0 and leaves it as read when ACC is 1; no element raises a flag (R181). -/
def Obligations.MmaWithoutTerms : Prop :=
  ∀ (s : State) (c : Core) (f : MeF), f.k = 0 →
    (mmaElems s c f (List.range (cdiv f.k 16))).map (fun row => row.map (fun a => (a.bits, a.evs))) =
      (if f.acc = true then matRows c f.c f.cA f.m f.n else List.replicate f.m (List.replicate f.n 0)).map
        (fun row => row.map (fun b => (b, [])))

/-- A galley result and a result written to the core store are the same elements, whatever C_GALLEY says; the slots hold the bytes of their rows one
after another, and these are the bytes that the same command writes at the rows of C in the core store (R189). -/
def Obligations.GalleySlotsHoldTheRows : Prop :=
  (∀ (s : State) (c : Core) (f : MeF) (gal : Bool) (blocks : List Nat),
    mmaElems s c { f with gal := gal } blocks = mmaElems s c f blocks ∧ mewmaElems s c { f with gal := gal } = mewmaElems s c f) ∧
  (∀ (f : MeF) (es : List (List Acc)) (p : Bool),
    let row := fun (r : List Acc) => packElems (nfW f.c) (r.map (·.bits))
    let slots := (galSlots f es p).flatMap (·.bytes)
    (slots.take (es.flatMap row).length = es.flatMap row ∧ ∀ g ∈ galSlots f es p, g.bytes.length = 4096 ∧ g.poison = p) ∧
    (∀ (s : State) (k i j : Nat), (∀ r ∈ es, r.length = f.n) → i < es.length → j < (row (es.getD i [])).length →
      storeByte (writeC s k f es) k (f.cA + i * pitch f.c f.n + j) = slots.getD (((es.take i).flatMap row).length + j) 0))

/-- The skip of a DE descriptor is the first that applies in the order EPOCH_STALE, ILLEGAL, FUSED, PHASE, DET, BOUNDS, and none of the later
ones is evaluated: stale work that leaves the package; a broken encoding, or an entry that breaks the rules of a chain; a fused local place
of its own; space 11 outside START, TEST and RECOVERY; an atomic float addition in a locked job; and a place that does not hold the
extent (R19, R310, R313, R314, R322, R367). The model's readings in it: log entries 51, 156. -/
def Obligations.SkipOrder : Prop :=
  (∀ (l : List (Bool × Nat)) (b : Bool) (c d : Nat) (r : List (Bool × Nat)), (∀ p ∈ l, p.1 = false) →
    firstSkip (l ++ (true, c) :: r) = some c ∧ (firstSkip (l ++ [(b, d)]) = none ↔ b = false)) ∧
  (∀ (s : State) (k : Nat) (x : Cmd),
    let stale := dSpace x (fun p => p != 0) = true ∧ epochStale s k = true
    let illegal := dIllegal s x = true
    let fused := dSrcL x = false ∧ addrFused s (dSrc x) = true ∨ dDstL x = false ∧ addrFused s (dDst x) = true
    let shut := dSpace x (fun p => p == 3) = true ∧ phase s ≠ phStart ∧ phase s ≠ phTest ∧ phase s ≠ phRecovery
    let det := w0Op x.w0 = 6 ∧ dAop x = 1 ∧ locked s = true
    let bounds := dEmpty x = false ∧ (dLocs s k x = none ∨ dClosed s k x = true ∨ w0Op x.w0 = 3 ∧ (dNmu x = 1 ∨ dNmu x = 2) ∧
      ∃ f, numFmt s true (dFmt x) = some f ∧ vecLoc k x (4 * (dLen x / nmuSize x f)) = none)
    (stale → dSkip s k x = some stEpochStale ∧ dSkip s k x true = some stEpochStale) ∧
    (¬stale → dSkip s k x true = some stIllegal ∧ (illegal → dSkip s k x = some stIllegal)) ∧
    (¬stale → ¬illegal → fused → dSkip s k x = some stFused) ∧
    (¬stale → ¬illegal → ¬fused → shut → dSkip s k x = some stPhase) ∧
    (¬stale → ¬illegal → ¬fused → ¬shut → det → dSkip s k x = some stDet) ∧
    (¬stale → ¬illegal → ¬fused → ¬shut → ¬det → bounds → dSkip s k x = some stBounds) ∧
    (¬stale → ¬illegal → ¬fused → ¬shut → ¬det → ¬bounds → dSkip s k x = none))

/-- Fovis PDUs that carry values: the bytes of a request made of up to 64 items read back as the same operation, identity and
items (R516, R517). -/
def Obligations.PduRoundTrip : Prop :=
  ∀ (op id : Nat) (xs : List FItem), opKnown op = true → opValues op = true → id < 2 ^ 32 → xs.length ≤ 64 →
    (∀ x ∈ xs, x.idx < 65536 ∧ x.sub < 256 ∧ x.ty < 256 ∧ x.off < 65536 ∧ x.len < 65536 ∧ x.val.length = x.len) →
    let bs := mkPdu (op + 128) id 0 (xs.map (fun x => mkItem x.idx x.sub x.ty x.off 0 x.val))
    bs.length ≤ 8192 → parsePdu bs = some ⟨op, id, xs, bs⟩
end

