-- ==== Sys2Proof/Laws/Tbl.lean ====
section
/-! SUPPORT. Laws of sparse tables and byte memories: what a write leaves to be read, and that the canonical form is kept. -/
namespace Sys2Proof.Machine
open Sys2Proof

variable {α : Type} [DecidableEq α]

omit [DecidableEq α] in
/-- Reading past entries of other keys. -/
theorem tblGet_append_of_ne (d : Nat → α) (k : Nat) (l r : Tbl α) (h : ∀ e ∈ l, e.1 ≠ k) : tblGet d (l ++ r) k = tblGet d r k := by
  induction l with
  | nil => rfl
  | cons x t ih =>
    obtain ⟨a, v⟩ := x
    have hx : k ≠ a := fun e => h (a, v) (by simp) e.symm
    simp only [List.cons_append, tblGet, if_neg hx]
    exact ih (fun e he => h e (by simp [he]))

omit [DecidableEq α] in
/-- A key that no entry has reads as the default. -/
theorem tblGet_of_ne (d : Nat → α) (k : Nat) (l : Tbl α) (h : ∀ e ∈ l, e.1 ≠ k) : tblGet d l k = d k := by
  simpa [tblGet] using tblGet_append_of_ne d k l [] h

omit [DecidableEq α] in
/-- Dropping entries of other keys changes no read of `k`. -/
theorem tblGet_filter (d : Nat → α) (k : Nat) (p : Nat × α → Bool) (l : Tbl α) (h : ∀ v, p (k, v) = true) :
    tblGet d (l.filter p) k = tblGet d l k := by
  induction l with
  | nil => rfl
  | cons x t ih =>
    obtain ⟨a, v⟩ := x
    by_cases ha : k = a
    · subst ha; simp [h, tblGet]
    · by_cases hp : p (a, v) = true
      · simp [hp, tblGet, ha, ih]
      · simp [hp, tblGet, ha, ih]

/-- A key written reads as its value. -/
@[simp] theorem tblGet_tblSet_same (d : Nat → α) (m : Tbl α) (k : Nat) (v : α) : tblGet d (tblSet d m k v) k = v := by
  unfold tblSet
  rw [List.append_assoc, tblGet_append_of_ne]
  · by_cases h : v = d k
    · simp only [h, if_true, List.nil_append]
      exact tblGet_of_ne _ _ _ (by intro e he; simp at he; omega)
    · simp [h, tblGet]
  · intro e he; simp at he; omega

/-- Every other key reads as before. -/
theorem tblGet_tblSet_other (d : Nat → α) (m : Tbl α) (k j : Nat) (v : α) (h : j ≠ k) : tblGet d (tblSet d m k v) j = tblGet d m j := by
  unfold tblSet
  have hmid : ∀ e ∈ (if v = d k then ([] : Tbl α) else [(k, v)]), e.1 ≠ j := by
    intro e he
    split at he
    · simp at he
    · simp only [List.mem_singleton] at he; subst he; exact fun x => h x.symm
  rcases Nat.lt_or_gt_of_ne h with hl | hg
  · have h1 : tblGet d (m.filter (fun e => decide (e.1 < k))) j = tblGet d m j :=
      tblGet_filter d j _ m (by intro v; simpa using hl)
    have h2 : ∀ e ∈ (if v = d k then ([] : Tbl α) else [(k, v)]) ++ m.filter (fun e => decide (k < e.1)), e.1 ≠ j := by
      intro e he
      rcases List.mem_append.1 he with he | he
      · exact hmid e he
      · simp at he; omega
    rw [List.append_assoc]
    rw [← h1]
    clear h1
    generalize m.filter (fun e => decide (e.1 < k)) = l at *
    induction l with
    | nil => simpa [tblGet] using tblGet_of_ne d j _ h2
    | cons x t ih =>
      obtain ⟨a, w⟩ := x
      simp only [List.cons_append, tblGet]
      split
      · rfl
      · exact ih
  · rw [tblGet_append_of_ne]
    · exact tblGet_filter d j _ m (by intro v; simpa using hg)
    · intro e he
      rcases List.mem_append.1 he with he | he
      · simp at he; omega
      · exact hmid e he

/-- Keys above a bound, strictly rising, no defaults: the canonical form as facts about the list. -/
theorem tblWfFrom_iff (d : Nat → α) (b : Option Nat) (m : Tbl α) :
    tblWfFrom d b m = true ↔ (∀ e ∈ m, (∀ j ∈ b, j < e.1) ∧ e.2 ≠ d e.1) ∧ m.Pairwise (fun x y => x.1 < y.1) := by
  induction m generalizing b with
  | nil => simp [tblWfFrom]
  | cons x t ih =>
    obtain ⟨k, v⟩ := x
    simp only [tblWfFrom, Bool.and_eq_true, decide_eq_true_eq, ih, List.pairwise_cons, List.mem_cons, forall_eq_or_imp]
    constructor
    · rintro ⟨⟨hb, hv⟩, ht, hp⟩
      refine ⟨⟨⟨?_, hv⟩, ?_⟩, ?_, hp⟩
      · intro j hj; cases b <;> simp_all
      · intro e he
        refine ⟨?_, (ht e he).2⟩
        intro j hj
        have := (ht e he).1 k rfl
        cases b with
        | none => simp at hj
        | some i => simp at hj hb; omega
      · intro e he; exact (ht e he).1 k rfl
    · rintro ⟨⟨⟨hb, hv⟩, ht⟩, hk, hp⟩
      refine ⟨⟨?_, hv⟩, ?_, hp⟩
      · cases b with
        | none => rfl
        | some i => simpa using hb i rfl
      · intro e he
        exact ⟨fun j hj => by cases hj; exact hk e he, (ht e he).2⟩

/-- The canonical form as facts about the list. -/
theorem tblWf_iff (d : Nat → α) (m : Tbl α) :
    tblWf d m = true ↔ (∀ e ∈ m, e.2 ≠ d e.1) ∧ m.Pairwise (fun x y => x.1 < y.1) := by
  unfold tblWf; rw [tblWfFrom_iff]; simp

/-- A write keeps the canonical form. -/
theorem tblSet_wf (d : Nat → α) (m : Tbl α) (k : Nat) (v : α) (h : tblWf d m = true) : tblWf d (tblSet d m k v) = true := by
  rw [tblWf_iff] at *
  obtain ⟨hd, hp⟩ := h
  unfold tblSet
  constructor
  · intro e he
    rcases List.mem_append.1 he with he | he
    · rcases List.mem_append.1 he with he | he
      · exact hd e (List.mem_filter.1 he).1
      · split at he
        · simp at he
        · simp only [List.mem_singleton] at he; subst he; assumption
    · exact hd e (List.mem_filter.1 he).1
  · rw [List.append_assoc, List.pairwise_append]
    refine ⟨hp.filter _, ?_, ?_⟩
    · rw [List.pairwise_append]
      refine ⟨?_, hp.filter _, ?_⟩
      · split <;> simp
      · intro a ha b hb
        split at ha
        · simp at ha
        · simp only [List.mem_singleton] at ha; subst ha; simpa using (List.mem_filter.1 hb).2
    · intro a ha b hb
      have h1 : a.1 < k := by simpa using (List.mem_filter.1 ha).2
      rcases List.mem_append.1 hb with hb | hb
      · split at hb
        · simp at hb
        · simp only [List.mem_singleton] at hb; subst hb; exact h1
      · have h2 : k < b.1 := by simpa using (List.mem_filter.1 hb).2
        omega

/-- A change keeps the canonical form. -/
theorem tblMod_wf (d : Nat → α) (m : Tbl α) (k : Nat) (f : α → α) (h : tblWf d m = true) : tblWf d (tblMod d m k f) = true :=
  tblSet_wf d m k _ h

/-- A change of every entry: each key reads as `f` of what it was, where `f` keeps the default. -/
@[simp] theorem tblGet_tblMap (d : Nat → α) (m : Tbl α) (f : α → α) (k : Nat) (h : f (d k) = d k) :
    tblGet d (tblMap d m f) k = f (tblGet d m k) := by
  have key : ∀ (l t : Tbl α), tblGet d (l.foldl (fun t x => tblSet d t x.1 (f (tblGet d m x.1))) t) k =
      if (∃ x ∈ l, x.1 = k) then f (tblGet d m k) else tblGet d t k := by
    intro l
    induction l with
    | nil => simp
    | cons x r ih =>
      intro t
      rw [List.foldl_cons, ih]
      by_cases hx : x.1 = k
      · subst hx; simp
      · rw [tblGet_tblSet_other d t x.1 k _ (fun e => hx e.symm)]
        have e : (∃ y ∈ x :: r, y.1 = k) ↔ ∃ y ∈ r, y.1 = k := by simp [hx]
        simp only [e]
  unfold tblMap
  rw [key]
  split
  · rfl
  · rename_i hn
    rw [tblGet_of_ne d k m (fun e he hk => hn ⟨e, he, hk⟩), h]
    rfl

/-- Its result is in the canonical form. -/
theorem tblMap_wf (d : Nat → α) (m : Tbl α) (f : α → α) : tblWf d (tblMap d m f) = true := by
  have key : ∀ (l t : Tbl α), tblWf d t = true → tblWf d (l.foldl (fun t x => tblSet d t x.1 (f (tblGet d m x.1))) t) = true := by
    intro l
    induction l with
    | nil => intro t h; exact h
    | cons x r ih => intro t h; exact ih _ (tblSet_wf d t _ _ h)
  exact key m [] rfl

/-- One byte written keeps the canonical form. -/
theorem memSet_wf (m : List Host.Cell) (a : Nat) (b : Byte) (h : memWf m = true) : memWf (memSet m a b) = true := tblSet_wf _ m a b h

/-- The cells of bytes from `a`: their addresses and values. -/
theorem cellsOf_wf (a : Nat) (bs : List Byte) :
    (∀ e ∈ cellsOf a bs, a ≤ e.1 ∧ e.1 < a + bs.length ∧ e.2 ≠ 0) ∧ (cellsOf a bs).Pairwise (fun x y => x.1 < y.1) := by
  induction bs generalizing a with
  | nil => simp [cellsOf]
  | cons b t ih =>
    obtain ⟨h1, h2⟩ := ih (a + 1)
    unfold cellsOf
    split
    · refine ⟨?_, h2⟩
      intro e he
      have := h1 e he
      simp only [List.length_cons]
      exact ⟨by omega, by omega, this.2.2⟩
    · refine ⟨?_, ?_⟩
      · intro e he
        rcases List.mem_cons.1 he with rfl | he
        · simp only [List.length_cons]; exact ⟨Nat.le_refl _, by omega, by assumption⟩
        · have := h1 e he
          simp only [List.length_cons]
          exact ⟨by omega, by omega, this.2.2⟩
      · refine List.pairwise_cons.2 ⟨?_, h2⟩
        intro e he
        have := h1 e he
        omega

/-- A write of bytes keeps the canonical form. -/
theorem memWrite_wf (m : List Host.Cell) (a : Nat) (bs : List Byte) (h : memWf m = true) : memWf (memWrite m a bs) = true := by
  unfold memWf at *
  rw [tblWf_iff] at *
  obtain ⟨hd, hp⟩ := h
  obtain ⟨h1, h2⟩ := cellsOf_wf a bs
  unfold memWrite
  constructor
  · intro e he
    rcases List.mem_append.1 he with he | he
    · rcases List.mem_append.1 he with he | he
      · exact hd e (List.mem_filter.1 he).1
      · exact (h1 e he).2.2
    · exact hd e (List.mem_filter.1 he).1
  · rw [List.append_assoc, List.pairwise_append]
    refine ⟨hp.filter _, ?_, ?_⟩
    · rw [List.pairwise_append]
      refine ⟨h2, hp.filter _, ?_⟩
      intro x hx y hy
      have := h1 x hx
      have : a + bs.length ≤ y.1 := by simpa using (List.mem_filter.1 hy).2
      omega
    · intro x hx y hy
      have hx' : x.1 < a := by simpa using (List.mem_filter.1 hx).2
      rcases List.mem_append.1 hy with hy | hy
      · have := h1 y hy; omega
      · have : a + bs.length ≤ y.1 := by simpa using (List.mem_filter.1 hy).2
        omega

/-- A byte outside the written range reads as before. -/
theorem memGet_memWrite_other (m : List Host.Cell) (a j : Nat) (bs : List Byte) (h : j < a ∨ a + bs.length ≤ j) :
    memGet (memWrite m a bs) j = memGet m j := by
  unfold memGet memWrite
  have hmid : ∀ e ∈ cellsOf a bs, e.1 ≠ j := by
    intro e he; have := (cellsOf_wf a bs).1 e he; omega
  rcases h with hl | hg
  · have h1 : tblGet byteDflt (m.filter (fun c => decide (c.1 < a))) j = tblGet byteDflt m j :=
      tblGet_filter _ j _ m (by intro v; simpa using hl)
    have h2 : ∀ e ∈ cellsOf a bs ++ m.filter (fun c => decide (a + bs.length ≤ c.1)), e.1 ≠ j := by
      intro e he
      rcases List.mem_append.1 he with he | he
      · exact hmid e he
      · simp at he; omega
    rw [List.append_assoc, ← h1]
    clear h1
    generalize m.filter (fun c => decide (c.1 < a)) = l at *
    induction l with
    | nil => simpa [tblGet] using tblGet_of_ne byteDflt j _ h2
    | cons x t ih =>
      obtain ⟨b, w⟩ := x
      simp only [List.cons_append, tblGet]
      split
      · rfl
      · exact ih
  · rw [tblGet_append_of_ne]
    · exact tblGet_filter _ j _ m (by intro v; simpa using hg)
    · intro e he
      rcases List.mem_append.1 he with he | he
      · simp at he; omega
      · exact hmid e he

end Sys2Proof.Machine
end

