-- ==== Sys2Proof/Laws/State.lean ====
section
/-! SUPPORT. Each update of the state, field by field: the field it changes, and that every other field stays. -/
namespace Sys2Proof.Laws
open Sys2Proof Machine Config

variable (s u : State) (n m : Nat) (c : Core) (fc : Core → Core) (fe : Engine → Engine) (fd : Dom → Dom) (fp : Port → Port)
variable (fx : Ctx → Ctx) (fs : Snap → Snap)

/-! ### keep -/

@[simp] theorem keep_pending : (keep s u).pending = s.pending := rfl
@[simp] theorem keep_up : (keep s u).up = s.up := rfl
@[simp] theorem keep_grade : (keep s u).grade = s.grade := rfl
@[simp] theorem keep_timeFx : (keep s u).timeFx = u.timeFx := rfl
@[simp] theorem keep_dict : (keep s u).dict = u.dict := rfl
@[simp] theorem keep_grpMembers : (keep s u).grpMembers = u.grpMembers := rfl
@[simp] theorem keep_grpValid : (keep s u).grpValid = u.grpValid := rfl
@[simp] theorem keep_grpSize : (keep s u).grpSize = u.grpSize := rfl
@[simp] theorem keep_bindings : (keep s u).bindings = u.bindings := rfl
@[simp] theorem keep_ctxs : (keep s u).ctxs = u.ctxs := rfl
@[simp] theorem keep_leaves : (keep s u).leaves = u.leaves := rfl
@[simp] theorem keep_attached : (keep s u).attached = u.attached := rfl
@[simp] theorem keep_cores : (keep s u).cores = u.cores := rfl
@[simp] theorem keep_coreMap : (keep s u).coreMap = u.coreMap := rfl
@[simp] theorem keep_collGroups : (keep s u).collGroups = u.collGroups := rfl
@[simp] theorem keep_engines : (keep s u).engines = u.engines := rfl
@[simp] theorem keep_seTaken : (keep s u).seTaken = u.seTaken := rfl
@[simp] theorem keep_cqTaken : (keep s u).cqTaken = u.cqTaken := rfl
@[simp] theorem keep_collAborts : (keep s u).collAborts = u.collAborts := rfl
@[simp] theorem keep_hbNodes : (keep s u).hbNodes = u.hbNodes := rfl
@[simp] theorem keep_mem : (keep s u).mem = u.mem := rfl
@[simp] theorem keep_marks : (keep s u).marks = u.marks := rfl
@[simp] theorem keep_ecc : (keep s u).ecc = u.ecc := rfl
@[simp] theorem keep_parity : (keep s u).parity = u.parity := rfl
@[simp] theorem keep_dieParity : (keep s u).dieParity = u.dieParity := rfl
@[simp] theorem keep_bufErr : (keep s u).bufErr = u.bufErr := rfl
@[simp] theorem keep_blocked : (keep s u).blocked = u.blocked := rfl
@[simp] theorem keep_held : (keep s u).held = u.held := rfl
@[simp] theorem keep_atomics : (keep s u).atomics = u.atomics := rfl
@[simp] theorem keep_nmus : (keep s u).nmus = u.nmus := rfl
@[simp] theorem keep_stackWork : (keep s u).stackWork = u.stackWork := rfl
@[simp] theorem keep_ports : (keep s u).ports = u.ports := rfl
@[simp] theorem keep_reqs : (keep s u).reqs = u.reqs := rfl
@[simp] theorem keep_issueQ : (keep s u).issueQ = u.issueQ := rfl
@[simp] theorem keep_tagNext : (keep s u).tagNext = u.tagNext := rfl
@[simp] theorem keep_tagLog : (keep s u).tagLog = u.tagLog := rfl
@[simp] theorem keep_outQ : (keep s u).outQ = u.outQ := rfl
@[simp] theorem keep_stallAt : (keep s u).stallAt = u.stallAt := rfl
@[simp] theorem keep_turn3 : (keep s u).turn3 = u.turn3 := rfl
@[simp] theorem keep_replies : (keep s u).replies = u.replies := rfl
@[simp] theorem keep_replay : (keep s u).replay = u.replay := rfl
@[simp] theorem keep_ingress : (keep s u).ingress = u.ingress := rfl
@[simp] theorem keep_dir : (keep s u).dir = u.dir := rfl
@[simp] theorem keep_snoops : (keep s u).snoops = u.snoops := rfl
@[simp] theorem keep_hot : (keep s u).hot = u.hot := rfl
@[simp] theorem keep_sysTx : (keep s u).sysTx = u.sysTx := rfl
@[simp] theorem keep_sysRx : (keep s u).sysRx = u.sysRx := rfl
@[simp] theorem keep_lastIssue : (keep s u).lastIssue = u.lastIssue := rfl
@[simp] theorem keep_relays : (keep s u).relays = u.relays := rfl
@[simp] theorem keep_vinOk : (keep s u).vinOk = u.vinOk := rfl
@[simp] theorem keep_rstLow : (keep s u).rstLow = u.rstLow := rfl
@[simp] theorem keep_relayQ : (keep s u).relayQ = u.relayQ := rfl
@[simp] theorem keep_landed : (keep s u).landed = u.landed := rfl
@[simp] theorem keep_relayOps : (keep s u).relayOps = u.relayOps := rfl
@[simp] theorem keep_netPort : (keep s u).netPort = u.netPort := rfl
@[simp] theorem keep_neigh : (keep s u).neigh = u.neigh := rfl
@[simp] theorem keep_netDup : (keep s u).netDup = u.netDup := rfl
@[simp] theorem keep_colOut : (keep s u).colOut = u.colOut := rfl
@[simp] theorem keep_epochAdv : (keep s u).epochAdv = u.epochAdv := rfl
@[simp] theorem keep_trans0 : (keep s u).trans0 = u.trans0 := rfl
@[simp] theorem keep_trans1 : (keep s u).trans1 = u.trans1 := rfl
@[simp] theorem keep_hcache : (keep s u).hcache = u.hcache := rfl
@[simp] theorem keep_freeCount : (keep s u).freeCount = u.freeCount := rfl
@[simp] theorem keep_hresp : (keep s u).hresp = u.hresp := rfl
@[simp] theorem keep_harts : (keep s u).harts = u.harts := rfl
@[simp] theorem keep_hres : (keep s u).hres = u.hres := rfl
@[simp] theorem keep_msip : (keep s u).msip = u.msip := rfl
@[simp] theorem keep_mtip : (keep s u).mtip = u.mtip := rfl
@[simp] theorem keep_irq17 : (keep s u).irq17 = u.irq17 := rfl
@[simp] theorem keep_mtimecmp : (keep s u).mtimecmp = u.mtimecmp := rfl
@[simp] theorem keep_apertures : (keep s u).apertures = u.apertures := rfl
@[simp] theorem keep_released : (keep s u).released = u.released := rfl
@[simp] theorem keep_notify : (keep s u).notify = u.notify := rfl
@[simp] theorem keep_snap : (keep s u).snap = u.snap := rfl
@[simp] theorem keep_hdieErr : (keep s u).hdieErr = u.hdieErr := rfl
@[simp] theorem keep_hdieErrKeep : (keep s u).hdieErrKeep = u.hdieErrKeep := rfl
@[simp] theorem keep_hdieErrAddr : (keep s u).hdieErrAddr = u.hdieErrAddr := rfl
@[simp] theorem keep_doms : (keep s u).doms = u.doms := rfl
@[simp] theorem keep_hold : (keep s u).hold = u.hold := rfl
@[simp] theorem keep_errLog : (keep s u).errLog = u.errLog := rfl
@[simp] theorem keep_errCount : (keep s u).errCount = u.errCount := rfl
@[simp] theorem keep_proofs : (keep s u).proofs = u.proofs := rfl
@[simp] theorem keep_cal : (keep s u).cal = u.cal := rfl
@[simp] theorem keep_calSeq : (keep s u).calSeq = u.calSeq := rfl
@[simp] theorem keep_calDone : (keep s u).calDone = u.calDone := rfl
@[simp] theorem keep_powerCycle : (keep s u).powerCycle = u.powerCycle := rfl
@[simp] theorem keep_powerOnBase : (keep s u).powerOnBase = u.powerOnBase := rfl
@[simp] theorem keep_stepped : (keep s u).stepped = u.stepped := rfl
@[simp] theorem keep_countsAt : (keep s u).countsAt = u.countsAt := rfl
@[simp] theorem keep_p10s : (keep s u).p10s = u.p10s := rfl
@[simp] theorem keep_occAt : (keep s u).occAt = u.occAt := rfl
@[simp] theorem keep_mons : (keep s u).mons = u.mons := rfl
@[simp] theorem keep_spareUsed : (keep s u).spareUsed = u.spareUsed := rfl
@[simp] theorem keep_meFault : (keep s u).meFault = u.meFault := rfl
@[simp] theorem keep_seFault : (keep s u).seFault = u.seFault := rfl
@[simp] theorem keep_coreFault : (keep s u).coreFault = u.coreFault := rfl
@[simp] theorem keep_proofDone : (keep s u).proofDone = u.proofDone := rfl
@[simp] theorem keep_retired : (keep s u).retired = u.retired := rfl
@[simp] theorem keep_banksOff : (keep s u).banksOff = u.banksOff := rfl
@[simp] theorem keep_errBase : (keep s u).errBase = u.errBase := rfl
@[simp] theorem keep_nvmA : (keep s u).nvmA = u.nvmA := rfl
@[simp] theorem keep_nvmB : (keep s u).nvmB = u.nvmB := rfl
@[simp] theorem keep_zeroing : (keep s u).zeroing = u.zeroing := rfl
@[simp] theorem keep_tripped : (keep s u).tripped = s.tripped := rfl
@[simp] theorem keep_p10 : (keep s u).p10 = u.p10 := rfl
@[simp] theorem keep_p1m : (keep s u).p1m = u.p1m := rfl
@[simp] theorem keep_holdSince : (keep s u).holdSince = u.holdSince := rfl
@[simp] theorem keep_admits : (keep s u).admits = u.admits := rfl
@[simp] theorem keep_tick : (keep s u).tick = u.tick := rfl
@[simp] theorem keep_lastSync : (keep s u).lastSync = u.lastSync := rfl
@[simp] theorem keep_setup0 : (keep s u).setup0 = u.setup0 := rfl
@[simp] theorem keep_setup1 : (keep s u).setup1 = u.setup1 := rfl
@[simp] theorem keep_setupNew : (keep s u).setupNew = u.setupNew := rfl
@[simp] theorem keep_mboxes : (keep s u).mboxes = u.mboxes := rfl
@[simp] theorem keep_cached : (keep s u).cached = u.cached := rfl
@[simp] theorem keep_sent : (keep s u).sent = u.sent := rfl
@[simp] theorem keep_rxq : (keep s u).rxq = u.rxq := rfl
@[simp] theorem keep_reasm : (keep s u).reasm = u.reasm := rfl
@[simp] theorem keep_fovisPend : (keep s u).fovisPend = u.fovisPend := rfl
@[simp] theorem keep_bundle : (keep s u).bundle = u.bundle := rfl
@[simp] theorem keep_rings : (keep s u).rings = u.rings := rfl
@[simp] theorem keep_cxl : (keep s u).cxl = u.cxl := rfl
@[simp] theorem keep_trust : (keep s u).trust = u.trust := rfl

/-! ### atTime -/

@[simp] theorem atTime_pending : (atTime s n).pending = s.pending := rfl
@[simp] theorem atTime_up : (atTime s n).up = s.up := rfl
@[simp] theorem atTime_grade : (atTime s n).grade = s.grade := rfl
@[simp] theorem atTime_timeFx : (atTime s n).timeFx = max s.timeFx (2 ^ 32 * n) := rfl
@[simp] theorem atTime_dict : (atTime s n).dict = s.dict := rfl
@[simp] theorem atTime_grpMembers : (atTime s n).grpMembers = s.grpMembers := rfl
@[simp] theorem atTime_grpValid : (atTime s n).grpValid = s.grpValid := rfl
@[simp] theorem atTime_grpSize : (atTime s n).grpSize = s.grpSize := rfl
@[simp] theorem atTime_bindings : (atTime s n).bindings = s.bindings := rfl
@[simp] theorem atTime_ctxs : (atTime s n).ctxs = s.ctxs := rfl
@[simp] theorem atTime_leaves : (atTime s n).leaves = s.leaves := rfl
@[simp] theorem atTime_attached : (atTime s n).attached = s.attached := rfl
@[simp] theorem atTime_cores : (atTime s n).cores = s.cores := rfl
@[simp] theorem atTime_coreMap : (atTime s n).coreMap = s.coreMap := rfl
@[simp] theorem atTime_collGroups : (atTime s n).collGroups = s.collGroups := rfl
@[simp] theorem atTime_engines : (atTime s n).engines = s.engines := rfl
@[simp] theorem atTime_seTaken : (atTime s n).seTaken = s.seTaken := rfl
@[simp] theorem atTime_cqTaken : (atTime s n).cqTaken = s.cqTaken := rfl
@[simp] theorem atTime_collAborts : (atTime s n).collAborts = s.collAborts := rfl
@[simp] theorem atTime_hbNodes : (atTime s n).hbNodes = s.hbNodes := rfl
@[simp] theorem atTime_mem : (atTime s n).mem = s.mem := rfl
@[simp] theorem atTime_marks : (atTime s n).marks = s.marks := rfl
@[simp] theorem atTime_ecc : (atTime s n).ecc = s.ecc := rfl
@[simp] theorem atTime_parity : (atTime s n).parity = s.parity := rfl
@[simp] theorem atTime_dieParity : (atTime s n).dieParity = s.dieParity := rfl
@[simp] theorem atTime_bufErr : (atTime s n).bufErr = s.bufErr := rfl
@[simp] theorem atTime_blocked : (atTime s n).blocked = s.blocked := rfl
@[simp] theorem atTime_held : (atTime s n).held = s.held := rfl
@[simp] theorem atTime_atomics : (atTime s n).atomics = s.atomics := rfl
@[simp] theorem atTime_nmus : (atTime s n).nmus = s.nmus := rfl
@[simp] theorem atTime_stackWork : (atTime s n).stackWork = s.stackWork := rfl
@[simp] theorem atTime_ports : (atTime s n).ports = s.ports := rfl
@[simp] theorem atTime_reqs : (atTime s n).reqs = s.reqs := rfl
@[simp] theorem atTime_issueQ : (atTime s n).issueQ = s.issueQ := rfl
@[simp] theorem atTime_tagNext : (atTime s n).tagNext = s.tagNext := rfl
@[simp] theorem atTime_tagLog : (atTime s n).tagLog = s.tagLog := rfl
@[simp] theorem atTime_outQ : (atTime s n).outQ = s.outQ := rfl
@[simp] theorem atTime_stallAt : (atTime s n).stallAt = s.stallAt := rfl
@[simp] theorem atTime_turn3 : (atTime s n).turn3 = s.turn3 := rfl
@[simp] theorem atTime_replies : (atTime s n).replies = s.replies := rfl
@[simp] theorem atTime_replay : (atTime s n).replay = s.replay := rfl
@[simp] theorem atTime_ingress : (atTime s n).ingress = s.ingress := rfl
@[simp] theorem atTime_dir : (atTime s n).dir = s.dir := rfl
@[simp] theorem atTime_snoops : (atTime s n).snoops = s.snoops := rfl
@[simp] theorem atTime_hot : (atTime s n).hot = s.hot := rfl
@[simp] theorem atTime_sysTx : (atTime s n).sysTx = s.sysTx := rfl
@[simp] theorem atTime_sysRx : (atTime s n).sysRx = s.sysRx := rfl
@[simp] theorem atTime_lastIssue : (atTime s n).lastIssue = s.lastIssue := rfl
@[simp] theorem atTime_relays : (atTime s n).relays = s.relays := rfl
@[simp] theorem atTime_vinOk : (atTime s n).vinOk = s.vinOk := rfl
@[simp] theorem atTime_rstLow : (atTime s n).rstLow = s.rstLow := rfl
@[simp] theorem atTime_relayQ : (atTime s n).relayQ = s.relayQ := rfl
@[simp] theorem atTime_landed : (atTime s n).landed = s.landed := rfl
@[simp] theorem atTime_relayOps : (atTime s n).relayOps = s.relayOps := rfl
@[simp] theorem atTime_netPort : (atTime s n).netPort = s.netPort := rfl
@[simp] theorem atTime_neigh : (atTime s n).neigh = s.neigh := rfl
@[simp] theorem atTime_netDup : (atTime s n).netDup = s.netDup := rfl
@[simp] theorem atTime_colOut : (atTime s n).colOut = s.colOut := rfl
@[simp] theorem atTime_epochAdv : (atTime s n).epochAdv = s.epochAdv := rfl
@[simp] theorem atTime_trans0 : (atTime s n).trans0 = s.trans0 := rfl
@[simp] theorem atTime_trans1 : (atTime s n).trans1 = s.trans1 := rfl
@[simp] theorem atTime_hcache : (atTime s n).hcache = s.hcache := rfl
@[simp] theorem atTime_freeCount : (atTime s n).freeCount = s.freeCount := rfl
@[simp] theorem atTime_hresp : (atTime s n).hresp = s.hresp := rfl
@[simp] theorem atTime_harts : (atTime s n).harts = s.harts := rfl
@[simp] theorem atTime_hres : (atTime s n).hres = s.hres := rfl
@[simp] theorem atTime_msip : (atTime s n).msip = s.msip := rfl
@[simp] theorem atTime_mtip : (atTime s n).mtip = s.mtip := rfl
@[simp] theorem atTime_irq17 : (atTime s n).irq17 = s.irq17 := rfl
@[simp] theorem atTime_mtimecmp : (atTime s n).mtimecmp = s.mtimecmp := rfl
@[simp] theorem atTime_apertures : (atTime s n).apertures = s.apertures := rfl
@[simp] theorem atTime_released : (atTime s n).released = s.released := rfl
@[simp] theorem atTime_notify : (atTime s n).notify = s.notify := rfl
@[simp] theorem atTime_snap : (atTime s n).snap = s.snap := rfl
@[simp] theorem atTime_hdieErr : (atTime s n).hdieErr = s.hdieErr := rfl
@[simp] theorem atTime_hdieErrKeep : (atTime s n).hdieErrKeep = s.hdieErrKeep := rfl
@[simp] theorem atTime_hdieErrAddr : (atTime s n).hdieErrAddr = s.hdieErrAddr := rfl
@[simp] theorem atTime_doms : (atTime s n).doms = s.doms := rfl
@[simp] theorem atTime_hold : (atTime s n).hold = s.hold := rfl
@[simp] theorem atTime_errLog : (atTime s n).errLog = s.errLog := rfl
@[simp] theorem atTime_errCount : (atTime s n).errCount = s.errCount := rfl
@[simp] theorem atTime_proofs : (atTime s n).proofs = s.proofs := rfl
@[simp] theorem atTime_cal : (atTime s n).cal = s.cal := rfl
@[simp] theorem atTime_calSeq : (atTime s n).calSeq = s.calSeq := rfl
@[simp] theorem atTime_calDone : (atTime s n).calDone = s.calDone := rfl
@[simp] theorem atTime_powerCycle : (atTime s n).powerCycle = s.powerCycle := rfl
@[simp] theorem atTime_powerOnBase : (atTime s n).powerOnBase = s.powerOnBase := rfl
@[simp] theorem atTime_stepped : (atTime s n).stepped = s.stepped := rfl
@[simp] theorem atTime_countsAt : (atTime s n).countsAt = s.countsAt := rfl
@[simp] theorem atTime_p10s : (atTime s n).p10s = s.p10s := rfl
@[simp] theorem atTime_occAt : (atTime s n).occAt = s.occAt := rfl
@[simp] theorem atTime_mons : (atTime s n).mons = s.mons := rfl
@[simp] theorem atTime_spareUsed : (atTime s n).spareUsed = s.spareUsed := rfl
@[simp] theorem atTime_meFault : (atTime s n).meFault = s.meFault := rfl
@[simp] theorem atTime_seFault : (atTime s n).seFault = s.seFault := rfl
@[simp] theorem atTime_coreFault : (atTime s n).coreFault = s.coreFault := rfl
@[simp] theorem atTime_proofDone : (atTime s n).proofDone = s.proofDone := rfl
@[simp] theorem atTime_retired : (atTime s n).retired = s.retired := rfl
@[simp] theorem atTime_banksOff : (atTime s n).banksOff = s.banksOff := rfl
@[simp] theorem atTime_errBase : (atTime s n).errBase = s.errBase := rfl
@[simp] theorem atTime_nvmA : (atTime s n).nvmA = s.nvmA := rfl
@[simp] theorem atTime_nvmB : (atTime s n).nvmB = s.nvmB := rfl
@[simp] theorem atTime_zeroing : (atTime s n).zeroing = s.zeroing := rfl
@[simp] theorem atTime_tripped : (atTime s n).tripped = s.tripped := rfl
@[simp] theorem atTime_p10 : (atTime s n).p10 = s.p10 := rfl
@[simp] theorem atTime_p1m : (atTime s n).p1m = s.p1m := rfl
@[simp] theorem atTime_holdSince : (atTime s n).holdSince = s.holdSince := rfl
@[simp] theorem atTime_admits : (atTime s n).admits = s.admits := rfl
@[simp] theorem atTime_tick : (atTime s n).tick = s.tick := rfl
@[simp] theorem atTime_lastSync : (atTime s n).lastSync = s.lastSync := rfl
@[simp] theorem atTime_setup0 : (atTime s n).setup0 = s.setup0 := rfl
@[simp] theorem atTime_setup1 : (atTime s n).setup1 = s.setup1 := rfl
@[simp] theorem atTime_setupNew : (atTime s n).setupNew = s.setupNew := rfl
@[simp] theorem atTime_mboxes : (atTime s n).mboxes = s.mboxes := rfl
@[simp] theorem atTime_cached : (atTime s n).cached = s.cached := rfl
@[simp] theorem atTime_sent : (atTime s n).sent = s.sent := rfl
@[simp] theorem atTime_rxq : (atTime s n).rxq = s.rxq := rfl
@[simp] theorem atTime_reasm : (atTime s n).reasm = s.reasm := rfl
@[simp] theorem atTime_fovisPend : (atTime s n).fovisPend = s.fovisPend := rfl
@[simp] theorem atTime_bundle : (atTime s n).bundle = s.bundle := rfl
@[simp] theorem atTime_rings : (atTime s n).rings = s.rings := rfl
@[simp] theorem atTime_cxl : (atTime s n).cxl = s.cxl := rfl
@[simp] theorem atTime_trust : (atTime s n).trust = s.trust := rfl

/-! ### dset -/

@[simp] theorem dset_pending : (dset s n m).pending = s.pending := rfl
@[simp] theorem dset_up : (dset s n m).up = s.up := rfl
@[simp] theorem dset_grade : (dset s n m).grade = s.grade := rfl
@[simp] theorem dset_timeFx : (dset s n m).timeFx = s.timeFx := rfl
@[simp] theorem dset_dict : (dset s n m).dict = tblSet dictDflt s.dict n m := rfl
@[simp] theorem dset_grpMembers : (dset s n m).grpMembers = s.grpMembers := rfl
@[simp] theorem dset_grpValid : (dset s n m).grpValid = s.grpValid := rfl
@[simp] theorem dset_grpSize : (dset s n m).grpSize = s.grpSize := rfl
@[simp] theorem dset_bindings : (dset s n m).bindings = s.bindings := rfl
@[simp] theorem dset_ctxs : (dset s n m).ctxs = s.ctxs := rfl
@[simp] theorem dset_leaves : (dset s n m).leaves = s.leaves := rfl
@[simp] theorem dset_attached : (dset s n m).attached = s.attached := rfl
@[simp] theorem dset_cores : (dset s n m).cores = s.cores := rfl
@[simp] theorem dset_coreMap : (dset s n m).coreMap = s.coreMap := rfl
@[simp] theorem dset_collGroups : (dset s n m).collGroups = s.collGroups := rfl
@[simp] theorem dset_engines : (dset s n m).engines = s.engines := rfl
@[simp] theorem dset_seTaken : (dset s n m).seTaken = s.seTaken := rfl
@[simp] theorem dset_cqTaken : (dset s n m).cqTaken = s.cqTaken := rfl
@[simp] theorem dset_collAborts : (dset s n m).collAborts = s.collAborts := rfl
@[simp] theorem dset_hbNodes : (dset s n m).hbNodes = s.hbNodes := rfl
@[simp] theorem dset_mem : (dset s n m).mem = s.mem := rfl
@[simp] theorem dset_marks : (dset s n m).marks = s.marks := rfl
@[simp] theorem dset_ecc : (dset s n m).ecc = s.ecc := rfl
@[simp] theorem dset_parity : (dset s n m).parity = s.parity := rfl
@[simp] theorem dset_dieParity : (dset s n m).dieParity = s.dieParity := rfl
@[simp] theorem dset_bufErr : (dset s n m).bufErr = s.bufErr := rfl
@[simp] theorem dset_blocked : (dset s n m).blocked = s.blocked := rfl
@[simp] theorem dset_held : (dset s n m).held = s.held := rfl
@[simp] theorem dset_atomics : (dset s n m).atomics = s.atomics := rfl
@[simp] theorem dset_nmus : (dset s n m).nmus = s.nmus := rfl
@[simp] theorem dset_stackWork : (dset s n m).stackWork = s.stackWork := rfl
@[simp] theorem dset_ports : (dset s n m).ports = s.ports := rfl
@[simp] theorem dset_reqs : (dset s n m).reqs = s.reqs := rfl
@[simp] theorem dset_issueQ : (dset s n m).issueQ = s.issueQ := rfl
@[simp] theorem dset_tagNext : (dset s n m).tagNext = s.tagNext := rfl
@[simp] theorem dset_tagLog : (dset s n m).tagLog = s.tagLog := rfl
@[simp] theorem dset_outQ : (dset s n m).outQ = s.outQ := rfl
@[simp] theorem dset_stallAt : (dset s n m).stallAt = s.stallAt := rfl
@[simp] theorem dset_turn3 : (dset s n m).turn3 = s.turn3 := rfl
@[simp] theorem dset_replies : (dset s n m).replies = s.replies := rfl
@[simp] theorem dset_replay : (dset s n m).replay = s.replay := rfl
@[simp] theorem dset_ingress : (dset s n m).ingress = s.ingress := rfl
@[simp] theorem dset_dir : (dset s n m).dir = s.dir := rfl
@[simp] theorem dset_snoops : (dset s n m).snoops = s.snoops := rfl
@[simp] theorem dset_hot : (dset s n m).hot = s.hot := rfl
@[simp] theorem dset_sysTx : (dset s n m).sysTx = s.sysTx := rfl
@[simp] theorem dset_sysRx : (dset s n m).sysRx = s.sysRx := rfl
@[simp] theorem dset_lastIssue : (dset s n m).lastIssue = s.lastIssue := rfl
@[simp] theorem dset_relays : (dset s n m).relays = s.relays := rfl
@[simp] theorem dset_vinOk : (dset s n m).vinOk = s.vinOk := rfl
@[simp] theorem dset_rstLow : (dset s n m).rstLow = s.rstLow := rfl
@[simp] theorem dset_relayQ : (dset s n m).relayQ = s.relayQ := rfl
@[simp] theorem dset_landed : (dset s n m).landed = s.landed := rfl
@[simp] theorem dset_relayOps : (dset s n m).relayOps = s.relayOps := rfl
@[simp] theorem dset_netPort : (dset s n m).netPort = s.netPort := rfl
@[simp] theorem dset_neigh : (dset s n m).neigh = s.neigh := rfl
@[simp] theorem dset_netDup : (dset s n m).netDup = s.netDup := rfl
@[simp] theorem dset_colOut : (dset s n m).colOut = s.colOut := rfl
@[simp] theorem dset_epochAdv : (dset s n m).epochAdv = s.epochAdv := rfl
@[simp] theorem dset_trans0 : (dset s n m).trans0 = s.trans0 := rfl
@[simp] theorem dset_trans1 : (dset s n m).trans1 = s.trans1 := rfl
@[simp] theorem dset_hcache : (dset s n m).hcache = s.hcache := rfl
@[simp] theorem dset_freeCount : (dset s n m).freeCount = s.freeCount := rfl
@[simp] theorem dset_hresp : (dset s n m).hresp = s.hresp := rfl
@[simp] theorem dset_harts : (dset s n m).harts = s.harts := rfl
@[simp] theorem dset_hres : (dset s n m).hres = s.hres := rfl
@[simp] theorem dset_msip : (dset s n m).msip = s.msip := rfl
@[simp] theorem dset_mtip : (dset s n m).mtip = s.mtip := rfl
@[simp] theorem dset_irq17 : (dset s n m).irq17 = s.irq17 := rfl
@[simp] theorem dset_mtimecmp : (dset s n m).mtimecmp = s.mtimecmp := rfl
@[simp] theorem dset_apertures : (dset s n m).apertures = s.apertures := rfl
@[simp] theorem dset_released : (dset s n m).released = s.released := rfl
@[simp] theorem dset_notify : (dset s n m).notify = s.notify := rfl
@[simp] theorem dset_snap : (dset s n m).snap = s.snap := rfl
@[simp] theorem dset_hdieErr : (dset s n m).hdieErr = s.hdieErr := rfl
@[simp] theorem dset_hdieErrKeep : (dset s n m).hdieErrKeep = s.hdieErrKeep := rfl
@[simp] theorem dset_hdieErrAddr : (dset s n m).hdieErrAddr = s.hdieErrAddr := rfl
@[simp] theorem dset_doms : (dset s n m).doms = s.doms := rfl
@[simp] theorem dset_hold : (dset s n m).hold = s.hold := rfl
@[simp] theorem dset_errLog : (dset s n m).errLog = s.errLog := rfl
@[simp] theorem dset_errCount : (dset s n m).errCount = s.errCount := rfl
@[simp] theorem dset_proofs : (dset s n m).proofs = s.proofs := rfl
@[simp] theorem dset_cal : (dset s n m).cal = s.cal := rfl
@[simp] theorem dset_calSeq : (dset s n m).calSeq = s.calSeq := rfl
@[simp] theorem dset_calDone : (dset s n m).calDone = s.calDone := rfl
@[simp] theorem dset_powerCycle : (dset s n m).powerCycle = s.powerCycle := rfl
@[simp] theorem dset_powerOnBase : (dset s n m).powerOnBase = s.powerOnBase := rfl
@[simp] theorem dset_stepped : (dset s n m).stepped = s.stepped := rfl
@[simp] theorem dset_countsAt : (dset s n m).countsAt = s.countsAt := rfl
@[simp] theorem dset_p10s : (dset s n m).p10s = s.p10s := rfl
@[simp] theorem dset_occAt : (dset s n m).occAt = s.occAt := rfl
@[simp] theorem dset_mons : (dset s n m).mons = s.mons := rfl
@[simp] theorem dset_spareUsed : (dset s n m).spareUsed = s.spareUsed := rfl
@[simp] theorem dset_meFault : (dset s n m).meFault = s.meFault := rfl
@[simp] theorem dset_seFault : (dset s n m).seFault = s.seFault := rfl
@[simp] theorem dset_coreFault : (dset s n m).coreFault = s.coreFault := rfl
@[simp] theorem dset_proofDone : (dset s n m).proofDone = s.proofDone := rfl
@[simp] theorem dset_retired : (dset s n m).retired = s.retired := rfl
@[simp] theorem dset_banksOff : (dset s n m).banksOff = s.banksOff := rfl
@[simp] theorem dset_errBase : (dset s n m).errBase = s.errBase := rfl
@[simp] theorem dset_nvmA : (dset s n m).nvmA = s.nvmA := rfl
@[simp] theorem dset_nvmB : (dset s n m).nvmB = s.nvmB := rfl
@[simp] theorem dset_zeroing : (dset s n m).zeroing = s.zeroing := rfl
@[simp] theorem dset_tripped : (dset s n m).tripped = s.tripped := rfl
@[simp] theorem dset_p10 : (dset s n m).p10 = s.p10 := rfl
@[simp] theorem dset_p1m : (dset s n m).p1m = s.p1m := rfl
@[simp] theorem dset_holdSince : (dset s n m).holdSince = s.holdSince := rfl
@[simp] theorem dset_admits : (dset s n m).admits = s.admits := rfl
@[simp] theorem dset_tick : (dset s n m).tick = s.tick := rfl
@[simp] theorem dset_lastSync : (dset s n m).lastSync = s.lastSync := rfl
@[simp] theorem dset_setup0 : (dset s n m).setup0 = s.setup0 := rfl
@[simp] theorem dset_setup1 : (dset s n m).setup1 = s.setup1 := rfl
@[simp] theorem dset_setupNew : (dset s n m).setupNew = s.setupNew := rfl
@[simp] theorem dset_mboxes : (dset s n m).mboxes = s.mboxes := rfl
@[simp] theorem dset_cached : (dset s n m).cached = s.cached := rfl
@[simp] theorem dset_sent : (dset s n m).sent = s.sent := rfl
@[simp] theorem dset_rxq : (dset s n m).rxq = s.rxq := rfl
@[simp] theorem dset_reasm : (dset s n m).reasm = s.reasm := rfl
@[simp] theorem dset_fovisPend : (dset s n m).fovisPend = s.fovisPend := rfl
@[simp] theorem dset_bundle : (dset s n m).bundle = s.bundle := rfl
@[simp] theorem dset_rings : (dset s n m).rings = s.rings := rfl
@[simp] theorem dset_cxl : (dset s n m).cxl = s.cxl := rfl
@[simp] theorem dset_trust : (dset s n m).trust = s.trust := rfl

/-! ### putCore -/

@[simp] theorem putCore_pending : (putCore s n c).pending = s.pending := rfl
@[simp] theorem putCore_up : (putCore s n c).up = s.up := rfl
@[simp] theorem putCore_grade : (putCore s n c).grade = s.grade := rfl
@[simp] theorem putCore_timeFx : (putCore s n c).timeFx = s.timeFx := rfl
@[simp] theorem putCore_dict : (putCore s n c).dict = s.dict := rfl
@[simp] theorem putCore_grpMembers : (putCore s n c).grpMembers = s.grpMembers := rfl
@[simp] theorem putCore_grpValid : (putCore s n c).grpValid = s.grpValid := rfl
@[simp] theorem putCore_grpSize : (putCore s n c).grpSize = s.grpSize := rfl
@[simp] theorem putCore_bindings : (putCore s n c).bindings = s.bindings := rfl
@[simp] theorem putCore_ctxs : (putCore s n c).ctxs = s.ctxs := rfl
@[simp] theorem putCore_leaves : (putCore s n c).leaves = s.leaves := rfl
@[simp] theorem putCore_attached : (putCore s n c).attached = s.attached := rfl
@[simp] theorem putCore_cores : (putCore s n c).cores = tblSet coreDflt s.cores n c := rfl
@[simp] theorem putCore_coreMap : (putCore s n c).coreMap = s.coreMap := rfl
@[simp] theorem putCore_collGroups : (putCore s n c).collGroups = s.collGroups := rfl
@[simp] theorem putCore_engines : (putCore s n c).engines = s.engines := rfl
@[simp] theorem putCore_seTaken : (putCore s n c).seTaken = s.seTaken := rfl
@[simp] theorem putCore_cqTaken : (putCore s n c).cqTaken = s.cqTaken := rfl
@[simp] theorem putCore_collAborts : (putCore s n c).collAborts = s.collAborts := rfl
@[simp] theorem putCore_hbNodes : (putCore s n c).hbNodes = s.hbNodes := rfl
@[simp] theorem putCore_mem : (putCore s n c).mem = s.mem := rfl
@[simp] theorem putCore_marks : (putCore s n c).marks = s.marks := rfl
@[simp] theorem putCore_ecc : (putCore s n c).ecc = s.ecc := rfl
@[simp] theorem putCore_parity : (putCore s n c).parity = s.parity := rfl
@[simp] theorem putCore_dieParity : (putCore s n c).dieParity = s.dieParity := rfl
@[simp] theorem putCore_bufErr : (putCore s n c).bufErr = s.bufErr := rfl
@[simp] theorem putCore_blocked : (putCore s n c).blocked = s.blocked := rfl
@[simp] theorem putCore_held : (putCore s n c).held = s.held := rfl
@[simp] theorem putCore_atomics : (putCore s n c).atomics = s.atomics := rfl
@[simp] theorem putCore_nmus : (putCore s n c).nmus = s.nmus := rfl
@[simp] theorem putCore_stackWork : (putCore s n c).stackWork = s.stackWork := rfl
@[simp] theorem putCore_ports : (putCore s n c).ports = s.ports := rfl
@[simp] theorem putCore_reqs : (putCore s n c).reqs = s.reqs := rfl
@[simp] theorem putCore_issueQ : (putCore s n c).issueQ = s.issueQ := rfl
@[simp] theorem putCore_tagNext : (putCore s n c).tagNext = s.tagNext := rfl
@[simp] theorem putCore_tagLog : (putCore s n c).tagLog = s.tagLog := rfl
@[simp] theorem putCore_outQ : (putCore s n c).outQ = s.outQ := rfl
@[simp] theorem putCore_stallAt : (putCore s n c).stallAt = s.stallAt := rfl
@[simp] theorem putCore_turn3 : (putCore s n c).turn3 = s.turn3 := rfl
@[simp] theorem putCore_replies : (putCore s n c).replies = s.replies := rfl
@[simp] theorem putCore_replay : (putCore s n c).replay = s.replay := rfl
@[simp] theorem putCore_ingress : (putCore s n c).ingress = s.ingress := rfl
@[simp] theorem putCore_dir : (putCore s n c).dir = s.dir := rfl
@[simp] theorem putCore_snoops : (putCore s n c).snoops = s.snoops := rfl
@[simp] theorem putCore_hot : (putCore s n c).hot = s.hot := rfl
@[simp] theorem putCore_sysTx : (putCore s n c).sysTx = s.sysTx := rfl
@[simp] theorem putCore_sysRx : (putCore s n c).sysRx = s.sysRx := rfl
@[simp] theorem putCore_lastIssue : (putCore s n c).lastIssue = s.lastIssue := rfl
@[simp] theorem putCore_relays : (putCore s n c).relays = s.relays := rfl
@[simp] theorem putCore_vinOk : (putCore s n c).vinOk = s.vinOk := rfl
@[simp] theorem putCore_rstLow : (putCore s n c).rstLow = s.rstLow := rfl
@[simp] theorem putCore_relayQ : (putCore s n c).relayQ = s.relayQ := rfl
@[simp] theorem putCore_landed : (putCore s n c).landed = s.landed := rfl
@[simp] theorem putCore_relayOps : (putCore s n c).relayOps = s.relayOps := rfl
@[simp] theorem putCore_netPort : (putCore s n c).netPort = s.netPort := rfl
@[simp] theorem putCore_neigh : (putCore s n c).neigh = s.neigh := rfl
@[simp] theorem putCore_netDup : (putCore s n c).netDup = s.netDup := rfl
@[simp] theorem putCore_colOut : (putCore s n c).colOut = s.colOut := rfl
@[simp] theorem putCore_epochAdv : (putCore s n c).epochAdv = s.epochAdv := rfl
@[simp] theorem putCore_trans0 : (putCore s n c).trans0 = s.trans0 := rfl
@[simp] theorem putCore_trans1 : (putCore s n c).trans1 = s.trans1 := rfl
@[simp] theorem putCore_hcache : (putCore s n c).hcache = s.hcache := rfl
@[simp] theorem putCore_freeCount : (putCore s n c).freeCount = s.freeCount := rfl
@[simp] theorem putCore_hresp : (putCore s n c).hresp = s.hresp := rfl
@[simp] theorem putCore_harts : (putCore s n c).harts = s.harts := rfl
@[simp] theorem putCore_hres : (putCore s n c).hres = s.hres := rfl
@[simp] theorem putCore_msip : (putCore s n c).msip = s.msip := rfl
@[simp] theorem putCore_mtip : (putCore s n c).mtip = s.mtip := rfl
@[simp] theorem putCore_irq17 : (putCore s n c).irq17 = s.irq17 := rfl
@[simp] theorem putCore_mtimecmp : (putCore s n c).mtimecmp = s.mtimecmp := rfl
@[simp] theorem putCore_apertures : (putCore s n c).apertures = s.apertures := rfl
@[simp] theorem putCore_released : (putCore s n c).released = s.released := rfl
@[simp] theorem putCore_notify : (putCore s n c).notify = s.notify := rfl
@[simp] theorem putCore_snap : (putCore s n c).snap = s.snap := rfl
@[simp] theorem putCore_hdieErr : (putCore s n c).hdieErr = s.hdieErr := rfl
@[simp] theorem putCore_hdieErrKeep : (putCore s n c).hdieErrKeep = s.hdieErrKeep := rfl
@[simp] theorem putCore_hdieErrAddr : (putCore s n c).hdieErrAddr = s.hdieErrAddr := rfl
@[simp] theorem putCore_doms : (putCore s n c).doms = s.doms := rfl
@[simp] theorem putCore_hold : (putCore s n c).hold = s.hold := rfl
@[simp] theorem putCore_errLog : (putCore s n c).errLog = s.errLog := rfl
@[simp] theorem putCore_errCount : (putCore s n c).errCount = s.errCount := rfl
@[simp] theorem putCore_proofs : (putCore s n c).proofs = s.proofs := rfl
@[simp] theorem putCore_cal : (putCore s n c).cal = s.cal := rfl
@[simp] theorem putCore_calSeq : (putCore s n c).calSeq = s.calSeq := rfl
@[simp] theorem putCore_calDone : (putCore s n c).calDone = s.calDone := rfl
@[simp] theorem putCore_powerCycle : (putCore s n c).powerCycle = s.powerCycle := rfl
@[simp] theorem putCore_powerOnBase : (putCore s n c).powerOnBase = s.powerOnBase := rfl
@[simp] theorem putCore_stepped : (putCore s n c).stepped = s.stepped := rfl
@[simp] theorem putCore_countsAt : (putCore s n c).countsAt = s.countsAt := rfl
@[simp] theorem putCore_p10s : (putCore s n c).p10s = s.p10s := rfl
@[simp] theorem putCore_occAt : (putCore s n c).occAt = s.occAt := rfl
@[simp] theorem putCore_mons : (putCore s n c).mons = s.mons := rfl
@[simp] theorem putCore_spareUsed : (putCore s n c).spareUsed = s.spareUsed := rfl
@[simp] theorem putCore_meFault : (putCore s n c).meFault = s.meFault := rfl
@[simp] theorem putCore_seFault : (putCore s n c).seFault = s.seFault := rfl
@[simp] theorem putCore_coreFault : (putCore s n c).coreFault = s.coreFault := rfl
@[simp] theorem putCore_proofDone : (putCore s n c).proofDone = s.proofDone := rfl
@[simp] theorem putCore_retired : (putCore s n c).retired = s.retired := rfl
@[simp] theorem putCore_banksOff : (putCore s n c).banksOff = s.banksOff := rfl
@[simp] theorem putCore_errBase : (putCore s n c).errBase = s.errBase := rfl
@[simp] theorem putCore_nvmA : (putCore s n c).nvmA = s.nvmA := rfl
@[simp] theorem putCore_nvmB : (putCore s n c).nvmB = s.nvmB := rfl
@[simp] theorem putCore_zeroing : (putCore s n c).zeroing = s.zeroing := rfl
@[simp] theorem putCore_tripped : (putCore s n c).tripped = s.tripped := rfl
@[simp] theorem putCore_p10 : (putCore s n c).p10 = s.p10 := rfl
@[simp] theorem putCore_p1m : (putCore s n c).p1m = s.p1m := rfl
@[simp] theorem putCore_holdSince : (putCore s n c).holdSince = s.holdSince := rfl
@[simp] theorem putCore_admits : (putCore s n c).admits = s.admits := rfl
@[simp] theorem putCore_tick : (putCore s n c).tick = s.tick := rfl
@[simp] theorem putCore_lastSync : (putCore s n c).lastSync = s.lastSync := rfl
@[simp] theorem putCore_setup0 : (putCore s n c).setup0 = s.setup0 := rfl
@[simp] theorem putCore_setup1 : (putCore s n c).setup1 = s.setup1 := rfl
@[simp] theorem putCore_setupNew : (putCore s n c).setupNew = s.setupNew := rfl
@[simp] theorem putCore_mboxes : (putCore s n c).mboxes = s.mboxes := rfl
@[simp] theorem putCore_cached : (putCore s n c).cached = s.cached := rfl
@[simp] theorem putCore_sent : (putCore s n c).sent = s.sent := rfl
@[simp] theorem putCore_rxq : (putCore s n c).rxq = s.rxq := rfl
@[simp] theorem putCore_reasm : (putCore s n c).reasm = s.reasm := rfl
@[simp] theorem putCore_fovisPend : (putCore s n c).fovisPend = s.fovisPend := rfl
@[simp] theorem putCore_bundle : (putCore s n c).bundle = s.bundle := rfl
@[simp] theorem putCore_rings : (putCore s n c).rings = s.rings := rfl
@[simp] theorem putCore_cxl : (putCore s n c).cxl = s.cxl := rfl
@[simp] theorem putCore_trust : (putCore s n c).trust = s.trust := rfl

/-! ### modCore -/

@[simp] theorem modCore_pending : (modCore s n fc).pending = s.pending := rfl
@[simp] theorem modCore_up : (modCore s n fc).up = s.up := rfl
@[simp] theorem modCore_grade : (modCore s n fc).grade = s.grade := rfl
@[simp] theorem modCore_timeFx : (modCore s n fc).timeFx = s.timeFx := rfl
@[simp] theorem modCore_dict : (modCore s n fc).dict = s.dict := rfl
@[simp] theorem modCore_grpMembers : (modCore s n fc).grpMembers = s.grpMembers := rfl
@[simp] theorem modCore_grpValid : (modCore s n fc).grpValid = s.grpValid := rfl
@[simp] theorem modCore_grpSize : (modCore s n fc).grpSize = s.grpSize := rfl
@[simp] theorem modCore_bindings : (modCore s n fc).bindings = s.bindings := rfl
@[simp] theorem modCore_ctxs : (modCore s n fc).ctxs = s.ctxs := rfl
@[simp] theorem modCore_leaves : (modCore s n fc).leaves = s.leaves := rfl
@[simp] theorem modCore_attached : (modCore s n fc).attached = s.attached := rfl
@[simp] theorem modCore_cores : (modCore s n fc).cores = tblSet coreDflt s.cores n (fc (coreAt s n)) := rfl
@[simp] theorem modCore_coreMap : (modCore s n fc).coreMap = s.coreMap := rfl
@[simp] theorem modCore_collGroups : (modCore s n fc).collGroups = s.collGroups := rfl
@[simp] theorem modCore_engines : (modCore s n fc).engines = s.engines := rfl
@[simp] theorem modCore_seTaken : (modCore s n fc).seTaken = s.seTaken := rfl
@[simp] theorem modCore_cqTaken : (modCore s n fc).cqTaken = s.cqTaken := rfl
@[simp] theorem modCore_collAborts : (modCore s n fc).collAborts = s.collAborts := rfl
@[simp] theorem modCore_hbNodes : (modCore s n fc).hbNodes = s.hbNodes := rfl
@[simp] theorem modCore_mem : (modCore s n fc).mem = s.mem := rfl
@[simp] theorem modCore_marks : (modCore s n fc).marks = s.marks := rfl
@[simp] theorem modCore_ecc : (modCore s n fc).ecc = s.ecc := rfl
@[simp] theorem modCore_parity : (modCore s n fc).parity = s.parity := rfl
@[simp] theorem modCore_dieParity : (modCore s n fc).dieParity = s.dieParity := rfl
@[simp] theorem modCore_bufErr : (modCore s n fc).bufErr = s.bufErr := rfl
@[simp] theorem modCore_blocked : (modCore s n fc).blocked = s.blocked := rfl
@[simp] theorem modCore_held : (modCore s n fc).held = s.held := rfl
@[simp] theorem modCore_atomics : (modCore s n fc).atomics = s.atomics := rfl
@[simp] theorem modCore_nmus : (modCore s n fc).nmus = s.nmus := rfl
@[simp] theorem modCore_stackWork : (modCore s n fc).stackWork = s.stackWork := rfl
@[simp] theorem modCore_ports : (modCore s n fc).ports = s.ports := rfl
@[simp] theorem modCore_reqs : (modCore s n fc).reqs = s.reqs := rfl
@[simp] theorem modCore_issueQ : (modCore s n fc).issueQ = s.issueQ := rfl
@[simp] theorem modCore_tagNext : (modCore s n fc).tagNext = s.tagNext := rfl
@[simp] theorem modCore_tagLog : (modCore s n fc).tagLog = s.tagLog := rfl
@[simp] theorem modCore_outQ : (modCore s n fc).outQ = s.outQ := rfl
@[simp] theorem modCore_stallAt : (modCore s n fc).stallAt = s.stallAt := rfl
@[simp] theorem modCore_turn3 : (modCore s n fc).turn3 = s.turn3 := rfl
@[simp] theorem modCore_replies : (modCore s n fc).replies = s.replies := rfl
@[simp] theorem modCore_replay : (modCore s n fc).replay = s.replay := rfl
@[simp] theorem modCore_ingress : (modCore s n fc).ingress = s.ingress := rfl
@[simp] theorem modCore_dir : (modCore s n fc).dir = s.dir := rfl
@[simp] theorem modCore_snoops : (modCore s n fc).snoops = s.snoops := rfl
@[simp] theorem modCore_hot : (modCore s n fc).hot = s.hot := rfl
@[simp] theorem modCore_sysTx : (modCore s n fc).sysTx = s.sysTx := rfl
@[simp] theorem modCore_sysRx : (modCore s n fc).sysRx = s.sysRx := rfl
@[simp] theorem modCore_lastIssue : (modCore s n fc).lastIssue = s.lastIssue := rfl
@[simp] theorem modCore_relays : (modCore s n fc).relays = s.relays := rfl
@[simp] theorem modCore_vinOk : (modCore s n fc).vinOk = s.vinOk := rfl
@[simp] theorem modCore_rstLow : (modCore s n fc).rstLow = s.rstLow := rfl
@[simp] theorem modCore_relayQ : (modCore s n fc).relayQ = s.relayQ := rfl
@[simp] theorem modCore_landed : (modCore s n fc).landed = s.landed := rfl
@[simp] theorem modCore_relayOps : (modCore s n fc).relayOps = s.relayOps := rfl
@[simp] theorem modCore_netPort : (modCore s n fc).netPort = s.netPort := rfl
@[simp] theorem modCore_neigh : (modCore s n fc).neigh = s.neigh := rfl
@[simp] theorem modCore_netDup : (modCore s n fc).netDup = s.netDup := rfl
@[simp] theorem modCore_colOut : (modCore s n fc).colOut = s.colOut := rfl
@[simp] theorem modCore_epochAdv : (modCore s n fc).epochAdv = s.epochAdv := rfl
@[simp] theorem modCore_trans0 : (modCore s n fc).trans0 = s.trans0 := rfl
@[simp] theorem modCore_trans1 : (modCore s n fc).trans1 = s.trans1 := rfl
@[simp] theorem modCore_hcache : (modCore s n fc).hcache = s.hcache := rfl
@[simp] theorem modCore_freeCount : (modCore s n fc).freeCount = s.freeCount := rfl
@[simp] theorem modCore_hresp : (modCore s n fc).hresp = s.hresp := rfl
@[simp] theorem modCore_harts : (modCore s n fc).harts = s.harts := rfl
@[simp] theorem modCore_hres : (modCore s n fc).hres = s.hres := rfl
@[simp] theorem modCore_msip : (modCore s n fc).msip = s.msip := rfl
@[simp] theorem modCore_mtip : (modCore s n fc).mtip = s.mtip := rfl
@[simp] theorem modCore_irq17 : (modCore s n fc).irq17 = s.irq17 := rfl
@[simp] theorem modCore_mtimecmp : (modCore s n fc).mtimecmp = s.mtimecmp := rfl
@[simp] theorem modCore_apertures : (modCore s n fc).apertures = s.apertures := rfl
@[simp] theorem modCore_released : (modCore s n fc).released = s.released := rfl
@[simp] theorem modCore_notify : (modCore s n fc).notify = s.notify := rfl
@[simp] theorem modCore_snap : (modCore s n fc).snap = s.snap := rfl
@[simp] theorem modCore_hdieErr : (modCore s n fc).hdieErr = s.hdieErr := rfl
@[simp] theorem modCore_hdieErrKeep : (modCore s n fc).hdieErrKeep = s.hdieErrKeep := rfl
@[simp] theorem modCore_hdieErrAddr : (modCore s n fc).hdieErrAddr = s.hdieErrAddr := rfl
@[simp] theorem modCore_doms : (modCore s n fc).doms = s.doms := rfl
@[simp] theorem modCore_hold : (modCore s n fc).hold = s.hold := rfl
@[simp] theorem modCore_errLog : (modCore s n fc).errLog = s.errLog := rfl
@[simp] theorem modCore_errCount : (modCore s n fc).errCount = s.errCount := rfl
@[simp] theorem modCore_proofs : (modCore s n fc).proofs = s.proofs := rfl
@[simp] theorem modCore_cal : (modCore s n fc).cal = s.cal := rfl
@[simp] theorem modCore_calSeq : (modCore s n fc).calSeq = s.calSeq := rfl
@[simp] theorem modCore_calDone : (modCore s n fc).calDone = s.calDone := rfl
@[simp] theorem modCore_powerCycle : (modCore s n fc).powerCycle = s.powerCycle := rfl
@[simp] theorem modCore_powerOnBase : (modCore s n fc).powerOnBase = s.powerOnBase := rfl
@[simp] theorem modCore_stepped : (modCore s n fc).stepped = s.stepped := rfl
@[simp] theorem modCore_countsAt : (modCore s n fc).countsAt = s.countsAt := rfl
@[simp] theorem modCore_p10s : (modCore s n fc).p10s = s.p10s := rfl
@[simp] theorem modCore_occAt : (modCore s n fc).occAt = s.occAt := rfl
@[simp] theorem modCore_mons : (modCore s n fc).mons = s.mons := rfl
@[simp] theorem modCore_spareUsed : (modCore s n fc).spareUsed = s.spareUsed := rfl
@[simp] theorem modCore_meFault : (modCore s n fc).meFault = s.meFault := rfl
@[simp] theorem modCore_seFault : (modCore s n fc).seFault = s.seFault := rfl
@[simp] theorem modCore_coreFault : (modCore s n fc).coreFault = s.coreFault := rfl
@[simp] theorem modCore_proofDone : (modCore s n fc).proofDone = s.proofDone := rfl
@[simp] theorem modCore_retired : (modCore s n fc).retired = s.retired := rfl
@[simp] theorem modCore_banksOff : (modCore s n fc).banksOff = s.banksOff := rfl
@[simp] theorem modCore_errBase : (modCore s n fc).errBase = s.errBase := rfl
@[simp] theorem modCore_nvmA : (modCore s n fc).nvmA = s.nvmA := rfl
@[simp] theorem modCore_nvmB : (modCore s n fc).nvmB = s.nvmB := rfl
@[simp] theorem modCore_zeroing : (modCore s n fc).zeroing = s.zeroing := rfl
@[simp] theorem modCore_tripped : (modCore s n fc).tripped = s.tripped := rfl
@[simp] theorem modCore_p10 : (modCore s n fc).p10 = s.p10 := rfl
@[simp] theorem modCore_p1m : (modCore s n fc).p1m = s.p1m := rfl
@[simp] theorem modCore_holdSince : (modCore s n fc).holdSince = s.holdSince := rfl
@[simp] theorem modCore_admits : (modCore s n fc).admits = s.admits := rfl
@[simp] theorem modCore_tick : (modCore s n fc).tick = s.tick := rfl
@[simp] theorem modCore_lastSync : (modCore s n fc).lastSync = s.lastSync := rfl
@[simp] theorem modCore_setup0 : (modCore s n fc).setup0 = s.setup0 := rfl
@[simp] theorem modCore_setup1 : (modCore s n fc).setup1 = s.setup1 := rfl
@[simp] theorem modCore_setupNew : (modCore s n fc).setupNew = s.setupNew := rfl
@[simp] theorem modCore_mboxes : (modCore s n fc).mboxes = s.mboxes := rfl
@[simp] theorem modCore_cached : (modCore s n fc).cached = s.cached := rfl
@[simp] theorem modCore_sent : (modCore s n fc).sent = s.sent := rfl
@[simp] theorem modCore_rxq : (modCore s n fc).rxq = s.rxq := rfl
@[simp] theorem modCore_reasm : (modCore s n fc).reasm = s.reasm := rfl
@[simp] theorem modCore_fovisPend : (modCore s n fc).fovisPend = s.fovisPend := rfl
@[simp] theorem modCore_bundle : (modCore s n fc).bundle = s.bundle := rfl
@[simp] theorem modCore_rings : (modCore s n fc).rings = s.rings := rfl
@[simp] theorem modCore_cxl : (modCore s n fc).cxl = s.cxl := rfl
@[simp] theorem modCore_trust : (modCore s n fc).trust = s.trust := rfl

/-! ### modEngine -/

@[simp] theorem modEngine_pending : (modEngine s n fe).pending = s.pending := rfl
@[simp] theorem modEngine_up : (modEngine s n fe).up = s.up := rfl
@[simp] theorem modEngine_grade : (modEngine s n fe).grade = s.grade := rfl
@[simp] theorem modEngine_timeFx : (modEngine s n fe).timeFx = s.timeFx := rfl
@[simp] theorem modEngine_dict : (modEngine s n fe).dict = s.dict := rfl
@[simp] theorem modEngine_grpMembers : (modEngine s n fe).grpMembers = s.grpMembers := rfl
@[simp] theorem modEngine_grpValid : (modEngine s n fe).grpValid = s.grpValid := rfl
@[simp] theorem modEngine_grpSize : (modEngine s n fe).grpSize = s.grpSize := rfl
@[simp] theorem modEngine_bindings : (modEngine s n fe).bindings = s.bindings := rfl
@[simp] theorem modEngine_ctxs : (modEngine s n fe).ctxs = s.ctxs := rfl
@[simp] theorem modEngine_leaves : (modEngine s n fe).leaves = s.leaves := rfl
@[simp] theorem modEngine_attached : (modEngine s n fe).attached = s.attached := rfl
@[simp] theorem modEngine_cores : (modEngine s n fe).cores = s.cores := rfl
@[simp] theorem modEngine_coreMap : (modEngine s n fe).coreMap = s.coreMap := rfl
@[simp] theorem modEngine_collGroups : (modEngine s n fe).collGroups = s.collGroups := rfl
@[simp] theorem modEngine_seTaken : (modEngine s n fe).seTaken = s.seTaken := rfl
@[simp] theorem modEngine_cqTaken : (modEngine s n fe).cqTaken = s.cqTaken := rfl
@[simp] theorem modEngine_collAborts : (modEngine s n fe).collAborts = s.collAborts := rfl
@[simp] theorem modEngine_hbNodes : (modEngine s n fe).hbNodes = s.hbNodes := rfl
@[simp] theorem modEngine_mem : (modEngine s n fe).mem = s.mem := rfl
@[simp] theorem modEngine_marks : (modEngine s n fe).marks = s.marks := rfl
@[simp] theorem modEngine_ecc : (modEngine s n fe).ecc = s.ecc := rfl
@[simp] theorem modEngine_parity : (modEngine s n fe).parity = s.parity := rfl
@[simp] theorem modEngine_dieParity : (modEngine s n fe).dieParity = s.dieParity := rfl
@[simp] theorem modEngine_bufErr : (modEngine s n fe).bufErr = s.bufErr := rfl
@[simp] theorem modEngine_blocked : (modEngine s n fe).blocked = s.blocked := rfl
@[simp] theorem modEngine_held : (modEngine s n fe).held = s.held := rfl
@[simp] theorem modEngine_atomics : (modEngine s n fe).atomics = s.atomics := rfl
@[simp] theorem modEngine_nmus : (modEngine s n fe).nmus = s.nmus := rfl
@[simp] theorem modEngine_stackWork : (modEngine s n fe).stackWork = s.stackWork := rfl
@[simp] theorem modEngine_ports : (modEngine s n fe).ports = s.ports := rfl
@[simp] theorem modEngine_reqs : (modEngine s n fe).reqs = s.reqs := rfl
@[simp] theorem modEngine_issueQ : (modEngine s n fe).issueQ = s.issueQ := rfl
@[simp] theorem modEngine_tagNext : (modEngine s n fe).tagNext = s.tagNext := rfl
@[simp] theorem modEngine_tagLog : (modEngine s n fe).tagLog = s.tagLog := rfl
@[simp] theorem modEngine_outQ : (modEngine s n fe).outQ = s.outQ := rfl
@[simp] theorem modEngine_stallAt : (modEngine s n fe).stallAt = s.stallAt := rfl
@[simp] theorem modEngine_turn3 : (modEngine s n fe).turn3 = s.turn3 := rfl
@[simp] theorem modEngine_replies : (modEngine s n fe).replies = s.replies := rfl
@[simp] theorem modEngine_replay : (modEngine s n fe).replay = s.replay := rfl
@[simp] theorem modEngine_ingress : (modEngine s n fe).ingress = s.ingress := rfl
@[simp] theorem modEngine_dir : (modEngine s n fe).dir = s.dir := rfl
@[simp] theorem modEngine_snoops : (modEngine s n fe).snoops = s.snoops := rfl
@[simp] theorem modEngine_hot : (modEngine s n fe).hot = s.hot := rfl
@[simp] theorem modEngine_sysTx : (modEngine s n fe).sysTx = s.sysTx := rfl
@[simp] theorem modEngine_sysRx : (modEngine s n fe).sysRx = s.sysRx := rfl
@[simp] theorem modEngine_lastIssue : (modEngine s n fe).lastIssue = s.lastIssue := rfl
@[simp] theorem modEngine_relays : (modEngine s n fe).relays = s.relays := rfl
@[simp] theorem modEngine_vinOk : (modEngine s n fe).vinOk = s.vinOk := rfl
@[simp] theorem modEngine_rstLow : (modEngine s n fe).rstLow = s.rstLow := rfl
@[simp] theorem modEngine_relayQ : (modEngine s n fe).relayQ = s.relayQ := rfl
@[simp] theorem modEngine_landed : (modEngine s n fe).landed = s.landed := rfl
@[simp] theorem modEngine_relayOps : (modEngine s n fe).relayOps = s.relayOps := rfl
@[simp] theorem modEngine_netPort : (modEngine s n fe).netPort = s.netPort := rfl
@[simp] theorem modEngine_neigh : (modEngine s n fe).neigh = s.neigh := rfl
@[simp] theorem modEngine_netDup : (modEngine s n fe).netDup = s.netDup := rfl
@[simp] theorem modEngine_colOut : (modEngine s n fe).colOut = s.colOut := rfl
@[simp] theorem modEngine_epochAdv : (modEngine s n fe).epochAdv = s.epochAdv := rfl
@[simp] theorem modEngine_trans0 : (modEngine s n fe).trans0 = s.trans0 := rfl
@[simp] theorem modEngine_trans1 : (modEngine s n fe).trans1 = s.trans1 := rfl
@[simp] theorem modEngine_hcache : (modEngine s n fe).hcache = s.hcache := rfl
@[simp] theorem modEngine_freeCount : (modEngine s n fe).freeCount = s.freeCount := rfl
@[simp] theorem modEngine_hresp : (modEngine s n fe).hresp = s.hresp := rfl
@[simp] theorem modEngine_harts : (modEngine s n fe).harts = s.harts := rfl
@[simp] theorem modEngine_hres : (modEngine s n fe).hres = s.hres := rfl
@[simp] theorem modEngine_msip : (modEngine s n fe).msip = s.msip := rfl
@[simp] theorem modEngine_mtip : (modEngine s n fe).mtip = s.mtip := rfl
@[simp] theorem modEngine_irq17 : (modEngine s n fe).irq17 = s.irq17 := rfl
@[simp] theorem modEngine_mtimecmp : (modEngine s n fe).mtimecmp = s.mtimecmp := rfl
@[simp] theorem modEngine_apertures : (modEngine s n fe).apertures = s.apertures := rfl
@[simp] theorem modEngine_released : (modEngine s n fe).released = s.released := rfl
@[simp] theorem modEngine_notify : (modEngine s n fe).notify = s.notify := rfl
@[simp] theorem modEngine_snap : (modEngine s n fe).snap = s.snap := rfl
@[simp] theorem modEngine_hdieErr : (modEngine s n fe).hdieErr = s.hdieErr := rfl
@[simp] theorem modEngine_hdieErrKeep : (modEngine s n fe).hdieErrKeep = s.hdieErrKeep := rfl
@[simp] theorem modEngine_hdieErrAddr : (modEngine s n fe).hdieErrAddr = s.hdieErrAddr := rfl
@[simp] theorem modEngine_doms : (modEngine s n fe).doms = s.doms := rfl
@[simp] theorem modEngine_hold : (modEngine s n fe).hold = s.hold := rfl
@[simp] theorem modEngine_errLog : (modEngine s n fe).errLog = s.errLog := rfl
@[simp] theorem modEngine_errCount : (modEngine s n fe).errCount = s.errCount := rfl
@[simp] theorem modEngine_proofs : (modEngine s n fe).proofs = s.proofs := rfl
@[simp] theorem modEngine_cal : (modEngine s n fe).cal = s.cal := rfl
@[simp] theorem modEngine_calSeq : (modEngine s n fe).calSeq = s.calSeq := rfl
@[simp] theorem modEngine_calDone : (modEngine s n fe).calDone = s.calDone := rfl
@[simp] theorem modEngine_powerCycle : (modEngine s n fe).powerCycle = s.powerCycle := rfl
@[simp] theorem modEngine_powerOnBase : (modEngine s n fe).powerOnBase = s.powerOnBase := rfl
@[simp] theorem modEngine_stepped : (modEngine s n fe).stepped = s.stepped := rfl
@[simp] theorem modEngine_countsAt : (modEngine s n fe).countsAt = s.countsAt := rfl
@[simp] theorem modEngine_p10s : (modEngine s n fe).p10s = s.p10s := rfl
@[simp] theorem modEngine_occAt : (modEngine s n fe).occAt = s.occAt := rfl
@[simp] theorem modEngine_mons : (modEngine s n fe).mons = s.mons := rfl
@[simp] theorem modEngine_spareUsed : (modEngine s n fe).spareUsed = s.spareUsed := rfl
@[simp] theorem modEngine_meFault : (modEngine s n fe).meFault = s.meFault := rfl
@[simp] theorem modEngine_seFault : (modEngine s n fe).seFault = s.seFault := rfl
@[simp] theorem modEngine_coreFault : (modEngine s n fe).coreFault = s.coreFault := rfl
@[simp] theorem modEngine_proofDone : (modEngine s n fe).proofDone = s.proofDone := rfl
@[simp] theorem modEngine_retired : (modEngine s n fe).retired = s.retired := rfl
@[simp] theorem modEngine_banksOff : (modEngine s n fe).banksOff = s.banksOff := rfl
@[simp] theorem modEngine_errBase : (modEngine s n fe).errBase = s.errBase := rfl
@[simp] theorem modEngine_nvmA : (modEngine s n fe).nvmA = s.nvmA := rfl
@[simp] theorem modEngine_nvmB : (modEngine s n fe).nvmB = s.nvmB := rfl
@[simp] theorem modEngine_zeroing : (modEngine s n fe).zeroing = s.zeroing := rfl
@[simp] theorem modEngine_tripped : (modEngine s n fe).tripped = s.tripped := rfl
@[simp] theorem modEngine_p10 : (modEngine s n fe).p10 = s.p10 := rfl
@[simp] theorem modEngine_p1m : (modEngine s n fe).p1m = s.p1m := rfl
@[simp] theorem modEngine_holdSince : (modEngine s n fe).holdSince = s.holdSince := rfl
@[simp] theorem modEngine_admits : (modEngine s n fe).admits = s.admits := rfl
@[simp] theorem modEngine_tick : (modEngine s n fe).tick = s.tick := rfl
@[simp] theorem modEngine_lastSync : (modEngine s n fe).lastSync = s.lastSync := rfl
@[simp] theorem modEngine_setup0 : (modEngine s n fe).setup0 = s.setup0 := rfl
@[simp] theorem modEngine_setup1 : (modEngine s n fe).setup1 = s.setup1 := rfl
@[simp] theorem modEngine_setupNew : (modEngine s n fe).setupNew = s.setupNew := rfl
@[simp] theorem modEngine_mboxes : (modEngine s n fe).mboxes = s.mboxes := rfl
@[simp] theorem modEngine_cached : (modEngine s n fe).cached = s.cached := rfl
@[simp] theorem modEngine_sent : (modEngine s n fe).sent = s.sent := rfl
@[simp] theorem modEngine_rxq : (modEngine s n fe).rxq = s.rxq := rfl
@[simp] theorem modEngine_reasm : (modEngine s n fe).reasm = s.reasm := rfl
@[simp] theorem modEngine_fovisPend : (modEngine s n fe).fovisPend = s.fovisPend := rfl
@[simp] theorem modEngine_bundle : (modEngine s n fe).bundle = s.bundle := rfl
@[simp] theorem modEngine_rings : (modEngine s n fe).rings = s.rings := rfl
@[simp] theorem modEngine_cxl : (modEngine s n fe).cxl = s.cxl := rfl
@[simp] theorem modEngine_trust : (modEngine s n fe).trust = s.trust := rfl

/-! ### modDom -/

@[simp] theorem modDom_pending : (modDom s n fd).pending = s.pending := rfl
@[simp] theorem modDom_up : (modDom s n fd).up = s.up := rfl
@[simp] theorem modDom_grade : (modDom s n fd).grade = s.grade := rfl
@[simp] theorem modDom_timeFx : (modDom s n fd).timeFx = s.timeFx := rfl
@[simp] theorem modDom_dict : (modDom s n fd).dict = s.dict := rfl
@[simp] theorem modDom_grpMembers : (modDom s n fd).grpMembers = s.grpMembers := rfl
@[simp] theorem modDom_grpValid : (modDom s n fd).grpValid = s.grpValid := rfl
@[simp] theorem modDom_grpSize : (modDom s n fd).grpSize = s.grpSize := rfl
@[simp] theorem modDom_bindings : (modDom s n fd).bindings = s.bindings := rfl
@[simp] theorem modDom_ctxs : (modDom s n fd).ctxs = s.ctxs := rfl
@[simp] theorem modDom_leaves : (modDom s n fd).leaves = s.leaves := rfl
@[simp] theorem modDom_attached : (modDom s n fd).attached = s.attached := rfl
@[simp] theorem modDom_cores : (modDom s n fd).cores = s.cores := rfl
@[simp] theorem modDom_coreMap : (modDom s n fd).coreMap = s.coreMap := rfl
@[simp] theorem modDom_collGroups : (modDom s n fd).collGroups = s.collGroups := rfl
@[simp] theorem modDom_engines : (modDom s n fd).engines = s.engines := rfl
@[simp] theorem modDom_seTaken : (modDom s n fd).seTaken = s.seTaken := rfl
@[simp] theorem modDom_cqTaken : (modDom s n fd).cqTaken = s.cqTaken := rfl
@[simp] theorem modDom_collAborts : (modDom s n fd).collAborts = s.collAborts := rfl
@[simp] theorem modDom_hbNodes : (modDom s n fd).hbNodes = s.hbNodes := rfl
@[simp] theorem modDom_mem : (modDom s n fd).mem = s.mem := rfl
@[simp] theorem modDom_marks : (modDom s n fd).marks = s.marks := rfl
@[simp] theorem modDom_ecc : (modDom s n fd).ecc = s.ecc := rfl
@[simp] theorem modDom_parity : (modDom s n fd).parity = s.parity := rfl
@[simp] theorem modDom_dieParity : (modDom s n fd).dieParity = s.dieParity := rfl
@[simp] theorem modDom_bufErr : (modDom s n fd).bufErr = s.bufErr := rfl
@[simp] theorem modDom_blocked : (modDom s n fd).blocked = s.blocked := rfl
@[simp] theorem modDom_held : (modDom s n fd).held = s.held := rfl
@[simp] theorem modDom_atomics : (modDom s n fd).atomics = s.atomics := rfl
@[simp] theorem modDom_nmus : (modDom s n fd).nmus = s.nmus := rfl
@[simp] theorem modDom_stackWork : (modDom s n fd).stackWork = s.stackWork := rfl
@[simp] theorem modDom_ports : (modDom s n fd).ports = s.ports := rfl
@[simp] theorem modDom_reqs : (modDom s n fd).reqs = s.reqs := rfl
@[simp] theorem modDom_issueQ : (modDom s n fd).issueQ = s.issueQ := rfl
@[simp] theorem modDom_tagNext : (modDom s n fd).tagNext = s.tagNext := rfl
@[simp] theorem modDom_tagLog : (modDom s n fd).tagLog = s.tagLog := rfl
@[simp] theorem modDom_outQ : (modDom s n fd).outQ = s.outQ := rfl
@[simp] theorem modDom_stallAt : (modDom s n fd).stallAt = s.stallAt := rfl
@[simp] theorem modDom_turn3 : (modDom s n fd).turn3 = s.turn3 := rfl
@[simp] theorem modDom_replies : (modDom s n fd).replies = s.replies := rfl
@[simp] theorem modDom_replay : (modDom s n fd).replay = s.replay := rfl
@[simp] theorem modDom_ingress : (modDom s n fd).ingress = s.ingress := rfl
@[simp] theorem modDom_dir : (modDom s n fd).dir = s.dir := rfl
@[simp] theorem modDom_snoops : (modDom s n fd).snoops = s.snoops := rfl
@[simp] theorem modDom_hot : (modDom s n fd).hot = s.hot := rfl
@[simp] theorem modDom_sysTx : (modDom s n fd).sysTx = s.sysTx := rfl
@[simp] theorem modDom_sysRx : (modDom s n fd).sysRx = s.sysRx := rfl
@[simp] theorem modDom_lastIssue : (modDom s n fd).lastIssue = s.lastIssue := rfl
@[simp] theorem modDom_relays : (modDom s n fd).relays = s.relays := rfl
@[simp] theorem modDom_vinOk : (modDom s n fd).vinOk = s.vinOk := rfl
@[simp] theorem modDom_rstLow : (modDom s n fd).rstLow = s.rstLow := rfl
@[simp] theorem modDom_relayQ : (modDom s n fd).relayQ = s.relayQ := rfl
@[simp] theorem modDom_landed : (modDom s n fd).landed = s.landed := rfl
@[simp] theorem modDom_relayOps : (modDom s n fd).relayOps = s.relayOps := rfl
@[simp] theorem modDom_netPort : (modDom s n fd).netPort = s.netPort := rfl
@[simp] theorem modDom_neigh : (modDom s n fd).neigh = s.neigh := rfl
@[simp] theorem modDom_netDup : (modDom s n fd).netDup = s.netDup := rfl
@[simp] theorem modDom_colOut : (modDom s n fd).colOut = s.colOut := rfl
@[simp] theorem modDom_epochAdv : (modDom s n fd).epochAdv = s.epochAdv := rfl
@[simp] theorem modDom_trans0 : (modDom s n fd).trans0 = s.trans0 := rfl
@[simp] theorem modDom_trans1 : (modDom s n fd).trans1 = s.trans1 := rfl
@[simp] theorem modDom_hcache : (modDom s n fd).hcache = s.hcache := rfl
@[simp] theorem modDom_freeCount : (modDom s n fd).freeCount = s.freeCount := rfl
@[simp] theorem modDom_hresp : (modDom s n fd).hresp = s.hresp := rfl
@[simp] theorem modDom_harts : (modDom s n fd).harts = s.harts := rfl
@[simp] theorem modDom_hres : (modDom s n fd).hres = s.hres := rfl
@[simp] theorem modDom_msip : (modDom s n fd).msip = s.msip := rfl
@[simp] theorem modDom_mtip : (modDom s n fd).mtip = s.mtip := rfl
@[simp] theorem modDom_irq17 : (modDom s n fd).irq17 = s.irq17 := rfl
@[simp] theorem modDom_mtimecmp : (modDom s n fd).mtimecmp = s.mtimecmp := rfl
@[simp] theorem modDom_apertures : (modDom s n fd).apertures = s.apertures := rfl
@[simp] theorem modDom_released : (modDom s n fd).released = s.released := rfl
@[simp] theorem modDom_notify : (modDom s n fd).notify = s.notify := rfl
@[simp] theorem modDom_snap : (modDom s n fd).snap = s.snap := rfl
@[simp] theorem modDom_hdieErr : (modDom s n fd).hdieErr = s.hdieErr := rfl
@[simp] theorem modDom_hdieErrKeep : (modDom s n fd).hdieErrKeep = s.hdieErrKeep := rfl
@[simp] theorem modDom_hdieErrAddr : (modDom s n fd).hdieErrAddr = s.hdieErrAddr := rfl
@[simp] theorem modDom_hold : (modDom s n fd).hold = s.hold := rfl
@[simp] theorem modDom_errLog : (modDom s n fd).errLog = s.errLog := rfl
@[simp] theorem modDom_errCount : (modDom s n fd).errCount = s.errCount := rfl
@[simp] theorem modDom_proofs : (modDom s n fd).proofs = s.proofs := rfl
@[simp] theorem modDom_cal : (modDom s n fd).cal = s.cal := rfl
@[simp] theorem modDom_calSeq : (modDom s n fd).calSeq = s.calSeq := rfl
@[simp] theorem modDom_calDone : (modDom s n fd).calDone = s.calDone := rfl
@[simp] theorem modDom_powerCycle : (modDom s n fd).powerCycle = s.powerCycle := rfl
@[simp] theorem modDom_powerOnBase : (modDom s n fd).powerOnBase = s.powerOnBase := rfl
@[simp] theorem modDom_stepped : (modDom s n fd).stepped = s.stepped := rfl
@[simp] theorem modDom_countsAt : (modDom s n fd).countsAt = s.countsAt := rfl
@[simp] theorem modDom_p10s : (modDom s n fd).p10s = s.p10s := rfl
@[simp] theorem modDom_occAt : (modDom s n fd).occAt = s.occAt := rfl
@[simp] theorem modDom_mons : (modDom s n fd).mons = s.mons := rfl
@[simp] theorem modDom_spareUsed : (modDom s n fd).spareUsed = s.spareUsed := rfl
@[simp] theorem modDom_meFault : (modDom s n fd).meFault = s.meFault := rfl
@[simp] theorem modDom_seFault : (modDom s n fd).seFault = s.seFault := rfl
@[simp] theorem modDom_coreFault : (modDom s n fd).coreFault = s.coreFault := rfl
@[simp] theorem modDom_proofDone : (modDom s n fd).proofDone = s.proofDone := rfl
@[simp] theorem modDom_retired : (modDom s n fd).retired = s.retired := rfl
@[simp] theorem modDom_banksOff : (modDom s n fd).banksOff = s.banksOff := rfl
@[simp] theorem modDom_errBase : (modDom s n fd).errBase = s.errBase := rfl
@[simp] theorem modDom_nvmA : (modDom s n fd).nvmA = s.nvmA := rfl
@[simp] theorem modDom_nvmB : (modDom s n fd).nvmB = s.nvmB := rfl
@[simp] theorem modDom_zeroing : (modDom s n fd).zeroing = s.zeroing := rfl
@[simp] theorem modDom_tripped : (modDom s n fd).tripped = s.tripped := rfl
@[simp] theorem modDom_p10 : (modDom s n fd).p10 = s.p10 := rfl
@[simp] theorem modDom_p1m : (modDom s n fd).p1m = s.p1m := rfl
@[simp] theorem modDom_holdSince : (modDom s n fd).holdSince = s.holdSince := rfl
@[simp] theorem modDom_admits : (modDom s n fd).admits = s.admits := rfl
@[simp] theorem modDom_tick : (modDom s n fd).tick = s.tick := rfl
@[simp] theorem modDom_lastSync : (modDom s n fd).lastSync = s.lastSync := rfl
@[simp] theorem modDom_setup0 : (modDom s n fd).setup0 = s.setup0 := rfl
@[simp] theorem modDom_setup1 : (modDom s n fd).setup1 = s.setup1 := rfl
@[simp] theorem modDom_setupNew : (modDom s n fd).setupNew = s.setupNew := rfl
@[simp] theorem modDom_mboxes : (modDom s n fd).mboxes = s.mboxes := rfl
@[simp] theorem modDom_cached : (modDom s n fd).cached = s.cached := rfl
@[simp] theorem modDom_sent : (modDom s n fd).sent = s.sent := rfl
@[simp] theorem modDom_rxq : (modDom s n fd).rxq = s.rxq := rfl
@[simp] theorem modDom_reasm : (modDom s n fd).reasm = s.reasm := rfl
@[simp] theorem modDom_fovisPend : (modDom s n fd).fovisPend = s.fovisPend := rfl
@[simp] theorem modDom_bundle : (modDom s n fd).bundle = s.bundle := rfl
@[simp] theorem modDom_rings : (modDom s n fd).rings = s.rings := rfl
@[simp] theorem modDom_cxl : (modDom s n fd).cxl = s.cxl := rfl
@[simp] theorem modDom_trust : (modDom s n fd).trust = s.trust := rfl

/-! ### modPort -/

@[simp] theorem modPort_pending : (modPort s n fp).pending = s.pending := rfl
@[simp] theorem modPort_up : (modPort s n fp).up = s.up := rfl
@[simp] theorem modPort_grade : (modPort s n fp).grade = s.grade := rfl
@[simp] theorem modPort_timeFx : (modPort s n fp).timeFx = s.timeFx := rfl
@[simp] theorem modPort_dict : (modPort s n fp).dict = s.dict := rfl
@[simp] theorem modPort_grpMembers : (modPort s n fp).grpMembers = s.grpMembers := rfl
@[simp] theorem modPort_grpValid : (modPort s n fp).grpValid = s.grpValid := rfl
@[simp] theorem modPort_grpSize : (modPort s n fp).grpSize = s.grpSize := rfl
@[simp] theorem modPort_bindings : (modPort s n fp).bindings = s.bindings := rfl
@[simp] theorem modPort_ctxs : (modPort s n fp).ctxs = s.ctxs := rfl
@[simp] theorem modPort_leaves : (modPort s n fp).leaves = s.leaves := rfl
@[simp] theorem modPort_attached : (modPort s n fp).attached = s.attached := rfl
@[simp] theorem modPort_cores : (modPort s n fp).cores = s.cores := rfl
@[simp] theorem modPort_coreMap : (modPort s n fp).coreMap = s.coreMap := rfl
@[simp] theorem modPort_collGroups : (modPort s n fp).collGroups = s.collGroups := rfl
@[simp] theorem modPort_engines : (modPort s n fp).engines = s.engines := rfl
@[simp] theorem modPort_seTaken : (modPort s n fp).seTaken = s.seTaken := rfl
@[simp] theorem modPort_cqTaken : (modPort s n fp).cqTaken = s.cqTaken := rfl
@[simp] theorem modPort_collAborts : (modPort s n fp).collAborts = s.collAborts := rfl
@[simp] theorem modPort_hbNodes : (modPort s n fp).hbNodes = s.hbNodes := rfl
@[simp] theorem modPort_mem : (modPort s n fp).mem = s.mem := rfl
@[simp] theorem modPort_marks : (modPort s n fp).marks = s.marks := rfl
@[simp] theorem modPort_ecc : (modPort s n fp).ecc = s.ecc := rfl
@[simp] theorem modPort_parity : (modPort s n fp).parity = s.parity := rfl
@[simp] theorem modPort_dieParity : (modPort s n fp).dieParity = s.dieParity := rfl
@[simp] theorem modPort_bufErr : (modPort s n fp).bufErr = s.bufErr := rfl
@[simp] theorem modPort_blocked : (modPort s n fp).blocked = s.blocked := rfl
@[simp] theorem modPort_held : (modPort s n fp).held = s.held := rfl
@[simp] theorem modPort_atomics : (modPort s n fp).atomics = s.atomics := rfl
@[simp] theorem modPort_nmus : (modPort s n fp).nmus = s.nmus := rfl
@[simp] theorem modPort_stackWork : (modPort s n fp).stackWork = s.stackWork := rfl
@[simp] theorem modPort_reqs : (modPort s n fp).reqs = s.reqs := rfl
@[simp] theorem modPort_issueQ : (modPort s n fp).issueQ = s.issueQ := rfl
@[simp] theorem modPort_tagNext : (modPort s n fp).tagNext = s.tagNext := rfl
@[simp] theorem modPort_tagLog : (modPort s n fp).tagLog = s.tagLog := rfl
@[simp] theorem modPort_outQ : (modPort s n fp).outQ = s.outQ := rfl
@[simp] theorem modPort_stallAt : (modPort s n fp).stallAt = s.stallAt := rfl
@[simp] theorem modPort_turn3 : (modPort s n fp).turn3 = s.turn3 := rfl
@[simp] theorem modPort_replies : (modPort s n fp).replies = s.replies := rfl
@[simp] theorem modPort_replay : (modPort s n fp).replay = s.replay := rfl
@[simp] theorem modPort_ingress : (modPort s n fp).ingress = s.ingress := rfl
@[simp] theorem modPort_dir : (modPort s n fp).dir = s.dir := rfl
@[simp] theorem modPort_snoops : (modPort s n fp).snoops = s.snoops := rfl
@[simp] theorem modPort_hot : (modPort s n fp).hot = s.hot := rfl
@[simp] theorem modPort_sysTx : (modPort s n fp).sysTx = s.sysTx := rfl
@[simp] theorem modPort_sysRx : (modPort s n fp).sysRx = s.sysRx := rfl
@[simp] theorem modPort_lastIssue : (modPort s n fp).lastIssue = s.lastIssue := rfl
@[simp] theorem modPort_relays : (modPort s n fp).relays = s.relays := rfl
@[simp] theorem modPort_vinOk : (modPort s n fp).vinOk = s.vinOk := rfl
@[simp] theorem modPort_rstLow : (modPort s n fp).rstLow = s.rstLow := rfl
@[simp] theorem modPort_relayQ : (modPort s n fp).relayQ = s.relayQ := rfl
@[simp] theorem modPort_landed : (modPort s n fp).landed = s.landed := rfl
@[simp] theorem modPort_relayOps : (modPort s n fp).relayOps = s.relayOps := rfl
@[simp] theorem modPort_netPort : (modPort s n fp).netPort = s.netPort := rfl
@[simp] theorem modPort_neigh : (modPort s n fp).neigh = s.neigh := rfl
@[simp] theorem modPort_netDup : (modPort s n fp).netDup = s.netDup := rfl
@[simp] theorem modPort_colOut : (modPort s n fp).colOut = s.colOut := rfl
@[simp] theorem modPort_epochAdv : (modPort s n fp).epochAdv = s.epochAdv := rfl
@[simp] theorem modPort_trans0 : (modPort s n fp).trans0 = s.trans0 := rfl
@[simp] theorem modPort_trans1 : (modPort s n fp).trans1 = s.trans1 := rfl
@[simp] theorem modPort_hcache : (modPort s n fp).hcache = s.hcache := rfl
@[simp] theorem modPort_freeCount : (modPort s n fp).freeCount = s.freeCount := rfl
@[simp] theorem modPort_hresp : (modPort s n fp).hresp = s.hresp := rfl
@[simp] theorem modPort_harts : (modPort s n fp).harts = s.harts := rfl
@[simp] theorem modPort_hres : (modPort s n fp).hres = s.hres := rfl
@[simp] theorem modPort_msip : (modPort s n fp).msip = s.msip := rfl
@[simp] theorem modPort_mtip : (modPort s n fp).mtip = s.mtip := rfl
@[simp] theorem modPort_irq17 : (modPort s n fp).irq17 = s.irq17 := rfl
@[simp] theorem modPort_mtimecmp : (modPort s n fp).mtimecmp = s.mtimecmp := rfl
@[simp] theorem modPort_apertures : (modPort s n fp).apertures = s.apertures := rfl
@[simp] theorem modPort_released : (modPort s n fp).released = s.released := rfl
@[simp] theorem modPort_notify : (modPort s n fp).notify = s.notify := rfl
@[simp] theorem modPort_snap : (modPort s n fp).snap = s.snap := rfl
@[simp] theorem modPort_hdieErr : (modPort s n fp).hdieErr = s.hdieErr := rfl
@[simp] theorem modPort_hdieErrKeep : (modPort s n fp).hdieErrKeep = s.hdieErrKeep := rfl
@[simp] theorem modPort_hdieErrAddr : (modPort s n fp).hdieErrAddr = s.hdieErrAddr := rfl
@[simp] theorem modPort_doms : (modPort s n fp).doms = s.doms := rfl
@[simp] theorem modPort_hold : (modPort s n fp).hold = s.hold := rfl
@[simp] theorem modPort_errLog : (modPort s n fp).errLog = s.errLog := rfl
@[simp] theorem modPort_errCount : (modPort s n fp).errCount = s.errCount := rfl
@[simp] theorem modPort_proofs : (modPort s n fp).proofs = s.proofs := rfl
@[simp] theorem modPort_cal : (modPort s n fp).cal = s.cal := rfl
@[simp] theorem modPort_calSeq : (modPort s n fp).calSeq = s.calSeq := rfl
@[simp] theorem modPort_calDone : (modPort s n fp).calDone = s.calDone := rfl
@[simp] theorem modPort_powerCycle : (modPort s n fp).powerCycle = s.powerCycle := rfl
@[simp] theorem modPort_powerOnBase : (modPort s n fp).powerOnBase = s.powerOnBase := rfl
@[simp] theorem modPort_stepped : (modPort s n fp).stepped = s.stepped := rfl
@[simp] theorem modPort_countsAt : (modPort s n fp).countsAt = s.countsAt := rfl
@[simp] theorem modPort_p10s : (modPort s n fp).p10s = s.p10s := rfl
@[simp] theorem modPort_occAt : (modPort s n fp).occAt = s.occAt := rfl
@[simp] theorem modPort_mons : (modPort s n fp).mons = s.mons := rfl
@[simp] theorem modPort_spareUsed : (modPort s n fp).spareUsed = s.spareUsed := rfl
@[simp] theorem modPort_meFault : (modPort s n fp).meFault = s.meFault := rfl
@[simp] theorem modPort_seFault : (modPort s n fp).seFault = s.seFault := rfl
@[simp] theorem modPort_coreFault : (modPort s n fp).coreFault = s.coreFault := rfl
@[simp] theorem modPort_proofDone : (modPort s n fp).proofDone = s.proofDone := rfl
@[simp] theorem modPort_retired : (modPort s n fp).retired = s.retired := rfl
@[simp] theorem modPort_banksOff : (modPort s n fp).banksOff = s.banksOff := rfl
@[simp] theorem modPort_errBase : (modPort s n fp).errBase = s.errBase := rfl
@[simp] theorem modPort_nvmA : (modPort s n fp).nvmA = s.nvmA := rfl
@[simp] theorem modPort_nvmB : (modPort s n fp).nvmB = s.nvmB := rfl
@[simp] theorem modPort_zeroing : (modPort s n fp).zeroing = s.zeroing := rfl
@[simp] theorem modPort_tripped : (modPort s n fp).tripped = s.tripped := rfl
@[simp] theorem modPort_p10 : (modPort s n fp).p10 = s.p10 := rfl
@[simp] theorem modPort_p1m : (modPort s n fp).p1m = s.p1m := rfl
@[simp] theorem modPort_holdSince : (modPort s n fp).holdSince = s.holdSince := rfl
@[simp] theorem modPort_admits : (modPort s n fp).admits = s.admits := rfl
@[simp] theorem modPort_tick : (modPort s n fp).tick = s.tick := rfl
@[simp] theorem modPort_lastSync : (modPort s n fp).lastSync = s.lastSync := rfl
@[simp] theorem modPort_setup0 : (modPort s n fp).setup0 = s.setup0 := rfl
@[simp] theorem modPort_setup1 : (modPort s n fp).setup1 = s.setup1 := rfl
@[simp] theorem modPort_setupNew : (modPort s n fp).setupNew = s.setupNew := rfl
@[simp] theorem modPort_mboxes : (modPort s n fp).mboxes = s.mboxes := rfl
@[simp] theorem modPort_cached : (modPort s n fp).cached = s.cached := rfl
@[simp] theorem modPort_sent : (modPort s n fp).sent = s.sent := rfl
@[simp] theorem modPort_rxq : (modPort s n fp).rxq = s.rxq := rfl
@[simp] theorem modPort_reasm : (modPort s n fp).reasm = s.reasm := rfl
@[simp] theorem modPort_fovisPend : (modPort s n fp).fovisPend = s.fovisPend := rfl
@[simp] theorem modPort_bundle : (modPort s n fp).bundle = s.bundle := rfl
@[simp] theorem modPort_rings : (modPort s n fp).rings = s.rings := rfl
@[simp] theorem modPort_cxl : (modPort s n fp).cxl = s.cxl := rfl
@[simp] theorem modPort_trust : (modPort s n fp).trust = s.trust := rfl

/-! ### modCtx -/

@[simp] theorem modCtx_pending : (modCtx s n fx).pending = s.pending := rfl
@[simp] theorem modCtx_up : (modCtx s n fx).up = s.up := rfl
@[simp] theorem modCtx_grade : (modCtx s n fx).grade = s.grade := rfl
@[simp] theorem modCtx_timeFx : (modCtx s n fx).timeFx = s.timeFx := rfl
@[simp] theorem modCtx_dict : (modCtx s n fx).dict = s.dict := rfl
@[simp] theorem modCtx_grpMembers : (modCtx s n fx).grpMembers = s.grpMembers := rfl
@[simp] theorem modCtx_grpValid : (modCtx s n fx).grpValid = s.grpValid := rfl
@[simp] theorem modCtx_grpSize : (modCtx s n fx).grpSize = s.grpSize := rfl
@[simp] theorem modCtx_bindings : (modCtx s n fx).bindings = s.bindings := rfl
@[simp] theorem modCtx_leaves : (modCtx s n fx).leaves = s.leaves := rfl
@[simp] theorem modCtx_attached : (modCtx s n fx).attached = s.attached := rfl
@[simp] theorem modCtx_cores : (modCtx s n fx).cores = s.cores := rfl
@[simp] theorem modCtx_coreMap : (modCtx s n fx).coreMap = s.coreMap := rfl
@[simp] theorem modCtx_collGroups : (modCtx s n fx).collGroups = s.collGroups := rfl
@[simp] theorem modCtx_engines : (modCtx s n fx).engines = s.engines := rfl
@[simp] theorem modCtx_seTaken : (modCtx s n fx).seTaken = s.seTaken := rfl
@[simp] theorem modCtx_cqTaken : (modCtx s n fx).cqTaken = s.cqTaken := rfl
@[simp] theorem modCtx_collAborts : (modCtx s n fx).collAborts = s.collAborts := rfl
@[simp] theorem modCtx_hbNodes : (modCtx s n fx).hbNodes = s.hbNodes := rfl
@[simp] theorem modCtx_mem : (modCtx s n fx).mem = s.mem := rfl
@[simp] theorem modCtx_marks : (modCtx s n fx).marks = s.marks := rfl
@[simp] theorem modCtx_ecc : (modCtx s n fx).ecc = s.ecc := rfl
@[simp] theorem modCtx_parity : (modCtx s n fx).parity = s.parity := rfl
@[simp] theorem modCtx_dieParity : (modCtx s n fx).dieParity = s.dieParity := rfl
@[simp] theorem modCtx_bufErr : (modCtx s n fx).bufErr = s.bufErr := rfl
@[simp] theorem modCtx_blocked : (modCtx s n fx).blocked = s.blocked := rfl
@[simp] theorem modCtx_held : (modCtx s n fx).held = s.held := rfl
@[simp] theorem modCtx_atomics : (modCtx s n fx).atomics = s.atomics := rfl
@[simp] theorem modCtx_nmus : (modCtx s n fx).nmus = s.nmus := rfl
@[simp] theorem modCtx_stackWork : (modCtx s n fx).stackWork = s.stackWork := rfl
@[simp] theorem modCtx_ports : (modCtx s n fx).ports = s.ports := rfl
@[simp] theorem modCtx_reqs : (modCtx s n fx).reqs = s.reqs := rfl
@[simp] theorem modCtx_issueQ : (modCtx s n fx).issueQ = s.issueQ := rfl
@[simp] theorem modCtx_tagNext : (modCtx s n fx).tagNext = s.tagNext := rfl
@[simp] theorem modCtx_tagLog : (modCtx s n fx).tagLog = s.tagLog := rfl
@[simp] theorem modCtx_outQ : (modCtx s n fx).outQ = s.outQ := rfl
@[simp] theorem modCtx_stallAt : (modCtx s n fx).stallAt = s.stallAt := rfl
@[simp] theorem modCtx_turn3 : (modCtx s n fx).turn3 = s.turn3 := rfl
@[simp] theorem modCtx_replies : (modCtx s n fx).replies = s.replies := rfl
@[simp] theorem modCtx_replay : (modCtx s n fx).replay = s.replay := rfl
@[simp] theorem modCtx_ingress : (modCtx s n fx).ingress = s.ingress := rfl
@[simp] theorem modCtx_dir : (modCtx s n fx).dir = s.dir := rfl
@[simp] theorem modCtx_snoops : (modCtx s n fx).snoops = s.snoops := rfl
@[simp] theorem modCtx_hot : (modCtx s n fx).hot = s.hot := rfl
@[simp] theorem modCtx_sysTx : (modCtx s n fx).sysTx = s.sysTx := rfl
@[simp] theorem modCtx_sysRx : (modCtx s n fx).sysRx = s.sysRx := rfl
@[simp] theorem modCtx_lastIssue : (modCtx s n fx).lastIssue = s.lastIssue := rfl
@[simp] theorem modCtx_relays : (modCtx s n fx).relays = s.relays := rfl
@[simp] theorem modCtx_vinOk : (modCtx s n fx).vinOk = s.vinOk := rfl
@[simp] theorem modCtx_rstLow : (modCtx s n fx).rstLow = s.rstLow := rfl
@[simp] theorem modCtx_relayQ : (modCtx s n fx).relayQ = s.relayQ := rfl
@[simp] theorem modCtx_landed : (modCtx s n fx).landed = s.landed := rfl
@[simp] theorem modCtx_relayOps : (modCtx s n fx).relayOps = s.relayOps := rfl
@[simp] theorem modCtx_netPort : (modCtx s n fx).netPort = s.netPort := rfl
@[simp] theorem modCtx_neigh : (modCtx s n fx).neigh = s.neigh := rfl
@[simp] theorem modCtx_netDup : (modCtx s n fx).netDup = s.netDup := rfl
@[simp] theorem modCtx_colOut : (modCtx s n fx).colOut = s.colOut := rfl
@[simp] theorem modCtx_epochAdv : (modCtx s n fx).epochAdv = s.epochAdv := rfl
@[simp] theorem modCtx_trans0 : (modCtx s n fx).trans0 = s.trans0 := rfl
@[simp] theorem modCtx_trans1 : (modCtx s n fx).trans1 = s.trans1 := rfl
@[simp] theorem modCtx_hcache : (modCtx s n fx).hcache = s.hcache := rfl
@[simp] theorem modCtx_freeCount : (modCtx s n fx).freeCount = s.freeCount := rfl
@[simp] theorem modCtx_hresp : (modCtx s n fx).hresp = s.hresp := rfl
@[simp] theorem modCtx_harts : (modCtx s n fx).harts = s.harts := rfl
@[simp] theorem modCtx_hres : (modCtx s n fx).hres = s.hres := rfl
@[simp] theorem modCtx_msip : (modCtx s n fx).msip = s.msip := rfl
@[simp] theorem modCtx_mtip : (modCtx s n fx).mtip = s.mtip := rfl
@[simp] theorem modCtx_irq17 : (modCtx s n fx).irq17 = s.irq17 := rfl
@[simp] theorem modCtx_mtimecmp : (modCtx s n fx).mtimecmp = s.mtimecmp := rfl
@[simp] theorem modCtx_apertures : (modCtx s n fx).apertures = s.apertures := rfl
@[simp] theorem modCtx_released : (modCtx s n fx).released = s.released := rfl
@[simp] theorem modCtx_notify : (modCtx s n fx).notify = s.notify := rfl
@[simp] theorem modCtx_snap : (modCtx s n fx).snap = s.snap := rfl
@[simp] theorem modCtx_hdieErr : (modCtx s n fx).hdieErr = s.hdieErr := rfl
@[simp] theorem modCtx_hdieErrKeep : (modCtx s n fx).hdieErrKeep = s.hdieErrKeep := rfl
@[simp] theorem modCtx_hdieErrAddr : (modCtx s n fx).hdieErrAddr = s.hdieErrAddr := rfl
@[simp] theorem modCtx_doms : (modCtx s n fx).doms = s.doms := rfl
@[simp] theorem modCtx_hold : (modCtx s n fx).hold = s.hold := rfl
@[simp] theorem modCtx_errLog : (modCtx s n fx).errLog = s.errLog := rfl
@[simp] theorem modCtx_errCount : (modCtx s n fx).errCount = s.errCount := rfl
@[simp] theorem modCtx_proofs : (modCtx s n fx).proofs = s.proofs := rfl
@[simp] theorem modCtx_cal : (modCtx s n fx).cal = s.cal := rfl
@[simp] theorem modCtx_calSeq : (modCtx s n fx).calSeq = s.calSeq := rfl
@[simp] theorem modCtx_calDone : (modCtx s n fx).calDone = s.calDone := rfl
@[simp] theorem modCtx_powerCycle : (modCtx s n fx).powerCycle = s.powerCycle := rfl
@[simp] theorem modCtx_powerOnBase : (modCtx s n fx).powerOnBase = s.powerOnBase := rfl
@[simp] theorem modCtx_stepped : (modCtx s n fx).stepped = s.stepped := rfl
@[simp] theorem modCtx_countsAt : (modCtx s n fx).countsAt = s.countsAt := rfl
@[simp] theorem modCtx_p10s : (modCtx s n fx).p10s = s.p10s := rfl
@[simp] theorem modCtx_occAt : (modCtx s n fx).occAt = s.occAt := rfl
@[simp] theorem modCtx_mons : (modCtx s n fx).mons = s.mons := rfl
@[simp] theorem modCtx_spareUsed : (modCtx s n fx).spareUsed = s.spareUsed := rfl
@[simp] theorem modCtx_meFault : (modCtx s n fx).meFault = s.meFault := rfl
@[simp] theorem modCtx_seFault : (modCtx s n fx).seFault = s.seFault := rfl
@[simp] theorem modCtx_coreFault : (modCtx s n fx).coreFault = s.coreFault := rfl
@[simp] theorem modCtx_proofDone : (modCtx s n fx).proofDone = s.proofDone := rfl
@[simp] theorem modCtx_retired : (modCtx s n fx).retired = s.retired := rfl
@[simp] theorem modCtx_banksOff : (modCtx s n fx).banksOff = s.banksOff := rfl
@[simp] theorem modCtx_errBase : (modCtx s n fx).errBase = s.errBase := rfl
@[simp] theorem modCtx_nvmA : (modCtx s n fx).nvmA = s.nvmA := rfl
@[simp] theorem modCtx_nvmB : (modCtx s n fx).nvmB = s.nvmB := rfl
@[simp] theorem modCtx_zeroing : (modCtx s n fx).zeroing = s.zeroing := rfl
@[simp] theorem modCtx_tripped : (modCtx s n fx).tripped = s.tripped := rfl
@[simp] theorem modCtx_p10 : (modCtx s n fx).p10 = s.p10 := rfl
@[simp] theorem modCtx_p1m : (modCtx s n fx).p1m = s.p1m := rfl
@[simp] theorem modCtx_holdSince : (modCtx s n fx).holdSince = s.holdSince := rfl
@[simp] theorem modCtx_admits : (modCtx s n fx).admits = s.admits := rfl
@[simp] theorem modCtx_tick : (modCtx s n fx).tick = s.tick := rfl
@[simp] theorem modCtx_lastSync : (modCtx s n fx).lastSync = s.lastSync := rfl
@[simp] theorem modCtx_setup0 : (modCtx s n fx).setup0 = s.setup0 := rfl
@[simp] theorem modCtx_setup1 : (modCtx s n fx).setup1 = s.setup1 := rfl
@[simp] theorem modCtx_setupNew : (modCtx s n fx).setupNew = s.setupNew := rfl
@[simp] theorem modCtx_mboxes : (modCtx s n fx).mboxes = s.mboxes := rfl
@[simp] theorem modCtx_cached : (modCtx s n fx).cached = s.cached := rfl
@[simp] theorem modCtx_sent : (modCtx s n fx).sent = s.sent := rfl
@[simp] theorem modCtx_rxq : (modCtx s n fx).rxq = s.rxq := rfl
@[simp] theorem modCtx_reasm : (modCtx s n fx).reasm = s.reasm := rfl
@[simp] theorem modCtx_fovisPend : (modCtx s n fx).fovisPend = s.fovisPend := rfl
@[simp] theorem modCtx_bundle : (modCtx s n fx).bundle = s.bundle := rfl
@[simp] theorem modCtx_rings : (modCtx s n fx).rings = s.rings := rfl
@[simp] theorem modCtx_cxl : (modCtx s n fx).cxl = s.cxl := rfl
@[simp] theorem modCtx_trust : (modCtx s n fx).trust = s.trust := rfl

/-! ### modSnap -/

@[simp] theorem modSnap_pending : (modSnap s fs).pending = s.pending := rfl
@[simp] theorem modSnap_up : (modSnap s fs).up = s.up := rfl
@[simp] theorem modSnap_grade : (modSnap s fs).grade = s.grade := rfl
@[simp] theorem modSnap_timeFx : (modSnap s fs).timeFx = s.timeFx := rfl
@[simp] theorem modSnap_dict : (modSnap s fs).dict = s.dict := rfl
@[simp] theorem modSnap_grpMembers : (modSnap s fs).grpMembers = s.grpMembers := rfl
@[simp] theorem modSnap_grpValid : (modSnap s fs).grpValid = s.grpValid := rfl
@[simp] theorem modSnap_grpSize : (modSnap s fs).grpSize = s.grpSize := rfl
@[simp] theorem modSnap_bindings : (modSnap s fs).bindings = s.bindings := rfl
@[simp] theorem modSnap_ctxs : (modSnap s fs).ctxs = s.ctxs := rfl
@[simp] theorem modSnap_leaves : (modSnap s fs).leaves = s.leaves := rfl
@[simp] theorem modSnap_attached : (modSnap s fs).attached = s.attached := rfl
@[simp] theorem modSnap_cores : (modSnap s fs).cores = s.cores := rfl
@[simp] theorem modSnap_coreMap : (modSnap s fs).coreMap = s.coreMap := rfl
@[simp] theorem modSnap_collGroups : (modSnap s fs).collGroups = s.collGroups := rfl
@[simp] theorem modSnap_engines : (modSnap s fs).engines = s.engines := rfl
@[simp] theorem modSnap_seTaken : (modSnap s fs).seTaken = s.seTaken := rfl
@[simp] theorem modSnap_cqTaken : (modSnap s fs).cqTaken = s.cqTaken := rfl
@[simp] theorem modSnap_collAborts : (modSnap s fs).collAborts = s.collAborts := rfl
@[simp] theorem modSnap_hbNodes : (modSnap s fs).hbNodes = s.hbNodes := rfl
@[simp] theorem modSnap_mem : (modSnap s fs).mem = s.mem := rfl
@[simp] theorem modSnap_marks : (modSnap s fs).marks = s.marks := rfl
@[simp] theorem modSnap_ecc : (modSnap s fs).ecc = s.ecc := rfl
@[simp] theorem modSnap_parity : (modSnap s fs).parity = s.parity := rfl
@[simp] theorem modSnap_dieParity : (modSnap s fs).dieParity = s.dieParity := rfl
@[simp] theorem modSnap_bufErr : (modSnap s fs).bufErr = s.bufErr := rfl
@[simp] theorem modSnap_blocked : (modSnap s fs).blocked = s.blocked := rfl
@[simp] theorem modSnap_held : (modSnap s fs).held = s.held := rfl
@[simp] theorem modSnap_atomics : (modSnap s fs).atomics = s.atomics := rfl
@[simp] theorem modSnap_nmus : (modSnap s fs).nmus = s.nmus := rfl
@[simp] theorem modSnap_stackWork : (modSnap s fs).stackWork = s.stackWork := rfl
@[simp] theorem modSnap_ports : (modSnap s fs).ports = s.ports := rfl
@[simp] theorem modSnap_reqs : (modSnap s fs).reqs = s.reqs := rfl
@[simp] theorem modSnap_issueQ : (modSnap s fs).issueQ = s.issueQ := rfl
@[simp] theorem modSnap_tagNext : (modSnap s fs).tagNext = s.tagNext := rfl
@[simp] theorem modSnap_tagLog : (modSnap s fs).tagLog = s.tagLog := rfl
@[simp] theorem modSnap_outQ : (modSnap s fs).outQ = s.outQ := rfl
@[simp] theorem modSnap_stallAt : (modSnap s fs).stallAt = s.stallAt := rfl
@[simp] theorem modSnap_turn3 : (modSnap s fs).turn3 = s.turn3 := rfl
@[simp] theorem modSnap_replies : (modSnap s fs).replies = s.replies := rfl
@[simp] theorem modSnap_replay : (modSnap s fs).replay = s.replay := rfl
@[simp] theorem modSnap_ingress : (modSnap s fs).ingress = s.ingress := rfl
@[simp] theorem modSnap_dir : (modSnap s fs).dir = s.dir := rfl
@[simp] theorem modSnap_snoops : (modSnap s fs).snoops = s.snoops := rfl
@[simp] theorem modSnap_hot : (modSnap s fs).hot = s.hot := rfl
@[simp] theorem modSnap_sysTx : (modSnap s fs).sysTx = s.sysTx := rfl
@[simp] theorem modSnap_sysRx : (modSnap s fs).sysRx = s.sysRx := rfl
@[simp] theorem modSnap_lastIssue : (modSnap s fs).lastIssue = s.lastIssue := rfl
@[simp] theorem modSnap_relays : (modSnap s fs).relays = s.relays := rfl
@[simp] theorem modSnap_vinOk : (modSnap s fs).vinOk = s.vinOk := rfl
@[simp] theorem modSnap_rstLow : (modSnap s fs).rstLow = s.rstLow := rfl
@[simp] theorem modSnap_relayQ : (modSnap s fs).relayQ = s.relayQ := rfl
@[simp] theorem modSnap_landed : (modSnap s fs).landed = s.landed := rfl
@[simp] theorem modSnap_relayOps : (modSnap s fs).relayOps = s.relayOps := rfl
@[simp] theorem modSnap_netPort : (modSnap s fs).netPort = s.netPort := rfl
@[simp] theorem modSnap_neigh : (modSnap s fs).neigh = s.neigh := rfl
@[simp] theorem modSnap_netDup : (modSnap s fs).netDup = s.netDup := rfl
@[simp] theorem modSnap_colOut : (modSnap s fs).colOut = s.colOut := rfl
@[simp] theorem modSnap_epochAdv : (modSnap s fs).epochAdv = s.epochAdv := rfl
@[simp] theorem modSnap_trans0 : (modSnap s fs).trans0 = s.trans0 := rfl
@[simp] theorem modSnap_trans1 : (modSnap s fs).trans1 = s.trans1 := rfl
@[simp] theorem modSnap_hcache : (modSnap s fs).hcache = s.hcache := rfl
@[simp] theorem modSnap_freeCount : (modSnap s fs).freeCount = s.freeCount := rfl
@[simp] theorem modSnap_hresp : (modSnap s fs).hresp = s.hresp := rfl
@[simp] theorem modSnap_harts : (modSnap s fs).harts = s.harts := rfl
@[simp] theorem modSnap_hres : (modSnap s fs).hres = s.hres := rfl
@[simp] theorem modSnap_msip : (modSnap s fs).msip = s.msip := rfl
@[simp] theorem modSnap_mtip : (modSnap s fs).mtip = s.mtip := rfl
@[simp] theorem modSnap_irq17 : (modSnap s fs).irq17 = s.irq17 := rfl
@[simp] theorem modSnap_mtimecmp : (modSnap s fs).mtimecmp = s.mtimecmp := rfl
@[simp] theorem modSnap_apertures : (modSnap s fs).apertures = s.apertures := rfl
@[simp] theorem modSnap_released : (modSnap s fs).released = s.released := rfl
@[simp] theorem modSnap_notify : (modSnap s fs).notify = s.notify := rfl
@[simp] theorem modSnap_snap : (modSnap s fs).snap = fs s.snap := rfl
@[simp] theorem modSnap_hdieErr : (modSnap s fs).hdieErr = s.hdieErr := rfl
@[simp] theorem modSnap_hdieErrKeep : (modSnap s fs).hdieErrKeep = s.hdieErrKeep := rfl
@[simp] theorem modSnap_hdieErrAddr : (modSnap s fs).hdieErrAddr = s.hdieErrAddr := rfl
@[simp] theorem modSnap_doms : (modSnap s fs).doms = s.doms := rfl
@[simp] theorem modSnap_hold : (modSnap s fs).hold = s.hold := rfl
@[simp] theorem modSnap_errLog : (modSnap s fs).errLog = s.errLog := rfl
@[simp] theorem modSnap_errCount : (modSnap s fs).errCount = s.errCount := rfl
@[simp] theorem modSnap_proofs : (modSnap s fs).proofs = s.proofs := rfl
@[simp] theorem modSnap_cal : (modSnap s fs).cal = s.cal := rfl
@[simp] theorem modSnap_calSeq : (modSnap s fs).calSeq = s.calSeq := rfl
@[simp] theorem modSnap_calDone : (modSnap s fs).calDone = s.calDone := rfl
@[simp] theorem modSnap_powerCycle : (modSnap s fs).powerCycle = s.powerCycle := rfl
@[simp] theorem modSnap_powerOnBase : (modSnap s fs).powerOnBase = s.powerOnBase := rfl
@[simp] theorem modSnap_stepped : (modSnap s fs).stepped = s.stepped := rfl
@[simp] theorem modSnap_countsAt : (modSnap s fs).countsAt = s.countsAt := rfl
@[simp] theorem modSnap_p10s : (modSnap s fs).p10s = s.p10s := rfl
@[simp] theorem modSnap_occAt : (modSnap s fs).occAt = s.occAt := rfl
@[simp] theorem modSnap_mons : (modSnap s fs).mons = s.mons := rfl
@[simp] theorem modSnap_spareUsed : (modSnap s fs).spareUsed = s.spareUsed := rfl
@[simp] theorem modSnap_meFault : (modSnap s fs).meFault = s.meFault := rfl
@[simp] theorem modSnap_seFault : (modSnap s fs).seFault = s.seFault := rfl
@[simp] theorem modSnap_coreFault : (modSnap s fs).coreFault = s.coreFault := rfl
@[simp] theorem modSnap_proofDone : (modSnap s fs).proofDone = s.proofDone := rfl
@[simp] theorem modSnap_retired : (modSnap s fs).retired = s.retired := rfl
@[simp] theorem modSnap_banksOff : (modSnap s fs).banksOff = s.banksOff := rfl
@[simp] theorem modSnap_errBase : (modSnap s fs).errBase = s.errBase := rfl
@[simp] theorem modSnap_nvmA : (modSnap s fs).nvmA = s.nvmA := rfl
@[simp] theorem modSnap_nvmB : (modSnap s fs).nvmB = s.nvmB := rfl
@[simp] theorem modSnap_zeroing : (modSnap s fs).zeroing = s.zeroing := rfl
@[simp] theorem modSnap_tripped : (modSnap s fs).tripped = s.tripped := rfl
@[simp] theorem modSnap_p10 : (modSnap s fs).p10 = s.p10 := rfl
@[simp] theorem modSnap_p1m : (modSnap s fs).p1m = s.p1m := rfl
@[simp] theorem modSnap_holdSince : (modSnap s fs).holdSince = s.holdSince := rfl
@[simp] theorem modSnap_admits : (modSnap s fs).admits = s.admits := rfl
@[simp] theorem modSnap_tick : (modSnap s fs).tick = s.tick := rfl
@[simp] theorem modSnap_lastSync : (modSnap s fs).lastSync = s.lastSync := rfl
@[simp] theorem modSnap_setup0 : (modSnap s fs).setup0 = s.setup0 := rfl
@[simp] theorem modSnap_setup1 : (modSnap s fs).setup1 = s.setup1 := rfl
@[simp] theorem modSnap_setupNew : (modSnap s fs).setupNew = s.setupNew := rfl
@[simp] theorem modSnap_mboxes : (modSnap s fs).mboxes = s.mboxes := rfl
@[simp] theorem modSnap_cached : (modSnap s fs).cached = s.cached := rfl
@[simp] theorem modSnap_sent : (modSnap s fs).sent = s.sent := rfl
@[simp] theorem modSnap_rxq : (modSnap s fs).rxq = s.rxq := rfl
@[simp] theorem modSnap_reasm : (modSnap s fs).reasm = s.reasm := rfl
@[simp] theorem modSnap_fovisPend : (modSnap s fs).fovisPend = s.fovisPend := rfl
@[simp] theorem modSnap_bundle : (modSnap s fs).bundle = s.bundle := rfl
@[simp] theorem modSnap_rings : (modSnap s fs).rings = s.rings := rfl
@[simp] theorem modSnap_cxl : (modSnap s fs).cxl = s.cxl := rfl
@[simp] theorem modSnap_trust : (modSnap s fs).trust = s.trust := rfl

/-! ### Entries of the tables -/

/-- A core written is read back; another stays. -/
@[simp] theorem coreAt_putCore : coreAt (putCore s n c) n = c := by simp [coreAt, putCore, tblGet_tblSet_same]
theorem coreAt_putCore_other {j : Nat} (h : j ≠ n) : coreAt (putCore s n c) j = coreAt s j := by
  simp [coreAt, putCore, tblGet_tblSet_other _ _ _ _ _ h]
@[simp] theorem coreAt_modCore : coreAt (modCore s n fc) n = fc (coreAt s n) := by simp [modCore]
theorem coreAt_modCore_other {j : Nat} (h : j ≠ n) : coreAt (modCore s n fc) j = coreAt s j := coreAt_putCore_other s n _ h

/-- An entry of the dictionary written is read back; another stays. -/
@[simp] theorem dget_dset : dget (dset s n m) n = m := by simp [dget, dset, tblGet_tblSet_same]
theorem dget_dset_other {j : Nat} (h : j ≠ n) : dget (dset s n m) j = dget s j := by
  simp [dget, dset, tblGet_tblSet_other _ _ _ _ _ h]
@[simp] theorem dget_atTime (k : Nat) : dget (atTime s n) k = dget s k := rfl
@[simp] theorem dget_modCore (k : Nat) : dget (modCore s n fc) k = dget s k := rfl

/-- A counter goes up by `m`, saturating; no other entry changes. -/
theorem dget_dcount : dget (dcount s n m) n = if m = 0 then dget s n else satAdd (2 ^ 64 - 1) (dget s n) m := by
  unfold dcount; split <;> simp
theorem dget_dcount_other {j : Nat} (h : j ≠ n) : dget (dcount s n m) j = dget s j := by
  unfold dcount; split
  · rfl
  · exact dget_dset_other s n _ h

/-- A domain, a port, an engine and a context, changed and read back. -/
@[simp] theorem domAt_modDom : domAt (modDom s n fd) n = fd (domAt s n) := by simp [domAt, modDom, tblMod]
theorem domAt_modDom_other {j : Nat} (h : j ≠ n) : domAt (modDom s n fd) j = domAt s j := by
  simp [domAt, modDom, tblMod, tblGet_tblSet_other _ _ _ _ _ h]
@[simp] theorem portAt_modPort : portAt (modPort s n fp) n = fp (portAt s n) := by simp [portAt, modPort, tblMod]
theorem portAt_modPort_other {j : Nat} (h : j ≠ n) : portAt (modPort s n fp) j = portAt s j := by
  simp [portAt, modPort, tblMod, tblGet_tblSet_other _ _ _ _ _ h]
@[simp] theorem engineAt_modEngine : engineAt (modEngine s n fe) n = fe (engineAt s n) := by simp [engineAt, modEngine, tblMod]
theorem engineAt_modEngine_other {j : Nat} (h : j ≠ n) : engineAt (modEngine s n fe) j = engineAt s j := by
  simp [engineAt, modEngine, tblMod, tblGet_tblSet_other _ _ _ _ _ h]
@[simp] theorem ctxAt_modCtx : ctxAt (modCtx s n fx) n = fx (ctxAt s n) := by simp [ctxAt, modCtx, tblMod]
theorem ctxAt_modCtx_other {j : Nat} (h : j ≠ n) : ctxAt (modCtx s n fx) j = ctxAt s j := by
  simp [ctxAt, modCtx, tblMod, tblGet_tblSet_other _ _ _ _ _ h]

/-- A core, a tile of stack memory and the store of a core keep the canonical form of their tables. -/
theorem putCore_wf (h : tblWf coreDflt s.cores = true) : tblWf coreDflt (putCore s n c).cores = true := tblSet_wf _ _ _ _ h
theorem dset_wf (h : tblWf dictDflt s.dict = true) : tblWf dictDflt (dset s n m).dict = true := tblSet_wf _ _ _ _ h

end Sys2Proof.Laws
end

