-- ==== Sys2Proof/Laws/Step.lean ====
section
/-! SUPPORT. What the shared frames of the meanings do: `whenUp`, the CC row, the engine row. -/
namespace Sys2Proof.Laws
open Sys2Proof Machine Config Safety

/-- Out of reset a meaning answers its effect. -/
theorem whenUp_up {s : State} (h : s.up = true) (t : State) : whenUp s t = .next (keep s t) := by simp [whenUp, h]

/-- In reset it answers the state as it was. -/
theorem whenUp_off {s : State} (h : s.up = false) (t : State) : whenUp s t = .next s := by simp [whenUp, h]

/-- A meaning's next state keeps the queue, the reset, the grade and the trip. -/
theorem whenUp_keeps {s t u : State} (h : whenUp s t = .next u) :
    u.pending = s.pending ∧ u.grade = s.grade ∧ u.up = s.up ∧ u.tripped = s.tripped := by
  cases hu : s.up <;> simp [whenUp, hu] at h <;> subst h <;> simp [keep, hu]

/-- The CC row at an instruction whose word is its own: it is skipped, or has no effect, or acts. -/
theorem ccRow_place {mine : Nat → Bool} {s : State} {x : CcX} (h : CcPlace mine s x) (act : CcX → State → State × Bool) :
    ccRow x.n mine act s =
      (let t := coreInternal s x.k
       if encIllegal x.w then ccPass x (ccSkip x t stIllegal)
       else if !predHolds (coreAt s x.k).regs x.w then ccPass x t
       else if (act x t).2 then ccDone x (act x t).1 else (act x t).1) := by
  obtain ⟨⟨-, hk⟩, hr, hf, ho, hw, hm⟩ := h
  obtain ⟨n, k, r, w, off⟩ := x
  dsimp only at *
  subst ho; subst hw
  simp [ccRow, hk, hr, hf, hm]

/-- The CC row at an instruction that executes. -/
theorem ccRow_at {mine : Nat → Bool} {s : State} {x : CcX} (h : CcAt mine s x) (act : CcX → State → State × Bool) :
    ccRow x.n mine act s =
      (let t := coreInternal s x.k
       if (act x t).2 then ccDone x (act x t).1 else (act x t).1) := by
  rw [ccRow_place h.1, h.2.2.1, h.2.2.2]; rfl

/-- A row whose own words are more than the statement's: the words that the statement names are enough. -/
theorem ccAt_mono {m m' : Nat → Bool} {s : State} {x : CcX} (h : CcAt m s x) (hm : m' x.w = true) : CcAt m' s x := by
  obtain ⟨⟨a, b, c, d, e, -⟩, -, f, g⟩ := h
  exact ⟨⟨a, b, c, d, e, by simp [hm]⟩, hm, f, g⟩

/-- A register row that executes. -/
theorem ccReg_at {mine : Nat → Bool} {s : State} {x : CcX} (h : CcAt mine s x) (f : Nat → CcRegs → CcRegs) :
    ccReg x.n mine f s = ccDone x (ccRegs x (coreInternal s x.k) (f x.w)) := by
  unfold ccReg; rw [ccRow_at h]; rfl

/-- An engine row at a head that its engine may take. -/
theorem engineRow_at {q : QueueId} {mine : Cmd → Bool} {busy : State → Nat → Core → Bool} {s : State} {e : Ex}
    (h : HeadAt q mine busy s e) (run : Ex → State → State) {mine' : Cmd → Bool} (hm : mine' e.x = true) :
    engineRow e.n q mine' busy run s = run e (taken s e) := by
  obtain ⟨⟨-, hk⟩, hq, hh, hr, hv, hb, -⟩ := h
  obtain ⟨n, k, q', x⟩ := e
  dsimp only at *
  subst hq
  cases hl : queueOf (coreAt s k) q' with
  | nil => simp [hl] at hh
  | cons y t =>
    simp [hl] at hh
    subst hh
    simp [engineRow, hk, hl, hr, hv, hb, hm, taken]

end Sys2Proof.Laws
end

