-- ==== Sys2Proof/WellFormed.lean ====
section
/-! DEFINITION. Commands whose operands lie in the ranges that the spec gives them. -/
namespace Sys2Proof
namespace WellFormed

/-- A number below its bound. -/
def below (b v : Nat) : Bool := decide (v < b)

/-- A list of the length its field has. -/
def sized {α : Type} (n : Nat) (l : List α) : Bool := l.length == n

/-- A logical core number: 1,280 on each of eight A-dies (R38). -/
def coreNo (n : Nat) : Bool := below 10240 n

/-- Flits carry whole 32-byte beats, at most four lines of payload (R342). -/
def flitOk (f : Flit) : Bool := f.payload.length % 8 == 0 && below 513 f.payload.length && below 4 f.co

/-- A mailbox that exists (R514, R515), or a datagram, or a fragment of one, of the field network (R510, R511). -/
def srcOk : FovisSrc → Bool
  | .hdie m h => below 8 m && h.all (below 64)
  | .cxl m => below 2 m
  | .net a p d dp sum pdu => below (2 ^ 128) a && below 65536 p && below (2 ^ 128) d && below 65536 dp && below 65536 sum && below 8193 pdu.length
  | .frag a d i o _ bs => below (2 ^ 128) a && below (2 ^ 128) d && below (2 ^ 32) i && below 65536 o && below 8193 bs.length

/-- A leaf: weights or inputs, a tile offset, and a SHA-384 digest (R427). -/
def leafOk (l : LeafMsg) : Bool := below 2 l.cls && below (2 ^ 32) l.off && sized 48 l.digest && l.ended.all (below 256)

/-- A unit that holds flags (R90, R407). -/
def flagUnitOk : FlagUnit → Bool
  | .cc n => coreNo n
  | .me n => coreNo n
  | .ve n => coreNo n
  | .se e => below 64 e
  | .nmu st => below 16 st
  | .coll n => coreNo n

/-- A unit that holds a capture or a report (R95, R331, R407, R539). -/
def capUnitOk : CapUnit → Bool
  | .cc n => coreNo n
  | .me n => coreNo n
  | .ve n => coreNo n
  | .se e => below 64 e
  | .nmu st => below 16 st
  | .de n => coreNo n
  | .coll n => coreNo n
  | .hdie => true

/-- Values a host programs into a decoder: ways 1, 2, 4 or 8, and a granularity of 256 bytes to 16 KiB (R547). -/
def hdmOk (d : HdmDecoder) : Bool := [1, 2, 4, 8].contains d.ways && [256, 512, 1024, 2048, 4096, 8192, 16384].contains d.gran

/-- A CXL.mem write carries 64 bytes and their enables (R547). -/
def accessOk : CxlAccess → Bool
  | .read => true
  | .readOwn => true
  | .write d en _ => sized 64 d && sized 64 en

/-- Lanes of a port, eight and a spare (R333), and a peer's package and port (R335). -/
def eyesOk (o : PortEyes) : Bool :=
  o.rxFailed.all (below 9) && o.txFailed.all (below 9) && match o.peer with
  | none => true
  | some p => below (2 ^ 18) p.1 && below 64 p.2

/-- The flit that a row meets, and the port it arrives on. -/
def metOk : Option (Nat × Flit) → Bool
  | none => true
  | some p => below 64 p.1 && flitOk p.2

/-- Lane groups and channels of a stack (R289). -/
def stackEyesOk (o : StackEyes) : Bool := o.failedLanes.all (fun p => below 64 p.1) && o.failedCmd.all (below 32)

/-- A partial has a fingerprint of 16 bytes, five counts and three class states (R430). -/
def partialOk (p : Partial) : Bool := sized 16 p.fingerprint && sized 5 p.counts && sized 3 p.states

/-- Readings name domains, and hold U16 samples (R444, R458). -/
def readingOk (r : Reading) : Bool := r.power.all (fun p => below 512 p.1) && r.temp.all (fun p => below 512 p.1 && below 65536 p.2)

/-- A value of the entry that is written (R483). -/
def monWriteOk : MonWrite → Bool
  | .source v => below (2 ^ 32) v
  | .window v => below (2 ^ 64) v
  | .restart => true

/-- A path whose DE, if any, exists. -/
def pathOk : RegPath → Bool
  | .de n => coreNo n
  | .hdie => true
  | .cxl => true
  | .fabric => true
  | .phys => true

/-- Sizes of a hart's access (R536). -/
def sizeOk (n : Nat) : Bool := [1, 2, 4, 8].contains n

end WellFormed

open WellFormed in
/-- The operands of a command lie in the ranges the spec gives them. A meaning does not rest on it: outside these ranges a command names
nothing, and changes nothing. -/
def wellFormed : Instr → Bool
  | .powerUpResetRelease pkgpos brdpos => below 4 pkgpos && below 16 brdpos
  | .vin48UnderVoltage _ => true
  | .pkgrstNAssert _ => true
  | .cxlPerstNReset => true
  | .cxlFunctionLevelReset => true
  | .coreStoreZeroingDone => true
  | .stackTrainingDone st o => below 16 st && stackEyesOk o
  | .stackZeroingDone st => below 16 st
  | .lifetimeLoadDone => true
  | .portTrainingDone port o => below 64 port && eyesOk o
  | .jobPhaseWrite v => below 256 v
  | .teardownDrainComplete at_ => below (2 ^ 64) at_
  | .addi n => coreNo n
  | .andi n => coreNo n
  | .ori n => coreNo n
  | .xori n => coreNo n
  | .muli n => coreNo n
  | .mini n => coreNo n
  | .maxi n => coreNo n
  | .minui n => coreNo n
  | .maxui n => coreNo n
  | .subi n => coreNo n
  | .ldimm n => coreNo n
  | .add n => coreNo n
  | .sub n => coreNo n
  | .and n => coreNo n
  | .or n => coreNo n
  | .xor n => coreNo n
  | .sll n => coreNo n
  | .srl n => coreNo n
  | .sra n => coreNo n
  | .mul n => coreNo n
  | .mulhu n => coreNo n
  | .min n => coreNo n
  | .max n => coreNo n
  | .minu n => coreNo n
  | .maxu n => coreNo n
  | .slli n => coreNo n
  | .srli n => coreNo n
  | .srai n => coreNo n
  | .cmpeq n => coreNo n
  | .cmpne n => coreNo n
  | .cmplt n => coreNo n
  | .cmpltu n => coreNo n
  | .cmpge n => coreNo n
  | .cmpgeu n => coreNo n
  | .fcmpeq n => coreNo n
  | .fcmplt n => coreNo n
  | .fcmple n => coreNo n
  | .fcmpgt n => coreNo n
  | .fcmpun n => coreNo n
  | .pand n => coreNo n
  | .por n => coreNo n
  | .pxor n => coreNo n
  | .pnot n => coreNo n
  | .fadd n => coreNo n
  | .fsub n => coreNo n
  | .fmul n => coreNo n
  | .fdiv n => coreNo n
  | .fsqrt n => coreNo n
  | .fma n => coreNo n
  | .fmin n => coreNo n
  | .fmax n => coreNo n
  | .fabs n => coreNo n
  | .fneg n => coreNo n
  | .fcvtFp64ToSigned n => coreNo n
  | .fcvtFp64ToUnsigned n => coreNo n
  | .fcvtSignedToFp64 n => coreNo n
  | .fcvtUnsignedToFp64 n => coreNo n
  | .fmvg n => coreNo n
  | .gmvf n => coreNo n
  | .fmvs n => coreNo n
  | .wadd n => coreNo n
  | .wsub n => coreNo n
  | .wand n => coreNo n
  | .wor n => coreNo n
  | .wxor n => coreNo n
  | .wsll n => coreNo n
  | .wsrl n => coreNo n
  | .wsra n => coreNo n
  | .wmul n => coreNo n
  | .wmulhu n => coreNo n
  | .wmin n => coreNo n
  | .wmax n => coreNo n
  | .wminu n => coreNo n
  | .wmaxu n => coreNo n
  | .wfadd n => coreNo n
  | .wfsub n => coreNo n
  | .wfmul n => coreNo n
  | .wfdiv n => coreNo n
  | .wfsqrt n => coreNo n
  | .wfmin n => coreNo n
  | .wfmax n => coreNo n
  | .wfabs n => coreNo n
  | .wfneg n => coreNo n
  | .wfcvt n => coreNo n
  | .wfma n => coreNo n
  | .wbcast n => coreNo n
  | .wgather n => coreNo n
  | .wscatter n => coreNo n
  | .wredadd n => coreNo n
  | .wredmax n => coreNo n
  | .setsvl n => coreNo n
  | .ld n => coreNo n
  | .st n => coreNo n
  | .fld n => coreNo n
  | .fst n => coreNo n
  | .wld n => coreNo n
  | .wst n => coreNo n
  | .movs n => coreNo n
  | .push n => coreNo n
  | .post n => coreNo n
  | .wait n => coreNo n
  | .tokenStallRelease n _ at_ => coreNo n && below (2 ^ 64) at_
  | .select n => coreNo n
  | .setrpt n => coreNo n
  | .launchAdmission n => coreNo n
  | .formeBoundary n => coreNo n
  | .logClear n _ _ => coreNo n
  | .flagClearWrite u _ _ => flagUnitOk u
  | .captureRelease u _ _ => capUnitOk u
  | .impositionGroupValidSet g _ => below 4096 g
  | .registerWrite p _ _ => pathOk p
  | .voidEntry n _ => coreNo n
  | .noop n _ => coreNo n
  | .mma n => coreNo n
  | .mewma n => coreNo n
  | .gatherSegmentTake n => coreNo n
  | .galleySlotReserve n => coreNo n
  | .galleyStallRelease n at_ => coreNo n && below (2 ^ 64) at_
  | .galleyPhantomSlot n at_ => coreNo n && below (2 ^ 64) at_
  | .vadd n => coreNo n
  | .vsub n => coreNo n
  | .vmul n => coreNo n
  | .vdiv n => coreNo n
  | .vfma n => coreNo n
  | .vmin n => coreNo n
  | .vmax n => coreNo n
  | .vclamp n => coreNo n
  | .vabs n => coreNo n
  | .vneg n => coreNo n
  | .vsqrt n => coreNo n
  | .vcvt n => coreNo n
  | .vlut n => coreNo n
  | .vlutload n => coreNo n
  | .vsmacc n => coreNo n
  | .vsnorm n => coreNo n
  | .vredSum n => coreNo n
  | .vredMax n => coreNo n
  | .vredMin n => coreNo n
  | .vredLargestMagnitude n => coreNo n
  | .vcmpEq n => coreNo n
  | .vcmpNe n => coreNo n
  | .vcmpLt n => coreNo n
  | .vcmpLe n => coreNo n
  | .vcmpGt n => coreNo n
  | .vcmpGe n => coreNo n
  | .vcmpUn n => coreNo n
  | .vsel n => coreNo n
  | .vperm n => coreNo n
  | .vgather n => coreNo n
  | .vscatter n => coreNo n
  | .vcopy n => coreNo n
  | .range e _ => below 64 e
  | .lu e _ => below 64 e
  | .chol e _ => below 64 e
  | .ldlt e _ => below 64 e
  | .tridiag e _ => below 64 e
  | .banded e _ => below 64 e
  | .trsv e _ => below 64 e
  | .cg e _ => below 64 e
  | .gmres e _ => below 64 e
  | .solverReductionReturn e _ _ at_ => below 64 e && metOk at_.met && below (2 ^ 64) at_.time
  | .copy n => coreNo n
  | .copyT n => coreNo n
  | .nmuReduceAdd n => coreNo n
  | .nmuScatterAdd n => coreNo n
  | .nmuGather n => coreNo n
  | .nmuTransposition n => coreNo n
  | .nmuConversion n => coreNo n
  | .chain n => coreNo n
  | .fence n => coreNo n
  | .dqAtomicIadd n => coreNo n
  | .dqAtomicFadd n => coreNo n
  | .dqAtomicMin n => coreNo n
  | .dqAtomicMax n => coreNo n
  | .dqAtomicSwap n => coreNo n
  | .dqAtomicCas n => coreNo n
  | .deDescriptorComplete n => coreNo n
  | .deStop n _ => coreNo n
  | .deStopped n => coreNo n
  | .barrier n => coreNo n
  | .hbreduceIntegerSum n => coreNo n
  | .hbreduceMinimum n => coreNo n
  | .hbreduceMaximum n => coreNo n
  | .hbreduceAnd n => coreNo n
  | .hbreduceOr n => coreNo n
  | .hbreduceXor n => coreNo n
  | .hbreduceFx192Sum n => coreNo n
  | .hbreduceExactFp64Sum n => coreNo n
  | .allgather n => coreNo n
  | .reduceScatter n => coreNo n
  | .allreduceRing n => coreNo n
  | .allreduceTree n => coreNo n
  | .broadcast n => coreNo n
  | .alltoall n => coreNo n
  | .alltoallv n => coreNo n
  | .stagingReserved n at_ => coreNo n && below (2 ^ 64) at_
  | .collEntryRoundResult g _ => below 256 g
  | .collComplete n at_ => coreNo n && metOk at_.met && below (2 ^ 64) at_.time
  | .collTimeoutExpiry n at_ => coreNo n && metOk at_.met && below (2 ^ 64) at_.time
  | .hbUp port f => below 64 port && flitOk f
  | .hbDown port f => below 64 port && flitOk f
  | .hbAbort port f at_ => below 64 port && flitOk f && below (2 ^ 64) at_
  | .segDone port f => below 64 port && flitOk f
  | .collGroupValidSet g _ => below 256 g
  | .setPoison n tile => coreNo n && below 128 tile
  | .clearPoison n tile _ => coreNo n && below 128 tile
  | .scrubRead _ => true
  | .stackRetrain _ => true
  | .stackClear _ => true
  | .stackClearDone st => below 16 st
  | .stackRetrainDone st o => below 16 st && stackEyesOk o
  | .nmuAtomicApply st => below 16 st
  | .cowHeldWriteRelease => true
  | .snapshotPartCopied st _ => below 16 st
  | .read port f => below 64 port && flitOk f
  | .write port f => below 64 port && flitOk f
  | .writeMask port f => below 64 port && flitOk f
  | .atomicIadd port f => below 64 port && flitOk f
  | .atomicFadd port f => below 64 port && flitOk f
  | .atomicMin port f => below 64 port && flitOk f
  | .atomicMax port f => below 64 port && flitOk f
  | .atomicSwap port f => below 64 port && flitOk f
  | .atomicCas port f => below 64 port && flitOk f
  | .readResp port f => below 64 port && flitOk f
  | .writeAck port f => below 64 port && flitOk f
  | .atomicResp port f => below 64 port && flitOk f
  | .snpInv port f => below 64 port && flitOk f
  | .snpRd port f => below 64 port && flitOk f
  | .snpAck port f => below 64 port && flitOk f
  | .snpData port f => below 64 port && flitOk f
  | .sysAck port f => below 64 port && flitOk f
  | .linkFlitReceiveFail port lseq => below 64 port && below (2 ^ 16) lseq
  | .linkRetryResend port => below 64 port
  | .portRetrain _ => true
  | .e2eRetry fd tag at_ => below 2 fd && below (2 ^ 24) tag && below (2 ^ 64) at_
  | .replyTimeoutExpiry fd tag at_ => below 2 fd && below (2 ^ 24) tag && below (2 ^ 64) at_
  | .replayEntryExpiry fd src tag at_ => below 2 fd && below (2 ^ 18) src && below (2 ^ 24) tag && below (2 ^ 64) at_
  | .hotLineCool fd _ _ at_ => below 2 fd && below (2 ^ 64) at_
  | .sysResend dst seq at_ => below (2 ^ 18) dst && below (2 ^ 24) seq && below (2 ^ 64) at_
  | .translationEntryWrite l _ => below 16384 l
  | .determinismScopeWrite v => below 256 v
  | .contextOpen c => below 16 c
  | .contextClose c => below 16 c
  | .contextAbandon c => below 16 c
  | .contextDrained c => below 16 c
  | .contextSeal c _ => below 16 c
  | .contextRecordForm c parts => below 16 c && parts.all partialOk
  | .contextRecordReceive c rec => below 16 c && sized 256 rec
  | .closeRootTimeout c at_ parts => below 16 c && below (2 ^ 64) at_ && parts.all partialOk
  | .closePackageTimeout c at_ => below 16 c && below (2 ^ 64) at_
  | .leafArrival c l => below 16 c && leafOk l
  | .attach a _ => below 4096 a
  | .sensorReading r at_ => readingOk r && below (2 ^ 64) at_
  | .budgetDecision => true
  | .vstepSettled dom at_ => below 512 dom && below (2 ^ 64) at_
  | .thermalEmergencyStep dom at_ => below 512 dom && below (2 ^ 64) at_
  | .thermalEmergencyEnd dom at_ => below 512 dom && below (2 ^ 64) at_
  | .domainRetainEntry dom at_ => below 512 dom && below (2 ^ 64) at_
  | .domainWake dom => below 512 dom
  | .hostDomainsOffWrite _ hart => hart.all (below 64)
  | .timeSyncFrame _ at_ => below (2 ^ 64) at_
  | .timeHoldoverEntry at_ => below (2 ^ 64) at_
  | .stackBankProofPass st _ _ => below 16 st
  | .coreStoreMacroProofPass n macroNo _ => coreNo n && below 16 macroNo
  | .coreProofPass n _ => coreNo n
  | .portProofPass port _ => below 64 port
  | .fdieMacroProofPass fd macroNo _ => below 2 fd && below 1280 macroNo
  | .hdieWayProofPass half way _ => below 66 half && below 16 way
  | .proofPassComplete _ => true
  | .coreSparing n _ => coreNo n
  | .monitorWindowLatch m at_ => below 512 m && below (2 ^ 64) at_
  | .monitorRestart m w => below 512 m && monWriteOk w
  | .lifetimeCommit at_ => below (2 ^ 64) at_
  | .calendarCommit at_ => below (2 ^ 64) at_
  | .shutdown v at_ => below 2 v && below (2 ^ 64) at_
  | .take => true
  | .snapshotLocalCopyDone => true
  | .stripeLinesDone => true
  | .snapConfirmDecision _ => true
  | .snapTimeoutExpiry at_ => below (2 ^ 64) at_
  | .restore => true
  | .restoreRemoteDone => true
  | .restoreComplete => true
  | .epochAdvance _ => true
  | .jobEpochWrite _ => true
  | .setupSave v => below 2 v
  | .fovisRead src at_ => srcOk src && below (2 ^ 64) at_
  | .fovisWrite src at_ => srcOk src && below (2 ^ 64) at_
  | .describe src at_ => srcOk src && below (2 ^ 64) at_
  | .discover src at_ => srcOk src && below (2 ^ 64) at_
  | .bundleOpen src at_ => srcOk src && below (2 ^ 64) at_
  | .bundleData src at_ => srcOk src && below (2 ^ 64) at_
  | .bundleApply src at_ => srcOk src && below (2 ^ 64) at_
  | .bundleVerifyDone _ _ => true
  | .bundleCancel src at_ => srcOk src && below (2 ^ 64) at_
  | .bundleOwnerTimeout at_ => below (2 ^ 64) at_
  | .replyCacheExpiry at_ => below (2 ^ 64) at_
  | .neighbourSolicitation src target => below (2 ^ 128) src && below (2 ^ 128) target
  | .icmpv6EchoRequest src dst _ => below (2 ^ 128) src && below (2 ^ 128) dst
  | .hartLoad h _ f => below 64 h && sizeOk f.size
  | .hartStore h _ size _ => below 64 h && sizeOk size
  | .hartAmo h f _ _ => below 64 h && (f.size == 4 || f.size == 8)
  | .hartFence h _ => below 64 h
  | .hartAsyncError h _ _ => below 64 h
  | .machineTimerInterrupt h at_ => below 64 h && below (2 ^ 64) at_
  | .hartRelease _ => true
  | .ringEnable r _ => below 16384 r
  | .ringDisable r => below 16384 r
  | .ringProducerAdvance r _ => below 16384 r
  | .ringRecordTake r => below 16384 r
  | .ringRecordDelivery r => below 16384 r
  | .ringCompletionEntry r => below 16384 r
  | .hdmDecoderCommit k d => below 2 k && hdmOk d
  | .cxlMemAccess _ acc => accessOk acc
  | .cxlCacheHostSnoop _ _ => true
  | .doeSpdmRequest _ => true
  | .bootStart v => below 2 v
  | .bootVerifyDone _ _ => true
  | .hdieReset v => below 2 v
  | .tableSetLoad v => below 2 v
  | .tableSetVerifyDone _ _ => true
  | .attestNonce nonce => sized 32 nonce
  | .attestReportDone => true
  | .colophonSign a => below 4096 a
  | .colophonSignDone => true
  | .monitorOccupancySample at_ => below (2 ^ 64) at_

end Sys2Proof
end

