-- ==== Sys2Proof/Tests/Slice0.lean ====
section
/-! SUPPORT. Tests: ill-formed commands refused, a witness for the hypotheses of each statement, and single steps whose results come
from the tables and worked examples of the spec. -/
namespace Sys2Proof.Tests
open Sys2Proof Config Machine Safety
set_option maxRecDepth 100000
-- One theorem after another: a thread for each would take too much memory.
set_option Elab.async false

/-! ### WellFormed -/

/-- A flit with no payload, one with a payload of nine bytes, which no flit has, and a leaf. -/
def flit0 : Flit := { w0 := 0, w1 := 0, w2 := 0, payload := [] }
def flit9 : Flit := { flit0 with payload := List.replicate 9 0 }
def leaf0 : LeafMsg := ⟨0, 0, 0, List.replicate 48 0, false, none, 0⟩

/-- Each check refuses an operand outside its range. -/
theorem test_ill_formed : ∀ i ∈ ([.powerUpResetRelease 4 0, .powerUpResetRelease 0 16, .stackTrainingDone 16 ⟨[], []⟩,
    .stackTrainingDone 0 ⟨[(64, 0)], []⟩, .stackTrainingDone 0 ⟨[], [32]⟩, .stackZeroingDone 16, .jobPhaseWrite 256,
    .teardownDrainComplete (2 ^ 64), .addi 10240, .push 10240, .tokenStallRelease 0 .cc (2 ^ 64), .flagClearWrite (.se 64) 0 0,
    .flagClearWrite (.nmu 16) 0 0, .flagClearWrite (.coll 10240) 0 0, .captureRelease (.de 10240) 0 none,
    .impositionGroupValidSet 4096 0, .registerWrite (.de 10240) 0 0, .mma 10240, .vadd 10240, .range 64 [], .copy 10240, .barrier 10240,
    .hbUp 64 flit0, .hbUp 0 flit9, .collGroupValidSet 256 0, .setPoison 0 128, .clearPoison 0 128 false, .stackClearDone 16,
    .snapshotPartCopied 16 0, .read 64 flit0, .write 0 flit9, .linkFlitReceiveFail 0 (2 ^ 16), .linkRetryResend 64, .e2eRetry 2 0 0,
    .e2eRetry 0 (2 ^ 24) 0, .replayEntryExpiry 0 (2 ^ 18) 0 0, .sysResend (2 ^ 18) 0 0, .translationEntryWrite 16384 0,
    .determinismScopeWrite 256, .contextOpen 16, .contextRecordReceive 0 [], .leafArrival 0 { leaf0 with cls := 2 },
    .leafArrival 0 { leaf0 with off := 2 ^ 32 }, .leafArrival 0 { leaf0 with digest := [] }, .attach 4096 0, .domainWake 512,
    .portProofPass 64 false, .fdieMacroProofPass 2 0 false, .hdieWayProofPass 66 0 false, .monitorRestart 512 .restart,
    .monitorRestart 0 (.source (2 ^ 32)), .shutdown 2 0, .setupSave 2, .fovisRead (.hdie 8 none) 0, .fovisRead (.cxl 2) 0,
    .fovisRead (.net 0 0 0 0 65536 []) 0, .fovisRead (.frag 0 0 0 65536 false []) 0, .neighbourSolicitation (2 ^ 128) 0, .hartLoad 64 0 ⟨8, false⟩,
    .hartLoad 0 0 ⟨3, false⟩, .collComplete 0 ⟨some (64, flit0), 0⟩, .solverReductionReturn 0 [] 0 ⟨none, 2 ^ 64⟩,
    .ringEnable 16384 0, .hdmDecoderCommit 2 ⟨0, 0, 1, 256, 0⟩, .hdmDecoderCommit 0 ⟨0, 0, 3, 256, 0⟩,
    .hdmDecoderCommit 0 ⟨0, 0, 1, 255, 0⟩, .cxlMemAccess 0 (.write [] [] false), .bootStart 2, .attestNonce [], .colophonSign 4096] :
    List Instr), wellFormed i = false := by decide +kernel

/-- And accepts those within it. -/
theorem test_well_formed : ∀ i ∈ ([.powerUpResetRelease 3 15, .addi 10239, .registerWrite .hdie 0 0, .hbUp 63 flit0, .leafArrival 15 leaf0,
    .hartLoad 63 0 ⟨8, true⟩, .fovisRead (.net 0 0 0 0 65535 []) 0, .attestNonce (List.replicate 32 0)] : List Instr), wellFormed i = true := by decide +kernel

/-! ### The control core -/

/-- Words of R140–R147, field by field. -/
def w11 (minor low : Nat) : Nat := 3 * 2 ^ 26 + minor * 2 ^ 20 + low
def tri (minor d a b rm w : Nat) : Nat := w11 minor (d * 2 ^ 15 + a * 2 ^ 10 + b * 2 ^ 5 + rm * 4 + w)
def w10 (iop d imm : Nat) : Nat := 2 * 2 ^ 26 + iop * 2 ^ 21 + d * 2 ^ 16 + imm
def w01 (sub x g ofs : Nat) : Nat := 2 ^ 26 + sub * 2 ^ 23 + x * 2 ^ 18 + g * 2 ^ 13 + ofs
def w00 (d a imm : Nat) : Nat := d * 2 ^ 21 + a * 2 ^ 16 + imm

/-- A word of each row, in the order of the tables of `Safety`. -/
def ccWords : List Nat :=
  [w00 1 2 0xFFFF] ++ (List.range 9).map (fun i => w10 i 1 5) ++ [w10 0x0F 1 5] ++
  (List.range 14).map (fun m => tri m 1 2 3 0 0) ++ (List.range 14).map (fun m => tri m 1 2 3 0 1) ++
  [w11 0x0E (12 * 2 ^ 15 + 11 * 2 ^ 10 + 16 * 16), w11 0x0F (2 ^ 15 + 63 * 16), w11 0x10 (2 ^ 15 + 16)] ++
  (List.range 6).map (fun i => tri (0x11 + i) 7 1 2 0 0) ++ (List.range 5).map (fun i => tri (0x17 + i) 2 1 2 0 0) ++
  (List.range 3).map (fun i => tri (0x1C + i) 1 2 3 0 0) ++ [tri 0x1F 1 2 0 0 0] ++
  [tri 0x20 1 2 3 4 0, tri 0x21 1 2 3 0 0, tri 0x22 1 2 3 0 0, tri 0x23 1 2 3 0 0, tri 0x24 1 2 0 0 0, tri 0x25 1 2 3 0 0,
   tri 0x26 1 2 3 0 0, tri 0x27 1 2 0 0 0, tri 0x28 1 2 0 0 0] ++
  [tri 0x20 1 2 3 4 1, tri 0x21 1 2 3 0 1, tri 0x22 1 2 3 0 1, tri 0x23 1 2 3 0 1, tri 0x24 1 2 0 0 1, tri 0x25 1 2 3 0 1,
   tri 0x26 1 2 3 0 1, tri 0x27 1 2 0 0 1, tri 0x28 1 2 0 0 1] ++
  (List.range 4).map (fun k => tri 0x29 1 2 k 0 0) ++
  [tri 0x29 1 2 3 0 1, w01 0 1 2 (3 * 256 + 4 * 8), w01 1 1 2 (3 * 256 + 4 * 8), tri 0x2A 1 2 0 0 0, tri 0x2B 1 2 0 0 0,
   tri 0x2C 1 3 0 0 0, tri 0x2D 1 2 0 0 0, tri 0x2E 1 2 3 0 0, tri 0x30 1 2 0 4 0, tri 0x31 1 2 0 0 0, w11 0x32 8, w01 2 1 2 8,
   w01 4 1 2 8, w01 6 1 2 8, tri 0x33 1 8 0 0 0, w11 0x34 (2 * 2 ^ 17 + 13 * 16), w11 0x35 (7 * 2 ^ 15 + 1),
   w11 0x36 (31 * 2 ^ 15 + 255), w11 0x37 3, tri 0x38 0 1 0 0 0] ++
  [w01 3 1 2 8, w01 5 1 2 8, w01 7 1 2 8, tri 0x2F 1 2 3 0 0]

/-- A package out of reset whose logical core 0 is `c`. -/
def withCore (c : Core) : State := { State.reset with zeroing := false, cores := [(0, c)] }

/-- A launch in its first iteration at the first instruction of a forme at the start of the forme store. -/
def run0 : Run := { count := 1, ninsn := 1, size := 1 }

/-- Its core, with registers `r`, at the word `w`. -/
def ccState (w : Nat) (r : CcRegs := { svl := 8 }) : State :=
  withCore { run := some run0, forme := memWrite [] 0x40 (leBytes 4 w), regs := r }

def ccAtX (w : Nat) : CcX := ⟨0, 0, run0, w, 0x40⟩

/-- Every row of the CC executes at one of its words. -/
theorem witness_CcAt : (ccTable ++ ccStores).length = ccWords.length ∧
    ∀ p ∈ (ccTable ++ ccStores).zip ccWords, CcAt p.1.2 (ccState p.2) (ccAtX p.2) := by
  refine ⟨by decide +kernel, ?_⟩
  simp only [CcAt, CcPlace, CoreUp]
  decide +kernel

/-- Every row stands at a reserved word, which is illegal, and at a word of its own whose predicate is 0. -/
theorem witness_CcSkipsAndPredicates :
    (∀ p ∈ ccTable ++ ccStores, CcPlace p.2 (ccState (w11 0x39 0)) (ccAtX (w11 0x39 0)) ∧ encIllegal (w11 0x39 0) = true) ∧
    (∀ p ∈ (ccTable ++ ccStores).zip ccWords, CcPlace p.1.2 (ccState (2 ^ 31 + p.2)) (ccAtX (2 ^ 31 + p.2)) ∧
      encIllegal (2 ^ 31 + p.2) = false ∧
      pGet (coreAt (ccState (2 ^ 31 + p.2)) 0).regs (bitsOf (2 ^ 31 + p.2) 30 28) = bitOf (2 ^ 31 + p.2) 31) := by
  simp only [CcPlace, CoreUp]
  decide +kernel

/-- The checks of the CC rows that a check may skip: at the last place, past it, and unaligned; the last and the next value of SETSVL and SETRPT; a
register of the store unlocked and locked. -/
def mayState (w : Nat) (g : Word) : State := ccState w { svl := 8, g := [(1, g), (2, g)] }
theorem witness_CcMay :
    (∀ p ∈ [(2, 8), (3, 8), (4, 8), (5, 8), (6, 64), (7, 64)], ∀ a ∈ [(0x80000 - p.2, true), (0x80000, false), (4, false)],
      let w := w01 p.1 1 2 0
      let s := mayState w (BitVec.ofNat 64 a.1)
      CcAt (isSub p.1) s (ccAtX w) ∧
      decide (memAddr (regsOf (ccAtX w) (coreInternal s 0)) w % p.2 = 0 ∧ memAddr (regsOf (ccAtX w) (coreInternal s 0)) w + p.2 ≤ 0x80000) = a.2) ∧
    (∀ m ∈ [0x2E, 0x2F], ∀ a ∈ [(0x80000 - 8, true), (0x80000, false), (4, false)],
      let w := tri m 1 2 3 0 0
      let s := mayState w (BitVec.ofNat 64 a.1)
      CcAt (isMinor m) s (ccAtX w) ∧
      decide (∀ p ∈ laneAddrs (regsOf (ccAtX w) (coreInternal s 0)) w, p.2 % 8 = 0 ∧ p.2 + 8 ≤ 0x80000) = a.2) ∧
    (∀ a ∈ [((8 : Nat), true), (9, false)], let w := w11 0x32 (2 * 2 ^ 10 + 16)
      CcAt (isMinor 0x32) (mayState w (BitVec.ofNat 64 a.1)) (ccAtX w) ∧
      (bitOf w 4 = true ∧ decide ((gGet (regsOf (ccAtX w) (coreInternal (mayState w (BitVec.ofNat 64 a.1)) 0)) (tA w)).toNat ≤ 8) = a.2)) ∧
    (∀ a ∈ [((0xFFFFFFFF : Nat), true), (0x100000000, false)], let w := tri 0x38 0 1 0 0 0
      CcAt (isMinor 0x38) (mayState w (BitVec.ofNat 64 a.1)) (ccAtX w) ∧
      decide ((gGet (regsOf (ccAtX w) (coreInternal (mayState w (BitVec.ofNat 64 a.1)) 0)) (tA w)).toNat ≤ 2 ^ 32 - 1) = a.2) ∧
    (∀ n ∈ [0, 1], let w := tri 0x33 1 8 0 0 0
      let s := dset (ccState w) kDeterminismScope n
      CcAt (isMinor 0x33) s (ccAtX w) ∧ tA w = 8 ∧ locked (coreInternal s 0) = (n == 1)) := by
  simp only [CcAt, CcPlace, CoreUp]
  refine ⟨?_, ?_, ?_, ?_, ?_⟩ <;> decide +kernel

/-- A store completes, and so does a row that stores nothing (the frames speak of their next states). -/
theorem witness_CcStoreFrame : CcAt (isSub 3) (ccState (w01 3 1 2 8)) (ccAtX (w01 3 1 2 8)) ∧
    ∃ t, exec (.st 0) (ccState (w01 3 1 2 8)) = .next t := ⟨by simp only [CcAt, CcPlace, CoreUp]; decide +kernel, _, rfl⟩
theorem witness_CcNoStoreFrame : ∃ t, exec (.addi 0) (ccState (w00 1 2 1)) = .next t := ⟨_, rfl⟩

/-- The state after a step of a command. -/
def after (i : Instr) (s : State) : State := match exec i s with | .next t => t | _ => s

/-- SLLI g12, g11, 16, the word 0x0CE6_2D00 of the worked forme (R150): 3 becomes 0x30000. -/
theorem test_slli_word :
    gGet (coreAt (after (.slli 0) (ccState 0x0CE62D00 { g := [(11, 3)] })) 0).regs 12 = 0x30000 := by decide +kernel

/-- ADDI (p2) g16, g16, 1, the word 0x2210_0001 (R150): with p2 = 0 nothing changes, with p2 = 1 g16 goes from its largest value to 0. -/
theorem test_addi_word :
    gGet (coreAt (after (.addi 0) (ccState 0x22100001 { g := [(16, -1)] })) 0).regs 16 = -1 ∧
    gGet (coreAt (after (.addi 0) (ccState 0x22100001 { g := [(16, -1)], p := 4 })) 0).regs 16 = 0 := by decide +kernel

/-- FCMPGT p2, f1, f2, the word 0x0DA1_0440 (R150): 2.0 > 1.0. -/
theorem test_fcmpgt_word : pGet (coreAt (after (.fcmpgt 0) (ccState 0x0DA10440
    { w := [(8, 0x4000000000000000), (16, 0x3FF0000000000000)] })) 0).regs 2 = true := by decide +kernel

/-- POST (!p2) t7, 1, the word 0xAF53_8001 (R150): with p2 = 0 it posts. -/
theorem test_post_word : tok (coreAt (after (.post 0) (ccState 0xAF538001)) 0) 7 = 1 := by decide +kernel

/-- MULHU of 2^63 and 4 is 2, and MIN is signed: −1 is less than 1 (R101). -/
theorem test_mulhu_min :
    gGet (coreAt (after (.mulhu 0) (ccState (tri 9 1 2 3 0 0) { g := [(2, 0x8000000000000000), (3, 4)] })) 0).regs 1 = 2 ∧
    gGet (coreAt (after (.min 0) (ccState (tri 10 1 2 3 0 0) { g := [(2, -1), (3, 1)] })) 0).regs 1 = -1 := by decide +kernel

/-- 1.0 + 1.0 is 2.0 (R101). -/
theorem test_fadd : fGet (coreAt (after (.fadd 0) (ccState (tri 0x20 1 2 3 0 0)
    { w := [(16, 0x3FF0000000000000), (24, 0x3FF0000000000000)] })) 0).regs 1 = 0x4000000000000000 := by decide +kernel

/-! ### Tokens and launches -/

/-- A command word 0 (R151): QCLASS, OPCODE and CTRL, no wait and no post; and one that waits on t31 for 1. -/
def q0 (cls op ctrl : Nat) : Word := BitVec.ofNat 64 (cls * 2 ^ 61 + op * 2 ^ 54 + ctrl)
def cmdOf (w0 w1 w2 w3 : Nat) : Cmd := ⟨BitVec.ofNat 64 w0, BitVec.ofNat 64 w1, BitVec.ofNat 64 w2, BitVec.ofNat 64 w3, false, false, 0x40, 0, 0⟩
def noopAt (q : Nat) : Cmd := cmdOf (q * 2 ^ 61) 0 0 0
def waitCmd : Cmd := cmdOf (31 * 2 ^ 49 + 2 ^ 41) 0 0 0

/-- PUSH into a queue with room, and into a full one; WAIT with no count, with its count there, and without; a held wait that is released. -/
theorem witness_CcTokenRows :
    (∀ q, q < 5 → CcAt (isMinor 0x34) (ccState (w11 0x34 (q * 2 ^ 17))) (ccAtX (w11 0x34 (q * 2 ^ 17))) ∧
      (queueCode (bitsOf (w11 0x34 (q * 2 ^ 17)) 19 17)).isSome = true) ∧
    (let s := withCore { run := some run0, forme := memWrite [] 0x40 (leBytes 4 (w11 0x34 0)), mq := List.replicate 16 (noopAt 0) }
     CcAt (isMinor 0x34) s (ccAtX (w11 0x34 0)) ∧ queueDepth .mq ≤ (queueOf (coreAt (coreInternal s 0) 0) .mq).length) ∧
    CcAt (isMinor 0x36) (ccState (w11 0x36 0)) (ccAtX (w11 0x36 0)) ∧
    (let s := withCore { run := some run0, forme := memWrite [] 0x40 (leBytes 4 (w11 0x36 1)), tokens := [(0, 1)] }
     let c := coreAt (coreInternal s 0) 0
     CcAt (isMinor 0x36) s (ccAtX (w11 0x36 1)) ∧ c.ccWait = none ∧ ccWaitDone (settle 0 { c with ccWait := some (0, 1) }) = true) ∧
    (let c := coreAt (coreInternal (ccState (w11 0x36 1)) 0) 0
     c.ccWait = none ∧ ccWaitDone (settle 0 { c with ccWait := some (0, 1) }) = false) := by
  simp only [CcAt, CcPlace, CoreUp]; decide +kernel

/-- A WAIT and a queue head held for longer than TOKEN_STALL_LIMIT, 1 s at reset, and one held until the last instant of it. -/
def stalled : State := withCore { mq := [waitCmd], waits := [(1, .held 0)] }
theorem witness_tokenStallRelease : CoreUp stalled 0 0 ∧ waitOf (coreAt stalled 0) .me = .held 0 ∧
    headWait (coreAt stalled 0) .me = some (31, 1) ∧ dget stalled kTokenStallLimit ≠ 0 ∧
    0 + dget stalled kTokenStallLimit < timeNs (atTime stalled 1000000001) ∧
    ¬ (0 + dget stalled kTokenStallLimit < timeNs (atTime stalled 1000000000)) := by simp only [CoreUp]; decide +kernel

theorem witness_TokenWaitsServed : waitOf (settle 7 { mq := [waitCmd] }) .me = .held 7 ∧
    headWait (settle 7 { mq := [waitCmd] }) .me = some (31, 1) := by decide +kernel

/-- A package in START whose core 0 has a granted launch of `count` iterations of slot 0, with a forme of one instruction there. -/
def launching (count version : Nat) : State := dset (withCore {
  granted := true, launchQ := [⟨[BitVec.ofNat 64 count, 0], 0, 0, 0⟩], slots := [(0, 2 ^ 16)],
  forme := memWrite [] 0 (leBytes 8 (version * 2 ^ 56 + 2 ^ 32)) }) kJobPhase phStart
def launchAt (s : State) (count : Nat) : Prop :=
  CoreUp s 0 0 ∧ (coreAt s 0).launchQ = [⟨[BitVec.ofNat 64 count, 0], 0, 0, 0⟩] ∧ (coreAt s 0).granted = true ∧
  admitOpen s 0 (coreAt s 0) = true ∧ launchCount (coreAt s 0) (recWord [BitVec.ofNat 64 count, 0] 0) = count

/-- A count of 0; a count of 2^32 − 1 with a good header; one with a bad header; and a finished launch that has drained. -/
theorem witness_LaunchRows : launchAt (launching 0 1) 0 ∧ launchAt (launching (2 ^ 32 - 1) 1) (2 ^ 32 - 1) ∧
    formeCheck (coreAt (launching (2 ^ 32 - 1) 1) 0) 0 (2 ^ 32 - 1) = some (1, 0, none) ∧ launchAt (launching 1 2) 1 ∧
    formeCheck (coreAt (launching 1 2) 0) 0 1 = none ∧
    (let s := withCore { run := some { run0 with finished := true }, galley := [⟨[], 0, false⟩] }
     CoreUp s 0 0 ∧ (coreAt s 0).run = some { run0 with finished := true } ∧ drainedCore s 0 (coreAt s 0) = true) := by
  simp only [launchAt, CoreUp]; decide +kernel

/-! ### Control space -/

/-- LOG_CLEAR with CLEAR at 1; units, groups and tiles at their bounds; a path that reaches a register. -/
theorem witness_ControlClears : CoreUp State.reset 0 0 ∧ (1 : Word).getLsbD 0 = true ∧ State.reset.up = true ∧ State.reset.grade ≠ 3 ∧
    (∃ r t, pathReg State.reset 0x280000000500 .hdie = some r ∧ regWrite (regTouch State.reset r) 1 (2 ^ 64 - 1) r = some t) := by
  refine ⟨by simp only [CoreUp]; decide +kernel, by decide, rfl, by decide, _, _, rfl, rfl⟩

/-- A register write by a path whose link is exhausted, and one that is not. -/
theorem witness_registerWrite :
    (∃ r, pathReg State.reset 0x240000000000 .hdie = some r ∧ 0x240000000000 % 8 = 0 ∧
      (regTry (regTouch State.reset r) (pathOwner .hdie) r).2 = 0 ∧ (regWrite (regTouch State.reset r) 0 (2 ^ 64 - 1) r).isSome = true ∧
      (let s := { State.reset with dieParity := [(dieLinkOf 8 10, (1, 16)), (dieLinkOf 0 8, (1, 16))] }
       (regTry (regTouch s r) (pathOwner .hdie) r).2 ≠ 0)) := ⟨_, rfl, by decide +kernel⟩

theorem witness_CaptureHoldsFirstEvent : (2 ^ 63 : Word).getLsbD 63 = true ∧ ({} : FlagBlk).cap0.getLsbD 63 = false ∧
    Nat.land (flagsNat flInv) ({} : FlagBlk).arm.toNat ≠ 0 := by decide +kernel

/-! ### Queues and engines -/

/-- A void entry at the head of each queue, and a NOOP with and without a non-zero field; on a GZ-9S the one of SQ. -/
def headState (q : QueueId) (x : Cmd) : State := withCore (setQueue {} q [x])
def noopHead (q : QueueId) (s : State) (x : Cmd) : Prop :=
  HeadAt q (fun x => w0Op x.w0 == 0) (fun s _ c => !queueFree s 0 c q) s ⟨0, 0, q, x⟩
theorem witness_VoidAndNoopRows :
    (∀ q ∈ [QueueId.mq, .vq, .dq, .cq, .sq],
      (let s := headState q { noopAt 0 with void := true, bare := true }
       CoreUp s 0 0 ∧ queueOf (coreAt s 0) q = [{ noopAt 0 with void := true, bare := true }] ∧ headReady (coreAt s 0) q = true ∧
       queueFree s 0 (coreAt s 0) q = true) ∧
      noopHead q (headState q (noopAt 0)) (noopAt 0) ∧ noopHead q (headState q (cmdOf 1 0 0 0)) (cmdOf 1 0 0 0)) ∧
    noopHead .sq { headState .sq (noopAt 0) with grade := 3 } (noopAt 0) := by
  simp only [noopHead, HeadAt, CoreUp]; decide +kernel

/-- A NOOP of CQ in a launch of another epoch. -/
theorem witness_noop_stale :
    (let s := dset (withCore { setQueue {} .cq [noopAt 3] with run := some run0 }) kJobEpoch 1
     noopHead .cq s (noopAt 3) ∧ epochStale s 0 = true) ∧ epochStale (headState .cq (noopAt 3)) 0 = false := by
  simp only [noopHead, HeadAt, CoreUp]; decide +kernel

/-- An FP64 MMA of `m` × 16 by 16 × 8 with A at 0, B at `b`, C at 0x2000 and a gather window `w`; a MEWMA of 8 × 8 with B at `b`. -/
def mmaAt (w m b : Nat) : Cmd := cmdOf (2 ^ 54) (m * 2 ^ 48 + 8 * 2 ^ 32 + 16 * 2 ^ 16 + w) (b * 2 ^ 26 + 0x2000 * 2 ^ 7) 0
def mmaCmd (w : Nat) : Cmd := mmaAt w 8 0x1000
def mewmaAt (low b : Nat) : Cmd := cmdOf (2 * 2 ^ 54) (8 * 2 ^ 48 + 8 * 2 ^ 32 + low) (b * 2 ^ 26 + 0x2000 * 2 ^ 7) 0
/-- An ALLGATHER with COLL_ID 5 to the B of `mmaCmd`, whole, whose group has one member. -/
def gatherCmd : Cmd := { cmdOf (3 * 2 ^ 61 + 3 * 2 ^ 54 + 5) 0 0x1000 (1024 * 2 ^ 32 + 1) with uid := 9 }
def gatherState (x : Cmd) : State := { withCore { mq := [x], cq := [gatherCmd] } with collGroups := [(0, { valid := true, total := 1 })] }

/-- What stops an MQ command: nothing (0), an illegal field, a fused format, or its extent (R155, R175, R313). -/
def meStop (s : State) (ew : Bool) (x : Cmd) : Nat := match meFields s x with
  | some f => if meIllegal x ew (some f) then stIllegal else if meFused s f then stFused
    else if (meSrcs f ew ++ meDst f).any (fun r => !inStore r.1 r.2) then stBounds else 0
  | none => 255
/-- Command `x` stands at the head of MQ and stops with `st`. -/
def meHead (op st : Nat) (s : State) (x : Cmd) : Prop :=
  HeadAt .mq (fun x => w0Op x.w0 == op) meBusy s ⟨0, 0, .mq, x⟩ ∧ meStop (taken s ⟨0, 0, .mq, x⟩) (op == 2) x = st

/-- An MMA without a window, one with a window that none binds, and one that each check stops; a MEWMA likewise. -/
theorem witness_MatrixRows :
    (∀ w ∈ [0, 4095], meHead 1 0 (headState .mq (mmaCmd w)) (mmaCmd w)) ∧
    gatherFor (coreAt (taken (headState .mq (mmaCmd 4095)) ⟨0, 0, .mq, mmaCmd 4095⟩) 0) 4095 = none ∧
    meHead 2 0 (headState .mq (mewmaAt 0 0x1000)) (mewmaAt 0 0x1000) ∧
    (∀ p ∈ [(1, mmaCmd 4096, mmaCmd 0, mmaAt 0 8 0x7FFC0), (2, mewmaAt 4096 0x1000, mewmaAt 0 0x1000, mewmaAt 0 0x7FFC0)],
      meHead p.1 stIllegal (headState .mq p.2.1) p.2.1 ∧ meHead p.1 stFused { headState .mq p.2.2.1 with grade := 3 } p.2.2.1 ∧
      meHead p.1 stBounds (headState .mq p.2.2.2) p.2.2.2) := by
  simp only [meHead, HeadAt, CoreUp]; decide +kernel

/-- One that binds the all-gather: a window that fits, one whose B lies elsewhere, and one with no row. -/
theorem witness_GatherRows :
    (∀ x ∈ [mmaCmd 5, mmaAt 5 8 0x1040, mmaAt 5 0 0x1000], meHead 1 0 (gatherState x) x ∧
      gatherFor (coreAt (taken (gatherState x) ⟨0, 0, .mq, x⟩) 0) 5 = some gatherCmd) ∧
    ([mmaCmd 5, mmaAt 5 8 0x1040, mmaAt 5 0 0x1000].map (fun x => (meFields (taken (gatherState x) ⟨0, 0, .mq, x⟩) x).map (fun f =>
      (windowBad (taken (gatherState x) ⟨0, 0, .mq, x⟩) f gatherCmd, f.m, f.n)))) =
      [some (false, 8, 8), some (true, 8, 8), some (false, 0, 8)] := by
  simp only [meHead, HeadAt, CoreUp]; decide +kernel

/-- A bound MMA with a ready segment, and one with all taken; a galley result of one slot with room and without, held for longer than the limit; a VE
command that waits for a slot as long. -/
def slot0 : GSlot := ⟨[], 0, false⟩
def boundJob (done : List Nat) : MeJob := { cmd := mmaCmd 5, bound := some 9, seg := 16, order := [0], taken := done }
def galJob : MeJob := { cmd := mmaCmd 0, groups := [([slot0], [])] }
/-- A VQ command: opcode, CTRL, SUB, ROWLEN, IMM, MASK_EN, with COUNT elements from 0 and 0x1000 to 0x2000. -/
def veCmd (op cnt : Nat) (ctrl : Nat := 0) (sub : Nat := 0) (row : Nat := 0) (imm : Nat := 0) (a : Nat := 0) (b : Nat := 0x1000)
    (d : Nat := 0x2000) (men : Nat := 0) : Cmd :=
  cmdOf (2 ^ 61 + op * 2 ^ 54 + ctrl) (cnt * 2 ^ 32 + row * 2 ^ 16 + sub * 2 ^ 12 + men * 2 ^ 11) (a * 2 ^ 45 + b * 2 ^ 26 + d * 2 ^ 7) imm
theorem witness_GalleyRows :
    (let s := withCore { meJob := some (boundJob []) }
     CoreUp s 0 0 ∧ heldEngine s 0 = false ∧ (meFields s (boundJob []).cmd).map (fun f => segsNeeded f.k (boundJob []).seg) = some 1 ∧
     nextSeg s (boundJob []) 1 = some 0) ∧ (boundJob []).bound.isSome = true ∧ (boundJob [0]).taken.length = 1 ∧
    galFits { meJob := some galJob } galJob.groups = true ∧ galJob.bound = none ∧ heldEngine (withCore { meJob := some galJob }) 0 = false ∧
    (let s := withCore { meJob := some galJob, galley := List.replicate 8 slot0 }
     CoreUp s 0 0 ∧ dget s kTokenStallLimit ≠ 0 ∧ galJob.since + dget s kTokenStallLimit < timeNs (atTime s 1000000001) ∧
     galFits (coreAt s 0) galJob.groups = false) ∧
    (let j : VeJob := { cmd := veCmd 0x01 1024 8, slots := [slot0] }
     let s := withCore { veJob := some j }
     CoreUp s 0 0 ∧ (coreAt s 0).veJob = some j ∧ (veFields s j.cmd).map slotsNeeded = some 2 ∧ j.slots.length < 2 ∧
     j.since + dget s kTokenStallLimit < timeNs (atTime s 1000000001) ∧ (coreAt s 0).galley = []) := by simp only [CoreUp]; decide +kernel

/-- A galley job all of whose slots have entered, while issue is held. -/
theorem witness_galley_last :
    (let j : MeJob := { galJob with groups := [] }
     let s := { withCore { meJob := some j } with hold := true }
     CoreUp s 0 0 ∧ (coreAt s 0).meJob = some j ∧ j.bound = none ∧ j.groups = []) := by simp only [CoreUp]; decide +kernel

def veState0 (x : Cmd) (gal : List GSlot := []) : State := withCore { vq := [x], lut := ⟨some (0x4000, 1), false, []⟩, galley := gal }
/-- What the checks of a VE command say at the head of VQ, and how many galley slots it lacks. -/
def veTry (x : Cmd) (gal : List GSlot := []) : Option (Option Nat × Nat) :=
  let s := veState0 x gal
  let t := taken s ⟨0, 0, .vq, x⟩
  if headReady (coreAt s 0) .vq && !veBusy s 0 (coreAt s 0) then
    (veFields t x).map (fun f => (firstSkip [(veIllegal (flushOn t) (coreAt t 0) x f, stIllegal), (veBounds f, stBounds)],
      slotsNeeded f - (coreAt t 0).galley.length))
  else none
def veOk (x : Cmd) : Bool := veTry x == some (none, 0)

/-- A command of every VE row passes its checks, with COUNT 0 and with elements. -/
theorem witness_VectorRows : ∀ n ∈ [0, 8],
    (∀ op ∈ [0x01, 0x02, 0x03, 0x04, 0x05, 0x06, 0x07, 0x08, 0x09, 0x0A, 0x0B, 0x17], veOk (veCmd op n) = true) ∧
    veOk (veCmd 0x0C n (b := 0)) = true ∧ veOk (veCmd 0x0D n (b := 0) (imm := 0x4000)) = true ∧
    veOk (veCmd 0x0F n (row := 8) (b := 0) (d := 0) (imm := 0x4000)) = true ∧ veOk (veCmd 0x10 n (row := 8) (b := 0) (imm := 0x4000)) = true ∧
    (∀ k, k < 4 → veOk (veCmd 0x11 n (sub := k) (b := 0)) = true) ∧ (∀ k, k < 7 → veOk (veCmd 0x12 n (sub := k) (d := 0)) = true) ∧
    veOk (veCmd 0x13 n (men := 1)) = true := by decide +kernel

/-- Rows that a check stops; one that waits for a galley slot, one that has it, and one whose job gets its second slot. -/
theorem witness_VectorChecks :
    (∀ op ∈ [0x01, 0x11, 0x12, 0x0E, 0x14, 0x15, 0x16], veTry (veCmd op 8 (ctrl := 1)) = some (some stIllegal, 0)) ∧
    (∀ op ∈ [0x01, 0x14, 0x16], veTry (veCmd op 9 (a := 0x7FFC0)) = some (some stBounds, 0)) ∧
    veTry (veCmd 0x11 9 (a := 0x7FFC0) (b := 0)) = some (some stBounds, 0) ∧
    veTry (veCmd 0x12 9 (a := 0x7FFC0) (d := 0)) = some (some stBounds, 0) ∧
    veTry (veCmd 0x0E 9 (a := 0x7FFC0) (b := 0) (d := 0)) = some (some stBounds, 0) ∧
    veTry (veCmd 0x15 17 (b := 0x7FFC0)) = some (some stBounds, 0) ∧
    veTry (veCmd 0x01 8 (ctrl := 8)) = some (none, 1) ∧ veTry (veCmd 0x01 8 (ctrl := 8)) [slot0] = some (none, 0) ∧
    (let j : VeJob := { cmd := veCmd 0x01 1024 8, slots := [slot0] }
     let s := withCore { veJob := some j, galley := [slot0] }
     CoreUp s 0 0 ∧ (coreAt s 0).veJob = some j ∧ isOp 0x01 j.cmd = true ∧ heldEngine s 0 = false ∧ (veFields s j.cmd).map slotsNeeded = some 2) := by
  simp only [CoreUp]; decide +kernel

/-- A table of one segment of one entry from −1 to 1 (R222), and one to which LO = HI, which is bad. -/
def lutBytes (lo hi : Nat) : List Byte := leBytes 8 lo ++ leBytes 8 hi ++ leBytes 8 0x3FF0000000000000 ++ leBytes 8 1
theorem witness_IndexedVectorRows :
    lutBad (lutBytes 0xBFF0000000000000 0x3FF0000000000000 ++ List.replicate 228 0) 1 1 = false ∧
    lutBad (lutBytes 0x3FF0000000000000 0x3FF0000000000000 ++ List.replicate 228 0) 1 1 = true ∧
    veOk (veCmd 0x0E 1 (b := 0) (d := 0)) = true ∧ (∀ op ∈ [0x14, 0x15, 0x16], veOk (veCmd op 8) = true) ∧
    (∀ op ∈ [0x14, 0x15, 0x16], (veFields (veState0 (veCmd op 8)) (veCmd op 8)).map
      (indices (coreAt (veState0 (veCmd op 8)) 0)) = some (List.replicate 8 0)) := by decide +kernel

/-- A solve descriptor (R241) at 0xF80 for `n` systems of `n` unknowns: MAT at 0x1000, SCALE at 0x2000, FACT at 0x3000, OPCODE `d`, analysed; and
a command with its descriptor at `a`, B at `b` and X at 0x5000. RANGE serves LU. -/
def seDesc0 (op n : Nat) : List Byte :=
  leBytes 8 ((if op = 7 then 1 else 0x1000 * 2 ^ 45) + 0x2000 * 2 ^ 26 + 0x3000 * 2 ^ 7) ++
  leBytes 8 ((if op = 1 then 2 else op) * 2 ^ 57 + (if op = 9 then 2 ^ 24 else 0)) ++ leBytes 8 0 ++
  leBytes 8 (2 ^ 63 + n * 2 ^ 32 + n * 2 ^ 16)
def seCmdAt (op n a b : Nat) : Cmd := cmdOf (4 * 2 ^ 61 + op * 2 ^ 54 + (if 8 ≤ op then 16383 else 0)) 0
  (a * 2 ^ 45 + b * 2 ^ 26 + (if op = 1 then 0 else 0x5000 * 2 ^ 7)) (n * 2 ^ 48 + n * 2 ^ 32 + (if op = 9 then 2 ^ 8 else 0))
def seCmd0 (op : Nat) : Cmd := seCmdAt op 1 0xF80 0x4000
def seStateAt (d : List Byte) (x : Cmd) (sc : List Byte := []) : State :=
  withCore { storeWrite (storeWrite {} 0xF80 d) 0x2000 sc with sq := [x] }
def seState0 (op : Nat) : State := seStateAt (seDesc0 op 1) (seCmd0 op)
/-- The state after the descriptor's tiles are verified, the command's fields, and the state after those of the scale table. -/
def seRead (s : State) (x : Cmd) : State × Nat := verifyTiles (seTaken s 0 0 0) 0 (tilesOfRanges [seDesc (seFields x [])])
def seOf (s : State) (x : Cmd) : SeF := seFields x ((List.range 16).map (wAt (words64 (coreAt (seRead s x).1 0) (seDesc (seFields x [])))))
def seScaled (s : State) (x : Cmd) : State × Nat := verifyNew (seRead s x).1 0 (tilesOfRanges [seDesc (seFields x [])]) (seTable (seOf s x))
/-- The first check that stops a command at the head of SQ. -/
def seStop (s : State) (x : Cmd) : Nat :=
  if seIllegal x then 1
  else if s.grade = 3 || (engineAt s 0).failed then 2
  else if (seFields x []).n = 0 || (seFields x []).batch = 0 then 3
  else if !inStore (seFields x []).aA 128 then 4
  else if seDescBad (seRead s x).1 0 x (seOf s x) then 5
  else if ([seScale (seOf s x), seMat (seOf s x), seFact (seOf s x), seB (seOf s x), seX (seOf s x)]).any (fun r => !inStore r.1 r.2) then 6
  else if seScaleBad (seScaled s x).1 0 (seOf s x) then 7
  else 0

/-- Every solver row has a state in which its command passes every check, and LU one in which each check stops it. -/
theorem witness_SolverRows :
    (∀ op ∈ [1, 2, 3, 4, 5, 6, 7, 8, 9], SeHead op 0 (seState0 op) 0 0 (seCmd0 op) ∧ seStop (seState0 op) (seCmd0 op) = 0) ∧
    (let cs := [(seStateAt (seDesc0 2 1), { seCmd0 2 with w3 := 2 ^ 48 + 2 ^ 32 + 1 }),
        (fun x => { seStateAt (seDesc0 2 1) x with grade := 3 }, seCmd0 2), (seStateAt (seDesc0 2 1), seCmdAt 2 0 0xF80 0x4000),
        (seStateAt (seDesc0 2 1), seCmdAt 2 1 0x7FFC0 0x4000), (seStateAt (seDesc0 3 1), seCmd0 2),
        (seStateAt (seDesc0 2 3), seCmdAt 2 3 0xF80 0x7FFC0), (fun x => seStateAt (seDesc0 2 1) x [1, 8], seCmd0 2)]
     (∀ p ∈ cs, SeHead 2 0 (p.1 p.2) 0 0 p.2) ∧ cs.map (fun p => seStop (p.1 p.2) p.2) = [1, 2, 3, 4, 5, 6, 7]) := by
  simp only [SeHead]
  decide +kernel

/-- A joint solve at its reduction. -/
def jointJob : SolveJob :=
  { n := 0, k := 0, x := seCmd0 8, dw := [], seen := [], env := ⟨true, 1, 1, 0, 0, 0, [], 0, false⟩, tr := {}, it := {}, si := [], jid := 256,
    inst := 0, cond := 0, since := 0 }
def jointState : State := { withCore {} with engines := [(0, { job := some jointJob })], collGroups := [(1, { members := 1, total := 1, localCount := 1 })] }
theorem witness_solverReductionReturn : jointState.up = true ∧
    (let t := metAbort [] none (atTime jointState 0)
     (engineAt t 0).job = some jointJob ∧ jointJob.got = none ∧ (collGroup t (jointJob.jid / 256)).localCount ≤ (coMembers t jointJob).length) := by
  decide +kernel

/-! ### DMA -/

/-- A package whose stacks serve accesses. -/
def ready (s : State) : State := { s with stackWork := [], dict := [] }
def dState (x : Cmd) : State := ready (withCore { dq := [x] })
/-- A DQ command (R158): OPCODE, CTRL, SRC, DST, LENGTH, AUX. -/
def dCmd (op ctrl src dst len aux : Nat) : Cmd := cmdOf (2 * 2 ^ 61 + op * 2 ^ 54 + ctrl) src dst (len * 2 ^ 32 + aux)
/-- Descriptors of every row that moves data, of `len` bytes; the greatest stack address is in the first. -/
def dRows0 (len : Nat) : List ((Cmd → Bool) × Nat × Cmd) :=
  [(deMine 1, 1, dCmd 1 2 0 (2 ^ 40 - 64) len 0), (deMine 2, 2, dCmd 2 2 0 0x1000 len (4 * 2 ^ 16 + 4)),
   (nmuMine 0, 3, dCmd 3 (0x10 * 2 ^ 16 + 2) 0 0x1000 len 0), (nmuMine 1, 3, dCmd 3 (0x10 * 2 ^ 16 + 2 ^ 12 + 2) 0 0x1000 len 0x7000),
   (nmuMine 2, 3, dCmd 3 (0x10 * 2 ^ 16 + 2 * 2 ^ 12 + 1) 0x1000 0 len 0x7000),
   (nmuMine 3, 3, dCmd 3 (0x10 * 2 ^ 16 + 3 * 2 ^ 12 + 1) 0x1000 0 len (4 * 2 ^ 16 + len / 16)),
   (nmuMine 4, 3, dCmd 3 (0x20 * 2 ^ 16 + 4 * 2 ^ 12 + 1) 0x1000 0 len 0)]
def dTaken (x : Cmd) : State := taken (dState x) ⟨0, 0, .dq, x⟩
/-- Descriptor `x` at the head of DQ may start and is not skipped. -/
def dRuns (mine : Cmd → Bool) (s : State) (x : Cmd) : Prop :=
  DqAt mine s ⟨0, 0, .dq, x⟩ ∧ dSkip (taken s ⟨0, 0, .dq, x⟩) 0 x = none
def atomicRow (a : Nat) : Cmd := dCmd 6 (a * 2 ^ 8 + 2) 0 0x1000 8 0
def inlB {α β : Type} : α ⊕ β → Bool | .inl _ => true | .inr _ => false

/-- With a LENGTH of 0 and with 64 bytes every descriptor may start; atomics; a chain; a fence; and one of each row that is skipped. -/
theorem witness_DeDoes :
    (∀ r ∈ dRows0 0, dRuns r.1 (dState r.2.2) r.2.2 ∧ w0Op r.2.2.w0 = r.2.1 ∧ dEmpty r.2.2 = true) ∧
    (∀ r ∈ dRows0 64, dRuns r.1 (dState r.2.2) r.2.2 ∧ w0Op r.2.2.w0 = r.2.1 ∧ dEmpty r.2.2 = false ∧
      (dLocs (dTaken r.2.2) 0 r.2.2).isSome = true) := by
  simp only [dRuns, DqAt, HeadAt, CoreUp]; decide +kernel
theorem witness_DeDoes_nmu :
    ∀ r ∈ (dRows0 64).drop 2, ∀ l ∈ dLocs (dTaken r.2.2) 0 r.2.2,
      inlB (startNmu (deBegun (dState r.2.2) ⟨0, 0, .dq, r.2.2⟩ l.1 l.2) 0 0 r.2.2 l.1 l.2) = true := by decide +kernel
theorem witness_DeDoes_atomics :
    (∀ a ∈ [0, 2, 3, 4, 5], dRuns (aopMine a) (dState (atomicRow a)) (atomicRow a) ∧ w0Op (atomicRow a).w0 = 6 ∧
      dEmpty (atomicRow a) = false ∧ (dLocs (dTaken (atomicRow a)) 0 (atomicRow a)).isSome = true) ∧
    dRuns (aopMine 1) (dset (dState (atomicRow 1)) kDeterminismScope 0) (atomicRow 1) := by
  simp only [dRuns, DqAt, HeadAt, CoreUp]; decide +kernel
theorem witness_DeDoes_chain :
    dRuns (deMine 4) (dState (dCmd 4 2 0x40 0 0 0)) (dCmd 4 2 0x40 0 0 0) ∧ dRuns (deMine 5) (dState (dCmd 5 0 0 0 0 0)) (dCmd 5 0 0 0 0 0) ∧
    (∀ r ∈ dRows0 64 ++ [(deMine 4, 4, dCmd 4 2 0x40 0 0 0), (deMine 5, 5, dCmd 5 0 0 0 0 0), (aopMine 0, 6, atomicRow 0)],
      let x := { r.2.2 with w0 := r.2.2.w0 ||| 8 }
      DqAt r.1 (dState x) ⟨0, 0, .dq, x⟩ ∧ w0Op x.w0 = r.2.1 ∧ dSkip (dTaken x) 0 x = some stIllegal) := by
  simp only [dRuns, DqAt, HeadAt, CoreUp]; decide +kernel

/-- An entry of a chain of every row; a descriptor that has ended; a DE that is told to stop, and that has. -/
def deTableCmds : List Cmd :=
  (dRows0 64).map (fun r => r.2.2) ++ [dCmd 4 2 0 0 0 0, dCmd 5 0 0 0 0 0] ++ (List.range 6).map atomicRow
def chainState (x : Cmd) : State := ready (withCore { de := { chain := some { x := x, loc := true, at_ := 0, count := 1, entry := some x } } })
theorem witness_DeCourse :
    (∀ p ∈ deTable.zip deTableCmds, CoreUp (chainState p.2) 0 0 ∧ (deAt (chainState p.2) 0).job = none ∧
      (deAt (chainState p.2) 0).stop = false) ∧ deTable.length = deTableCmds.length ∧
    (∀ x ∈ [dCmd 1 2 0 (2 ^ 40 - 64) 64 0, dCmd 2 2 0 0x1000 64 (4 * 2 ^ 16 + 4)], (deReady (chainState x) 0 x).2 = true) ∧
    (∀ p ∈ deTable.zip deTableCmds, p.1.2 p.2 = true) ∧
    (let j : DeJob := { x := dCmd 5 0 0 0 0 0, writing := true }
     let s := ready (withCore { de := { job := some j } })
     CoreUp s 0 0 ∧ (deAt s 0).job = some j ∧ j.writing = true ∧ deBusyNow s 0 = false) ∧
    (let s := ready (withCore { de := { stop := true } })
     CoreUp s 0 0 ∧ (deAt s 0).stop = true ∧ (deAt s 0).job = none) := by
  simp only [CoreUp]; decide +kernel

/-! ### Collectives -/

/-- A group of this package's core 0 alone; a CQ command (R160): OPCODE, ROP, NUMFMT, SRC, DST, LENGTH, flags of word 3. -/
def group1 : CollGroup := { members := 1, valid := true, total := 1, localCount := 1, leafCount := 1 }
def qCmd (op rop fmt src dst len w3 : Nat) : Cmd :=
  cmdOf (3 * 2 ^ 61 + op * 2 ^ 54 + rop * 2 ^ 24 + fmt * 2 ^ 16) src dst (len * 2 ^ 32 + w3)
def collState (ph : Nat) (x : Cmd) (c : Core := {}) : State :=
  { dset (dset (ready (withCore { c with cq := [x] })) kJobPhase ph) kStagingSize (2 ^ 20) with collGroups := [(0, group1)] }
/-- Commands of the bulk rows and the barrier, and those of the eight operators of HBREDUCE. -/
def collRows0 : List (Nat × Cmd) :=
  [(1, qCmd 1 15 0 0 0 0 0), (3, qCmd 3 15 0 0 0x1000 64 3), (4, qCmd 4 8 0 0 0x1000 64 3), (5, qCmd 5 8 0 0 0x1000 64 3),
   (6, qCmd 6 8 0 0 0x1000 64 3), (7, qCmd 7 15 0 0 0x1000 64 3), (8, qCmd 8 15 0 0 0x1000 64 3), (9, qCmd 9 15 0 0 0x1000 0 3)]
def hbRows0 : List (Nat × Cmd) :=
  (List.range 6).map (fun r => (r, qCmd 2 r 0 0 0x1000 0 3)) ++ [(6, qCmd 2 6 0xC0 0 0x1000 0 (2 * 8 + 3)), (7, qCmd 2 7 0 0 0x1000 0 3)]
/-- What the head of CQ meets: a skip, a skip once its sizes are read, a held abort of its instance, or none of them. -/
def collTry (x : Cmd) (s : State) : Option (Nat × Nat) :=
  let e : Ex := ⟨0, 0, .cq, x⟩
  if headReady (coreAt s 0) .cq && !collBusy s 0 (coreAt s 0) && cqPrep s 0 (fun _ => true) == s then
    match collSkip (taken s e) 0 0 x, (collRead0 s e).skip with
    | some st, _ => some (1, st)
    | none, some st => some (2, st)
    | none, none => some (if ((collEntered s e).collAborts.find? (fun a => a.g == qGroup x && a.inst == cqTakenOf (taken s e) 0 (qGroup x) && !a.solver)).isNone
        then 3 else 4, 0)
  else none

theorem witness_CollectiveRows :
    (∀ r ∈ collRows0, collTry r.2 (collState phStart r.2) = some (3, 0) ∧ w0Op r.2.w0 = r.1 ∧ collMine r.1 none r.2 = true) ∧
    (∀ r ∈ hbRows0, collTry r.2 (collState phStart r.2) = some (3, 0) ∧ w0Op r.2.w0 = 2 ∧ collMine 2 (some r.1) r.2 = true) := by decide +kernel
/-- A command that is skipped, one of a group that is not VALID, an ALLTOALLV whose regions meet, and an instance that is aborted already. -/
theorem witness_CollectiveSkips :
    (let x := { qCmd 3 15 0 0 0x1000 64 3 with w0 := BitVec.ofNat 64 (3 * 2 ^ 61 + 3 * 2 ^ 54 + 8 * 2 ^ 24) }
     collTry x (collState phStart x) = some (1, stIllegal)) ∧
    (let x := qCmd 3 15 0 0 0x1000 64 3
     collTry x { collState phStart x with collGroups := [] } = some (1, stIllegal) ∧
     collTry x { collState phStart x with collAborts := [⟨0, 0, false, ⟨0, 0x80, 0, 0, 0⟩⟩] } = some (4, 0)) ∧
    (let x := qCmd 9 15 0 0x2000 0x1000 0 3
     collTry x (collState phStart x (storeWrite {} 0x1000 (leBytes 8 0x2000))) = some (2, stIllegal)) := by decide +kernel

/-- A barrier in its course, and what it has at each stage. -/
def barrier0 : Cmd := qCmd 1 15 0 0 0 0 0
def barrierAt (c : CollCtl) : State := collState phRun barrier0 { collCmd := some barrier0, coll := c }
/-- Staging that now fits; a collective whose result is known, written and not; one that a relaying root counts. -/
theorem witness_CollectiveCourseRows_run :
    (let x := qCmd 5 8 0 0 0x1000 64 3
     let s := collState phStart x { collCmd := some x, coll := { stage := 1 } }
     CoreUp s 0 0 ∧ (coreAt s 0).collCmd = some x ∧ (collAt s 0).stage = 1 ∧ (collAt (reserveStaging (atTime s 0) 0 x) 0).stage = 2) ∧
    (∀ w ∈ [true, false], let s := barrierAt { stage := 3, known := true, wrote := w }
     let u := collSettle (metAbort [] none (atTime s 1999999))
     CoreUp s 0 0 ∧ keyOf u 0 = some 0 ∧ (coreAt u 0).collCmd = some barrier0 ∧ (collAt u 0).stage = 3 ∧
     timeNs u < (collAt u 0).taken + qTimeout u barrier0 ∧ (collAt u 0).known = true ∧ (collAt u 0).sends = [] ∧ (collAt u 0).wrote = w ∧
     collWaits u 0 = false ∧ (collAt u 0).lost = false ∧ (memReady u [] (resultRanges barrier0 (collAt u 0)) (.coll 0)).2 = true) ∧
    (let s := { withCore {} with collGroups := [(0, { group1 with localCount := 0, parent := 0xFFFF })] }
     s.up = true ∧ running s 0 (fun c => c.stage == 2) = [] ∧ (collGroup s 0).valid = true ∧ (collGroup s 0).localCount = 0 ∧
     (collGroup s 0).parent = 0xFFFF) := by
  simp only [CoreUp]; decide +kernel
/-- An entry round of one member that agrees, with the stacks free and not, and one that does not agree. -/
theorem witness_CollectiveCourseRows_entry :
    (∀ x ∈ [barrier0, qCmd 5 8 0 0 0x1000 64 0], let s := collState phRun x { collCmd := some x, coll := { stage := 2 } }
     (running s 0 (fun c => c.stage == 2)).filter (fun m => (collAt s m.2.1).inst == 0) = [(0, 0, x)] ∧
     (collGroup s 0).localCount ≤ 1 ∧ entryMismatch s (collGroup s 0) (w0Op x.w0) ([entryWords s (collGroup s 0) 0 x] ++ []) = false ∧
     (phaseReady s (collGroup s 0) [(0, 0, x)]).2 = true) ∧
    (let x := qCmd 5 8 0 0 0x1000 64 0
     let s := { collState phRun x { collCmd := some x, coll := { stage := 2 } } with stackWork := [(0, [4])] }
     (phaseReady s (collGroup s 0) [(0, 0, x)]).2 = false) ∧
    (let s := { barrierAt { stage := 2 } with collGroups := [(0, { group1 with total := 2 })] }
     entryMismatch s (collGroup s 0) 1 ([entryWords s (collGroup s 0) 0 barrier0] ++ []) = true) := by decide +kernel
/-- Timeouts of a collective and of a joint solve at the last instant. -/
theorem witness_CollectiveCourseRows_expiry :
    (let s := atTime (barrierAt { stage := 3 }) 2000000
     (coreAt s 0).collCmd = some barrier0 ∧ (collAt s 0).stage ≠ 0 ∧ (collAt s 0).taken + qTimeout s barrier0 ≤ timeNs s ∧
     keyOf (metAbort [0] none s) 0 = some 0) ∧
    (let s := atTime jointState 2000000
     (engineAt s (engineOf s 0)).job = some jointJob ∧ jointJob.n = 0 ∧ jointJob.jid ≠ 0 ∧ jointJob.got = none ∧
     jointJob.since + dget s kCollTimeoutDefault ≤ timeNs s) := by decide +kernel

/-- A relayed round that comes to a package that is not the root; segments that are awaited, and all of an all-gather. -/
theorem witness_CollectiveCourseRows_relay :
    (let s := { withCore {} with collGroups := [(0, { group1 with localCount := 0, parent := 1 })] }
     running s 0 (fun c => c.stage == 2) = [] ∧ (collGroup s 0).valid = true ∧ (collGroup s 0).localCount = 0 ∧ (collGroup s 0).parent ≠ 0xFFFF) ∧
    hasTree { group1 with localCount := 0, parent := 1 } = true ∧
    (∀ w ∈ ([2] : List Nat), w ∈ ({ wants := [2], segs := [2] } : CollCtl).segs) ∧
    segsAll group1 (qCmd 3 15 0 0 0x1000 64 3) { segs := [0] } = true ∧ segsAll group1 (qCmd 7 15 0 0 0x1000 64 3) { segs := [0] } = true := by
  decide +kernel

/-! ### Stacks and the fabric -/

/-- Port 0 is UP, with package 1 at its end, and every stack serves accesses. -/
def linked : State := { ready (withCore {}) with dict := [(kPortState, 2 ^ 25 + 64)] }
def stackBusy (w : Nat) : State := { withCore {} with stackWork := [(0, [w]), (15, [w])] }
/-- A line that another package's H-die holds alone, board agent 2. -/
def heldLine (s : State) : State := { s with dir := [⟨0, true, [2]⟩] }
/-- An atomic of a package whose request is too old, and its state. -/
def oldAtomic : AtomicOp := ⟨0, 0, 0, 1, 0, .home 0 { flit0 with w0 := BitVec.ofNat 64 (4 * 2 ^ 56) }, none, 0⟩
/-- Every kind of work of a stack, where the dictionary takes writes and where it does not; an atomic that is too old, one that may be applied and one whose
line must be snooped; a held write likewise, and a write-back. -/
theorem witness_StackRows :
    (dget linked kScrubInterval ≠ 0 ∧ 128 * (2 ^ 33 - 1) < 2 ^ 40 ∧ stackFree linked (stackOf linked (128 * (2 ^ 33 - 1))) = true) ∧
    phase State.reset = phIdle ∧ workOf State.reset 15 = 1 :: [2] ∧
    (∀ w ∈ [1, 2, 3, 4], workOf (stackBusy w) 0 = w :: [] ∧ workOf (stackBusy w) 15 = w :: []) ∧
    dictOpen State.reset = false ∧ dictOpen (dset State.reset kLifetimeState 1) = true ∧
    (let q : AtomicOp := ⟨0, 0, 0, 1, 0, .de 0, some 0, 0⟩
     let s := atomicPut linked q
     let next := fun (s : State) => (heldCow s).atomics.find? (fun q => q.st == 0 && (atomicOld (heldCow s) q || atomicFree (heldCow s) q))
     next s = some q ∧ atomicOld (heldCow s) q = false ∧ (memReady (heldCow s) [] [(0, 128)] q.who).2 = true ∧
     next (heldLine s) = some q ∧ (memReady (heldCow (heldLine s)) [] [(0, 128)] q.who).2 = false ∧
     (let u := atTime (atomicPut linked oldAtomic) (dget linked kRequestLifetime + 2048)
      next u = some oldAtomic ∧ atomicOld (heldCow u) oldAtomic = true)) ∧
    (∀ b ∈ [true, false], let h : HeldWrite := { line := 0, bytes := List.replicate 128 none, poison := false, who := .nobody, back := b }
      let s := { linked with held := [h] }
      heldNext s [] s.held = some h ∧ (memReady s [] [(h.line, 128)] h.who).2 = true ∧
      (memReady (heldLine s) [] [(h.line, 128)] h.who).2 = false) := by decide +kernel

/-- A flit of each kind from package 1 to package 0, laid out by R341–R343: VL, KIND, SRC and as many payload bytes as its kind has. -/
def flitOf (kind vl len : Nat) : Flit := { flit0 with w0 := BitVec.ofNat 64 (vl * 2 ^ 61 + kind * 2 ^ 56 + 16), payload := List.replicate len 0 }
def requests : List Flit :=
  [flitOf 1 0 0, flitOf 2 0 128, flitOf 3 0 144] ++ (List.range 6).map (fun i => flitOf (4 + i) 0 ((kindPayload (4 + i)).getD 0))
def flits : List Flit :=
  requests ++ [flitOf 0x0A 2 128, flitOf 0x0B 2 0, flitOf 0x0C 2 16, flitOf 0x0D 1 0, flitOf 0x0E 1 0, flitOf 0x0F 2 0, flitOf 0x10 2 128,
   flitOf 0x11 2 0] ++ [0x18, 0x19, 0x1A, 0x1C].map (fun k => flitOf k (if k = 0x1C then 2 else 4) ((kindPayload k).getD 0))
/-- A flit on the wire as the first of its link. -/
def onWire (f : Flit) : Flit := sealFlit f 0 4095 0 0
/-- The same request for the first line of this package's stacks on its board. -/
def forLine (f : Flit) : Flit := { f with w1 := BitVec.ofNat 64 (2 ^ 62) }

/-- A flit of every kind reaches its handler. -/
theorem witness_FlitAt : linked.up = true ∧ (∀ f ∈ flits ++ requests.map forLine, (arrive linked 0 (onWire f)).2 = some f) ∧
    flits.map (fun f => fKind (onWire f)) =
      [1, 2, 3, 4, 5, 6, 7, 8, 9, 0x0A, 0x0B, 0x0C, 0x0D, 0x0E, 0x0F, 0x10, 0x11, 0x18, 0x19, 0x1A, 0x1C] := by decide +kernel

/-- A request of a line of the stacks, of another place, and a write-back; one that waits at its home is served, must wait, and is too old. -/
theorem witness_FabricRequestRows :
    (∀ f ∈ requests, lineOf linked (forLine f) = some 0 ∧ lineOf linked f = none) ∧
    (let f := { forLine (flitOf 2 0 128) with co := 3 }
     (arrive linked 0 (onWire f)).2 = some f ∧ lineOf linked f = some 0) ∧
    (let q : Ingress := ⟨0, 0, false, forLine (flitOf 1 0 0)⟩
     let s := { linked with ingress := [q] }
     tooOld s q.f = false ∧ (ingressServe { s with ingress := [] } q []).2 = (true, [q], []) ∧
     (let u := { s with stackWork := [(0, [4])] }
      tooOld u q.f = false ∧ (ingressServe { u with ingress := [] } q []).2.1 = false) ∧
     tooOld (atTime s (dget s kRequestLifetime + 2048)) q.f = true) := by decide +kernel

/-- A request that names the snapshot block by its physical coordinate, in START. -/
theorem witness_snapLine :
    (let s := dset linked kJobPhase phStart
     ∀ f ∈ requests.take 3, let g := { f with w1 := BitVec.ofNat 64 (3 * 2 ^ 62 + unitCoord s 0 0x7F0 * 2 ^ 30 + 128) }
      (arrive s 0 (onWire g)).2 = some g ∧ snapLine s g = some 128) ∧
    (∀ f ∈ requests, snapLine linked (forLine f) = none) ∧ linked.relayQ = [] := by decide +kernel

/-- A reply finds no request, and finds its own. -/
def reqTo (kind : Nat) : Req := { fd := 0, tag := 0, first := 0, f := { flit0 with w0 := BitVec.ofNat 64 (kind * 2 ^ 56 + 2 ^ 22) }, who := .stripe }
theorem witness_FabricReplyRows :
    ∀ k ∈ [1, 2, 3, 4, 9], reqOf linked (flitOf 0x0A 2 128) (fun q => q == k) = none ∧
      reqOf { linked with reqs := [reqTo k] } (flitOf 0x0A 2 128) (fun q => q == k) = some (reqTo k) := by decide +kernel

/-- A reserved KIND, a reserved VL, a VL that does not match, a wrong length, and a reserved field: with a CRC that fails, out of order and in order;
at the last port too. -/
theorem witness_MalformedFlitsAreDropped :
    (∀ f ∈ [flitOf 0x1F 0 0, flitOf 1 5 0, flitOf 1 2 0, flitOf 1 0 8, { flitOf 1 0 0 with w0 := BitVec.ofNat 64 (2 ^ 56 + 17) }],
      malformed (onWire f) = true ∧ malformed f = true ∧ crcOk f = false ∧ crcOk (onWire f) = true ∧
      tLseq (onWire f).trailer = awaited (portAt linked 0) ∧ crcOk (sealFlit f 9 0 0 0) = true ∧
      tLseq (sealFlit f 9 0 0 0).trailer ≠ awaited (portAt linked 0)) ∧
    (let s := { withCore {} with dict := [(kPortState + 63, 3 * 2 ^ 24)] }; s.up = true ∧ portUp s 63 = true) ∧ portUp linked 0 = true := by decide +kernel

/-- Ports up with flits unacknowledged, training, with a peer that suits the port and one that does not. -/
theorem witness_LinkRows_ports :
    (∀ n ∈ [0, 15], let s := { linked with ports := [(0, { unacked := [flitOf 1 0 0], tries := [n] })] }
     s.up = true ∧ portUp s 0 = true ∧ (portAt s 0).unacked ≠ [] ∧ (portAt s 0).tries.any (15 ≤ ·) = (n == 15)) ∧
    (portSt State.reset 63 = 1 ∧ peerOk State.reset 0 1 = true ∧ peerOk State.reset 0 0 = false ∧ portSt State.reset 0 = 1) ∧
    (failedLanes [8]).length < 2 ∧ 2 ≤ (failedLanes [0, 8, 9]).length := by decide +kernel
/-- Timers of requests, of the transport and of replay entries at their instants, and before and after the lifetime. -/
theorem witness_LinkRows_timers :
    (let f := flitOf 1 0 0
     let s := { linked with sysTx := [(64, { un := [(0, 0, f)] })] }
     (sysTxAt s 64).un.find? (fun u => u.1 == 0) = some (0, 0, f) ∧ ageNs (atTime s (dget s kSysRetryInterval)) f < dget s kRequestLifetime ∧
     0 + dget s kSysRetryInterval ≤ timeNs (atTime s (dget s kSysRetryInterval)) ∧
     dget s kRequestLifetime ≤ ageNs (atTime s (dget s kRequestLifetime + 1024)) f) ∧
    (let s := { linked with reqs := [reqTo 4] }
     s.reqs.find? (fun r => r.fd == 0 && r.tag == 0) = some (reqTo 4) ∧ fKind (reqTo 4).f ≠ 2 ∧ fKind (reqTo 4).f ≠ 3 ∧
     ((reqTo 4).retries + 1) * dget s kE2eRetryInterval < dget s kRequestLifetime ∧
     (reqTo 4).first + ((reqTo 4).retries + 1) * dget s kE2eRetryInterval ≤ timeNs (atTime s 40000) ∧
     (reqTo 4).first + dget s kReplyTimeout ≤ timeNs (atTime s (dget s kReplyTimeout))) ∧
    (let r : Replay := ⟨0, 1, 0, 5, none⟩
     let s := { linked with replay := [r] }
     s.replay.find? (fun r => r.fd == 0 && r.src == 1 && r.tag == 0) = some r ∧ r.expiry ≤ timeNs (atTime s 5)) := by decide +kernel

/-! ### Colophons and the scope -/

/-- A context in each state, as root and not, whose timers run out. -/
def ctxState (x : Ctx) : State := { withCore {} with ctxs := [(15, x)] }
theorem witness_ColophonRows :
    (ctxAt (ctxState { state := 1 }) 15).state = 1 ∧ (ctxAt (ctxState {}) 15).state ≠ 1 ∧
    (∀ st ∈ [0, 3], let s := dset (ctxState { state := st, ownerBase := 16383 }) kOwnLogicalId 16383
     let x := ctxAt s 15
     (x.state = 0 ∨ x.state = 3) ∧ x.ownerBase + x.ownerCount ≤ 16384 ∧ x.ownerShift ≤ 32 ∧ x.ownerBase ≤ dget s kOwnLogicalId ∧
     dget s kOwnLogicalId < x.ownerBase + x.ownerCount) ∧
    (∀ i ∈ [0, 1], let s := ctxState { state := 2, ownIndex := i }
     (ctxAt s 15).state = 2 ∧ (ctxAt s 15).ownIndex = i ∧ ctxDrained s 15 = true ∧ (ctxAt s 15).localDone = false) ∧
    (let x : Ctx := { state := 2, ownIndex := 0, localDone := true, sealed := true }
     let s := ctxState x
     (ctxAt s 15).state = 2 ∧ (ctxAt s 15).localDone = true ∧ (ctxAt s 15).ownIndex = 0 ∧
     (List.range (ctxAt s 15).ownerCount).all (fun i => i == 0 || ([] : List Nat).contains i) = true ∧ (ctxAt s 15).sealed = true ∧
     partsFull (ctxAt s 15) [] = true ∧ (ctxAt s 15).closeAt + dget s kCloseTimeout ≤ timeNs (atTime s 10000000) ∧
     (ctxAt s 15).closeAt + 2 * dget s kCloseTimeout ≤ timeNs (atTime s 20000000)) ∧
    (let s := ctxState { state := 2, ownIndex := 1, localDone := true }
     (ctxAt s 15).state = 2 ∧ (ctxAt s 15).ownIndex ≠ 0 ∧ (ctxAt s 15).localDone = true ∧ (ctxAt s 15).sealed = false) ∧
    (let s := ctxState { state := 2, ownIndex := 0, ownerCount := 2, localDone := true }
     (ctxAt s 15).ownIndex = 0 ∧ (ctxAt s 15).sealed = false ∧
     (List.range (ctxAt s 15).ownerCount).all (fun i => i == 0 || ([] : List Nat).contains i) = false ∧
     (List.range (ctxAt s 15).ownerCount).all (fun i => i == 0 || ([1] : List Nat).contains i) = true) := by decide +kernel
/-- A leaf that arrives at its owner, one at another package, and the end of one that was sent; an attachment of a record and of none. -/
theorem witness_ColophonRows_leaves :
    (let l : LeafMsg := ⟨1, 1, 2 ^ 32 - 1, List.replicate 48 0, false, none, 0⟩
     let s := ctxState { state := 1, ownIndex := 0 }
     l.cls < 2 ∧ l.digest.length = 48 ∧ l.off < 2 ^ 32 ∧ l.ended = none ∧ ownerOf (ctxAt s 15) l.off = (ctxAt s 15).ownIndex ∧
     ownerOf (ctxAt (ctxState { state := 1, ownIndex := 1 }) 15) l.off ≠ (ctxAt (ctxState { state := 1, ownIndex := 1 }) 15).ownIndex) ∧
    (∀ st ∈ [stOk, stBounds], let l : LeafMsg := ⟨1, 1, 2 ^ 32 - 1, List.replicate 48 0, false, some st, 0⟩
     let s := ctxState { state := 1, awaits := [(1, 2 ^ 32 - 1)] }
     l.ended = some st ∧ (ctxAt s 15).awaits.contains (l.cls, l.off) = true) ∧
    (∀ w ∈ [0x0F, 0x10F], (BitVec.ofNat 64 w).toNat % 16 = 15 ∧ (BitVec.ofNat 64 w).getLsbD 8 = (w == 0x10F)) ∧
    (ctxAt (ctxState { state := 3 }) 15).state = 3 ∧ (ctxAt (ctxState {}) 15).state ≠ 3 := by decide +kernel

/-- IDLE with no context open allows the write of the scope, an OPEN context forbids it; it is held while the records load. -/
theorem witness_DeterminismScopeRow : State.reset.up = true ∧ dictOpen State.reset = false ∧
    dictOpen (dset State.reset kLifetimeState 1) = true ∧ phase (dset State.reset kLifetimeState 1) = phIdle ∧
    (2 ≤ 2 ∧ (phase State.reset = phIdle ∨ (phase State.reset = phStart ∧ formeRuns State.reset = false)) ∧
      ∀ x ∈ State.reset.ctxs, x.2.state ≠ 1 ∧ x.2.state ≠ 2) ∧
    ¬ ∀ x ∈ (ctxState { state := 1 }).ctxs, x.2.state ≠ 1 ∧ x.2.state ≠ 2 := by decide +kernel

/-! ### Power, time and reset -/

/-- Readings below and at the trip; domains in an emergency, cool, idle and with cause to wake; the H-die domains; holdover. -/
theorem witness_PowerRows :
    ([(0, 1249)] : List (Nat × Nat)).any (fun p => 1250 ≤ p.2) = false ∧ ([(0, 1250)] : List (Nat × Nat)).any (fun p => 1250 ≤ p.2) = true ∧
    (let s := withCore {}; s.up = true ∧ s.hold = false ∧ s.zeroing = false) ∧
    (∀ v ∈ [0, 3], let s := { withCore {} with doms := [(399, { domDflt 399 with em := true, temp := 5000, vstep := v })] }
      (domAt s 399).em = true ∧ tLimit s ≤ (domAt s 399).temp ∧ (domAt s 399).stepAt + 20000 ≤ timeNs (atTime s 20000) ∧ (domAt s 399).vstep = v) ∧
    (let s := { withCore {} with doms := [(511, { domDflt 511 with em := true, coolFrom := some 0 })] }
     (domAt s 511).em = true ∧ (domAt s 511).coolFrom = some 0 ∧ 0 + 100000 ≤ timeNs (atTime s 100000)) ∧
    (let s := withCore {}
     dget s kRetainDelay ≠ 0 ∧ s.zeroing = false ∧ (domAt s 335).st = 2 ∧ (domAt s 335).idleFrom + dget s kRetainDelay ≤ timeNs (atTime s 20000) ∧
     clusterIdle (atTime s 20000) 335 = true) ∧
    (let s := { withCore { launchQ := [⟨[0], 0, 0, 0⟩] } with doms := [(0, { domDflt 0 with st := 1 })] }
     wakeCause s 0 = true ∧ (domAt s 0).st ≠ 2) ∧
    (let s := dset (withCore {}) kLifetimeState 1; dictOpen s = true ∧ hostDomainsOk s 0 none = true) ∧ dictOpen (withCore {}) = false ∧
    (let s := dset (withCore {}) kTimeState 1
     (dget s kTimeState = 1 ∨ dget s kTimeState = 2) ∧ s.lastSync + 2000000000 ≤ timeNs (atTime s 2000000000)) := by decide +kernel

/-- A solver engine's domain idle for RETAIN_DELAY, wanted and not; HOST_DOMAINS_OFF against the writer's own group. -/
theorem witness_PowerRows_engines :
    (let s := withCore {}
     (domAt s 399).st = 2 ∧ (domAt s 399).idleFrom + dget s kRetainDelay ≤ timeNs (atTime s 20000) ∧ engineWanted (atTime s 20000) 63 = false) ∧
    (let s := { withCore {} with engines := [(63, { job := some jointJob })] }
     (domAt s 399).st = 2 ∧ engineWanted (atTime s 20000) 63 = true) ∧
    (let s := dset (withCore {}) kLifetimeState 1
     dictOpen s = true ∧ hostDomainsOk s 1 (some 7) = false ∧ hostDomainsOk s 1 (some 8) = true) := by decide +kernel

theorem witness_TimeSyncRow : State.reset.up = true ∧ phase State.reset = phIdle ∧ (1000000 : Int) < 1000001 ∧
    (phase State.reset ≠ phIdle ∨ (1000000 : Int) ≤ 1000000) := by decide +kernel

theorem witness_ResetRows : (enterReset State.reset).up = false ∧ (enterReset State.reset).tripped = State.reset.tripped ∧
    (enterReset { State.reset with tripped := true }).tripped = true ∧ State.reset.up = true ∧ State.reset.zeroing = true := by decide +kernel

/-- The step answers a next state. -/
def goes (o : Host.Outcome State Fault Refusal) : Bool := match o with | .next _ => true | _ => false

/-- The invariant has a state in reset that steps. -/
theorem witness_OffIsInvariant : Off (enterReset State.reset) ∧ goes (step (enterReset State.reset)) = true := by
  refine ⟨fun _ => ?_, by decide +kernel⟩
  rfl

theorem witness_StepIdles : State.reset.pending = [] ∧ State.reset.up = true ∧ (enterReset State.reset).pending = [] ∧
    (enterReset State.reset).up = false := by decide +kernel
theorem witness_StepRunsFrontCommand : ({ State.reset with pending := [.budgetDecision, .take] } : State).pending = .budgetDecision :: [.take] := rfl
theorem witness_ResetHoldsThePackage : (enterReset State.reset).up = false ∧ (∀ p b, Instr.take ≠ .powerUpResetRelease p b) ∧
    (∀ ns, Instr.take ≠ .vin48UnderVoltage ns) ∧ ∀ ns, Instr.take ≠ .pkgrstNAssert ns :=
  ⟨by decide +kernel, fun _ _ h => Instr.noConfusion h, fun _ h => Instr.noConfusion h, fun _ h => Instr.noConfusion h⟩

/-! ### Phases, checks, lifetime -/

def inPhase (p : Nat) : State := dset (dset (ready (withCore {})) kJobPhase p) kLifetimeState 1
theorem witness_PhaseRows :
    (∀ p ∈ [(0, 1), (1, 2), (1, 3), (1, 5), (2, 3), (2, 4), (2, 5), (3, 2), (3, 1), (3, 5), (4, 2), (4, 5)], phase (inPhase p.1) = p.1) ∧
    (phase (inPhase 5), 0) ∉ [(0, 1), (1, 2), (1, 3), (1, 5), (2, 3), (2, 4), (2, 5), (3, 2), (3, 1), (3, 5), (4, 2), (4, 5)] ∧
    (∀ p, p < 6 → dictOpen (inPhase p) = true) ∧ dictOpen (ready (withCore {})) = false ∧
    (let s := inPhase phTeardown
     phase s = phTeardown ∧ quiet (atTime s 10000000000) = true ∧ s.reqs = [] ∧ s.issueQ = [] ∧
     s.lastIssue + dget s kRequestLifetime ≤ timeNs (atTime s 10000000000)) ∧
    (phase (inPhase 0) = phIdle ∧ (1 : Word).toNat ≠ dget (inPhase 0) kLastEpoch ∧ (0xFFFF : Word).toNat = dget (inPhase 0) kLastEpoch) ∧
    (phase (inPhase 3) = phTest ∧ (1 : Word).toNat ≠ dget (inPhase 3) kJobEpoch ∧ (inPhase 3).reqs = [] ∧
      ({ inPhase 3 with reqs := [reqTo 1] } : State).reqs ≠ [] ∧ dictOpen { inPhase 3 with reqs := [reqTo 1] } = true) ∧
    (inPhase 0).up = true := by decide +kernel

/-- Writes of STACK_RETRAIN, STACK_CLEAR and PORT_RETRAIN in phases that accept them and in RUN. -/
theorem witness_retrain : (∀ p ∈ [phIdle, phTest, phRecovery], dictOpen (inPhase p) = true ∧ phase (inPhase p) = p) ∧
    dictOpen (inPhase phRun) = true ∧ phase (inPhase phRun) ≠ phIdle ∧
    ¬(phase (inPhase phRun) = phIdle ∨ phase (inPhase phRun) = phTest ∨ phase (inPhase phRun) = phRecovery) := by decide +kernel

/-- A leaf of this epoch and of another; an epoch advance with a leaf outstanding, and a START from IDLE. -/
theorem witness_epochs : (0 : Nat) = dget (ctxState {}) kJobEpoch ∧ (1 : Nat) ≠ dget (ctxState {}) kJobEpoch ∧
    (let s := { inPhase phTest with ctxs := [(0, ({ state := 1, awaits := [(0, 0)] } : Ctx))] }
     dictOpen s = true ∧ phase s = phTest ∧ (1 : Word).toNat ≠ dget s kJobEpoch ∧ ¬(s.reqs = [] ∧ ∀ c ∈ s.ctxs, c.2.awaits = [])) ∧
    (∀ c ∈ (inPhase phTest).ctxs, c.2.awaits = []) := by decide +kernel
theorem witness_StartResetsEngines : (inPhase phIdle).up = true ∧ dictOpen (inPhase phIdle) = true ∧ phase (inPhase phIdle) = phIdle ∧
    dget (inPhase phIdle) kSetupKey = 0 := by decide +kernel

theorem witness_RecoveryAbandonsContexts :
    (let s := { inPhase phRun with ctxs := [(0, ({ state := 1 } : Ctx)), (15, { state := 3 })] }
     s.up = true ∧ dictOpen s = true ∧ phase s = phRun ∧ (ctxAt s 0).state = 1 ∧ (ctxAt s 15).state ≠ 1 ∧ (ctxAt s 15).state ≠ 2 ∧
     goes (exec (.jobPhaseWrite phRecovery) s) = true) := by decide +kernel

/-- A unit of every kind whose pass is due, at the ends of its numbers; a pass that has found its outcome; a core marked for sparing. -/
def dueState (u : ProofUnit) : State := { ready (withCore {}) with proofs := [(u, 0)] }
def marked0 : State := ready (withCore { marked := true })
def safe0 (s : State) : State := dset s kLifetimeState 2
def end0 : ProofEnd := ⟨.core 0, 1, 0, 0, 0⟩
theorem witness_ProofPassRows_due : passDue (dueState (.bank 511)) (.bank ((2 ^ 32 - 1) / 2 ^ 23)) = true ∧
    (2 ^ 32 - 1) / 2 ^ 23 / 32 = 15 ∧ keyOf (dueState (.sram 15)) 0 = some 0 ∧ passDue (dueState (.sram 15)) (.sram (16 * 0 + 15)) = true ∧
    (coreAt (dueState (.sram 15)) 0).run = none ∧ passDue (dueState (.core 0)) (.core 0) = true ∧
    passDue (dueState (.port 63)) (.port 63) = true ∧ recordsSafe (dueState (.bank 511)) = false ∧ recordsSafe (dueState (.sram 15)) = false ∧
    recordsSafe (dueState (.core 0)) = false ∧ recordsSafe (safe0 (dueState (.bank 511))) = true ∧
    passDue (safe0 (dueState (.bank 511))) (.bank 511) = true := by decide +kernel
theorem witness_ProofPassRows_detected :
    recordsSafe (detect linked 0x0B (unitCoord linked 1 0x7E0) 15 (.fdieMacro 31)) = false ∧
    recordsSafe (detect linked 0x0C (unitCoord linked 0 0x7F0) 31 (.hdieWay 31)) = false ∧
    bitOf (dget linked kHdieWaysDisabled) (16 * 65 + 15) = false ∧
    passDue (detect linked 0x0C (unitCoord linked 0 0x7F0) 1055 (.hdieWay 1055)) (.hdieWay 1055) = true ∧
    passDue (detect linked 0x0B (unitCoord linked 1 0x7E0) 15 (.fdieMacro 31)) (.fdieMacro 31) = true ∧
    bitOf (dget linked kHdieWaysDisabled) (16 * 1 + 15) = false ∧
    passDue (detect linked 0x0C (unitCoord linked 0 0x7F0) 31 (.hdieWay 31)) (.hdieWay 31) = true := by decide +kernel
theorem witness_ProofPassRows_end :
    ({ dueState (.core 0) with proofDone := [end0] } : State).proofDone.find? (fun p => p.unit == .core 0) = some end0 ∧
    (dueState (.core 0)).proofs.find? (fun p => p.1 == .core 0) = some (.core 0, 0) := by decide +kernel
theorem witness_ProofPassRows_yields :
    (let s := { marked0 with cores := [(0, { marked := true }), (1, { marked := true })] }
     sparingDue s 1 = true ∧ sparingYields s 1 1 = true ∧ keyOf s 1 = some 1) ∧
    recordsSafe (safe0 marked0) = true ∧ sparingDue (safe0 marked0) 0 = true := by decide +kernel
theorem witness_ProofPassRows_sparing : keyOf marked0 0 = some 0 ∧ sparingDue marked0 0 = true ∧ sparingYields marked0 0 0 = false ∧
    recordsSafe marked0 = false ∧
    (usableSpares marked0 0).dropWhile (fun p => (usableSpares marked0 0).contains p) = [] ∧
    ∃ p l, (usableSpares marked0 0).dropWhile (fun p => ([] : List Nat).contains p) = p :: l := by
  refine ⟨by decide +kernel, by decide +kernel, by decide +kernel, by decide +kernel, ?_, ?_⟩
  · rw [List.dropWhile_eq_nil_iff]; intro x hx; simpa using hx
  · have hm : 1343 ∈ usableSpares marked0 0 := List.mem_filter.2 ⟨List.mem_range.2 (by decide), by decide +kernel⟩
    cases h : usableSpares marked0 0 with
    | nil => rw [h] at hm; cases hm
    | cons p l => exact ⟨p, l, by simp⟩

theorem witness_MonitorAndLifetimeRows :
    (let s := withCore {}
     (monAt s 511).window ≠ 0 ∧ (timeNs (atTime s 1000000) - (monAt s 511).start) / (monAt s 511).window = 1 ∧
     2 ≤ (timeNs (atTime s 2000000) - (monAt s 511).start) / (monAt s 511).window ∧ monSourceOk s 0 = true ∧
     (MonWrite.source 0 = .source 0) ∧ monWindowOk 1000000 = true ∧ s.occAt + 1000 ≤ timeNs (atTime s 1000) ∧ timeNs (atTime s 999) < s.occAt + 1000 ∧
     dictOpen s = false ∧ dictOpen (dset s kLifetimeState 1) = true) ∧
    (let s := { dset (withCore {}) kLifetimeState 1 with calSeq := 1 }
     recordsOpen s = true ∧ s.countsAt + 600000000000 ≤ timeNs (atTime s 600000000000) ∧ s.calDone < s.calSeq ∧ phase s = phIdle ∧ dictOpen s = true ∧
     (nvmNewer s).isSome = true ∧ nvmNewer { s with nvmA := {} } = none) ∧ recordsOpen (dset (withCore {}) kLifetimeState 2) = false ∧
    phase State.reset = phIdle ∧ dget State.reset kLifetimeState = 0 ∧ (nvmNewer State.reset).isSome = true ∧
    nvmNewer { State.reset with nvmA := {} } = none := by decide +kernel

/-! ### Snapshots -/

/-- A package of a parity group of eight, logical 0 to 7 on boards of their own, with one 64 KiB stripe and no state region. -/
def snapState (ph : Nat) (x : Snap) : State :=
  { dset (dset (dset (dset (dset (inPhase ph) kSnapStripeSize 65536) kSnapStripeBase (2 ^ 30)) kSnapLocalBase 0) kOwnLogicalId 0)
      kSnapGroupMembers ((List.range 8).foldl (fun a l => a + l * 2 ^ (16 * l)) 0) with
    trans0 := (List.range 8).map (fun l => (l, 2 ^ 63 + 4 * l)), collGroups := [(0, group1)], snap := x }
theorem witness_SnapshotRows_take : (let s := snapState phRun {}
    s.up = true ∧ phase s = phRun ∧ s.snap.state = 0 ∧ snapGeometry s = true ∧ snapGroupOk s = true) ∧
    (∀ l ∈ [1, 2], let s := snapState phRecovery { restoreGen := 1, localGen := l, localComplete := true }
     (phase s = phStart ∨ phase s = phRecovery) ∧ s.snap.state = 0 ∧ snapGeometry s = true ∧ snapGroupOk s = true ∧ s.snap.restoreGen ≠ 0 ∧
     quiet s = true ∧ s.snap.localGen = l ∧ s.snap.localComplete = true) ∧
    quiet (snapState phRecovery { restoreGen := 1 }) = true ∧
    quiet { snapState phRecovery { restoreGen := 1 } with cores := [(0, { run := some run0 })] } = false ∧
    (snapGeometry (inPhase phRun) = false ∨ snapGroupOk (inPhase phRun) = false) := by decide +kernel
/-- The generation copies its one part, is striped and confirmed, and lapses at its timeout; a restore from the group, and its end. -/
theorem witness_SnapshotRows_course :
    (let s := snapState phRun { state := 1, lens := [(63, 65536)] }
     s.snap.state = 1 ∧ stackFree s 0 = true ∧ nextPart s 0 = some 0) ∧
    (let s := snapState phRun { state := 1 }
     s.snap.state = 1 ∧ allCopied s = true) ∧
    (let s := snapState phRun { state := 2 }
     s.snap.state = 2 ∧ s.reqs.any (fun r => r.who == .stripe) = false ∧ s.issueQ.any (fun r => r.who == .stripe) = false) ∧
    (∀ d ∈ [SnapDecision.commit, .fail, .abort], let s := snapState phRun { state := 3, decided := some (decisionCode d) }
      s.snap.state ≠ 0 ∧ s.snap.state ≠ 4 ∧ s.snap.decided = some (decisionCode d)) ∧
    (∀ n ∈ [1, 3], let s := { snapState phRun { state := n } with collGroups := [(0, { group1 with parent := 1 })] }
      s.snap.state ≠ 0 ∧ s.snap.state ≠ 4 ∧ s.snap.decided = none ∧ (collGroup s (dget s kSnapHbGroup)).parent ≠ 0xFFFF) ∧
    (let s := snapState phRun { state := 3 }
     s.snap.state ≠ 0 ∧ s.snap.state ≠ 4 ∧ s.snap.decided = none ∧ s.snap.abortSent = false ∧
     s.snap.takenAt + dget s kSnapTimeout ≤ timeNs (atTime s (dget s kSnapTimeout))) ∧
    (∀ n ∈ [0, 1], let s := snapState phRecovery { state := 4, remote := true, lens := [(0, 128 * n)] }
     s.snap.state = 4 ∧ s.snap.remote = true ∧ s.snap.striped = false ∧ s.reqs ++ s.issueQ = [] ∧
     ((((dataLines s).filter (fun l => mustForm s l.1 l.2)).map (·.2)).eraseDups).filter
       (fun o => (gotLine s 6 o).2 == 0 && excluded s != some 6) = List.replicate n 0) ∧
    (let s := snapState phRecovery { state := 4, striped := true, lens := [(0, 128)] }
     s.snap.state = 4 ∧ s.snap.striped = true ∧ (memReady s [localArea s] (stateRegions s) .nobody).2 = true ∧
     (memReady { s with stackWork := [(0, [4])] } [localArea s] (stateRegions s) .nobody).2 = false) := by decide +kernel

/-- A local restore, and a generation whose abort came before its take. -/
theorem witness_SnapshotRows_early : (snapState phRun { early := some 1 }).snap.early = some (1 % 2 ^ 24) ∧
    (snapState phRun {}).snap.early ≠ some (1 % 2 ^ 24) := by decide +kernel

/-! ### The H-die, CXL, rings -/

/-- Hart 63 is released; the package has a peer on port 0, an aperture to itself and one to another package. -/
def hartState : State := { dset (dset (inPhase phRun) (kPortState) (2 ^ 25 + 64)) kOwnLogicalId 5 with
  released := 2 ^ 63, apertures := [(255, 2 ^ 63 + 5), (254, 2 ^ 63 + 7)], trans0 := [(5, 2 ^ 63), (7, 2 ^ 63 + 4)] }
/-- The kind of place that an address of eight bytes names. -/
def placeOf (pa : Nat) : Nat := match paDecode hartState pa 8 with
  | .fault _ => 0 | .line _ => 1 | .host _ => 2 | .store _ _ => 3 | .reg _ => 4 | .mem _ => 5 | .away _ => 6
/-- An address of every kind, the last of its place where it has one, aligned and not. -/
theorem witness_HartRows_places : hartState.up = true ∧ hartUp hartState 63 = true ∧ (∀ n ∈ [1, 2, 4, 8], sizeOk n = true) ∧ sizeOk 3 = false ∧
    (∀ need ∈ [1, 2, 3, 4], pmpOk hartState 63 (2 ^ 56 - 8) 8 need = true) ∧
    pmpOk { hartState with harts := [(63, { priv := 0 })] } 63 0 8 1 = false ∧
    [2 ^ 53, 2 ^ 40 - 8, 3 * 2 ^ 54 + 2 ^ 52 - 8, 2 ^ 44 + 0x7FFF8, 0x280000000500, 2 * 2 ^ 54 + 255 * 2 ^ 46 + 8, 2 * 2 ^ 54 + 254 * 2 ^ 46 + 8].map
      placeOf = [0, 1, 2, 3, 4, 5, 6] ∧ aligned (2 ^ 44 + 0x7FFF8) 8 = true ∧ aligned 0x280000000500 8 = true ∧ aligned 9 8 = false ∧
    placeOf (2 ^ 54 + 2 ^ 48 + 8) = 1 ∧ (match awayLine .add (paDecode hartState (2 ^ 54 + 2 ^ 48 + 8) 8) (2 ^ 54 + 2 ^ 48 + 8) with
      | .away a => decide (offOf a < 2 ^ 40) | _ => false) = true ∧
    (memReady hartState [(8, 8)] [] (.hart 63)).2 = true ∧ (memRange (memReady hartState [(8, 8)] [] (.hart 63)).1 8 8 (.hart 63)).2.2 = 0 ∧
    (memRange { hartState with marks := [(0, true)] } 8 8 (.hart 63)).2.2 ≠ 0 ∧
    (memReady { hartState with stackWork := [(0, [4])] } [(8, 8)] [] (.hart 63)).2 = false := by decide +kernel
/-- A line that is to be had, one that another package holds, and one that is poisoned, for a load and a store. -/
theorem witness_HartRows_lines :
    (hLines (2 ^ 33 - 1) (2 ^ 40 - 8) 8).all (hFree hartState) = true ∧
    (∀ c ∈ [0, 1, 5], (hFetchAll hartState 63 (2 ^ 40 - 8) (hLines (2 ^ 33 - 1) (2 ^ 40 - 8) 8) c).2 = 0 ∧
      (hFetchAll (heldLine hartState) 63 0 (hLines 0 0 8) c).2 = 1 ∧
      (hFetchAll { hartState with marks := [(0, true)] } 63 0 (hLines 0 0 8) c).2 = 2) := by decide +kernel
/-- Its timer, its fence, a release before and after the boot image runs, and the operations of an AMO. -/
theorem witness_HartRows_rest : hartOutstanding hartState 63 = false ∧
    mtimecmpOf { hartState with mtimecmp := [(63, 2 ^ 64 - 6)] } 63 ≤ timeNs (atTime { hartState with mtimecmp := [(63, 2 ^ 64 - 6)] } 5) ∧
    dget (dset hartState kBootState 2) kBootState = 2 ∧ dget hartState kBootState ≠ 2 ∧
    (amoRemote .add).isSome = true ∧ amoRemote .xor = none ∧ bitOf (hartCsr hartState 63 0x304) 7 = false ∧
    bitOf (hartCsr { hartState with harts := [(63, { priv := 0, csr := [(0x304, 0x80)] })] } 63 0x304) 7 = true := by decide +kernel
theorem witness_HartRows_cas : (∀ e, HartAmo.add ≠ .cas e) ∧ HartAmo.cas 0 = .cas 0 := ⟨fun _ h => HartAmo.noConfusion h, rfl⟩

/-- A register and a core store behind links that are exhausted; an AMO of each place; an interrupt that a hart takes and none. -/
theorem witness_HartRows_links :
    (let s := { hartState with dieParity := [(dieLinkOf 8 10, (1, 16)), (dieLinkOf 0 8, (1, 16))] }
     ∃ r, paDecode s 0x240000000000 8 = .reg r ∧ (regTry (regTouch s r) (.hart 63) r).2 ≠ 0 ∧
      (regTry (regTouch hartState r) (.hart 63) r).2 = 0 ∧ (dieTry s (.hart 63) 0).2 ≠ 0) := ⟨_, rfl, by decide +kernel⟩

/-- What an AMO's address names, by the numbers of `placeOf`. -/
def amoPlace (op : HartAmo) (pa : Nat) : Nat := match awayLine op (paDecode hartState pa 8) pa with
  | .fault _ => 0 | .line _ => 1 | .host _ => 2 | .store _ _ => 3 | .reg _ => 4 | .mem _ => 5
  | .away a => if offOf a < 2 ^ 40 then 6 else 7
theorem witness_HartRows_amo :
    [2 ^ 53, 0, 3 * 2 ^ 54, 2 ^ 44, 0x280000000500, 2 * 2 ^ 54 + 255 * 2 ^ 46 + 8, 2 ^ 54 + 2 ^ 48 + 8, 2 * 2 ^ 54 + 254 * 2 ^ 46 + 2 ^ 44].map
      (amoPlace .add) = [0, 1, 2, 3, 4, 5, 6, 7] ∧ amoPlace .lr (2 ^ 54 + 2 ^ 48 + 8) = 1 := by decide +kernel
theorem witness_HartRows_interrupt :
    (let s := { hartState with mtip := 2 ^ 63, harts := [(63, { priv := 0, csr := [(0x304, 0x80)] })] }
     irqOrder.find? (irqTaken s 63) = some 7) ∧ irqOrder.find? (irqTaken hartState 63) = none := by decide +kernel

/-- A decoder free, an address that a committed one decodes, a line held for the host. -/
def cxlState : State := { inPhase phRun with
  cxl := { hdm := [(1, { base := 0, size := 2 ^ 28, committed := true })] }, hcache := [(3 * 2 ^ 47, { bytes := List.replicate 128 0, dirty := true, excl := true })] }
/-- The same with the line held by another package, whom port 0 reaches. -/
def cxlHeld : State := { dset cxlState kPortState (2 ^ 25 + 64) with dir := [⟨2, true, [2]⟩] }
theorem witness_CxlRows : cxlState.up = true ∧ (hdmAt cxlState 0).committed = false ∧ (hdmAt cxlState 1).committed = true ∧
    hdmDecode cxlState 256 = some 256 ∧ hdmDecode cxlState (2 ^ 28) = none ∧ stackFree cxlState (stackOf cxlState (256 / 128 * 128)) = true ∧
    (∀ own ∈ [false, true], dirIdle cxlState [(256, 128)] = true ∧
      dirIdle (agentRead cxlState 256 (ownAgent cxlState + 1) own hostOwner) [(256, 128)] = true ∧ dirIdle cxlHeld [(256, 128)] = true ∧
      dirIdle (agentRead cxlHeld 256 (ownAgent cxlHeld + 1) own hostOwner) [(256, 128)] = false) ∧ hdmDecode cxlHeld 256 = some 256 ∧
    (hLine cxlState (3 * 2 ^ 47 + 0)).bytes ≠ [] ∧ (hLine cxlState (3 * 2 ^ 47 + 1)).bytes = [] := by decide +kernel

/-- A ring enabled and not, with and without a doorbell in memory, with a record to take, to deliver, and to complete. -/
def ringState (x : Ring) : State := { inPhase phRun with rings := [(16383, x)] }
def rec0 (todo : List Nat) (stored : Bool := false) : RingRec := ⟨0, 0, [], 0, todo, [], 0, stored⟩
theorem witness_RingRows : (ringState {}).up = true ∧ (BitVec.ofNat 64 (2 ^ 63)).getLsbD 63 = true ∧
    (ringAt (ringState { enable := true }) 16383).enable = true ∧ (ringAt (ringState {}) 16383).dbMem = false ∧
    (ringAt (ringState { enable := true, dbMem := true }) 16383).dbMem = true ∧
    (let x : Ring := { enable := true, st := 1, size := 4, producer := 1 }
     let s := ringState x
     ringAt s 16383 = x ∧ x.waitDb = false ∧ x.st = 1 ∧ x.enable = true ∧ x.consumer ≠ x.producer ∧
     (x.consumer + 2 ^ 32 - x.completed) % 2 ^ 32 < 2 ^ x.size ∧ (memReady s [(x.base + 128 * (x.consumer % 2 ^ x.size), 128)] [] .nobody).2 = true) ∧
    (ringAt (ringState { recs := [rec0 [0]] }) 16383).recs.find? (fun y => !y.todo.isEmpty) = some (rec0 [0]) ∧
    ((ringAt (ringState { recs := [rec0 []] }) 16383).recs = rec0 [] :: [] ∧ (rec0 []).todo = [] ∧ (rec0 []).out = [] ∧
      (memReady (ringState { recs := [rec0 []] }) [] [(0 + 16 * ((rec0 []).idx % 2 ^ 0), 16)] .nobody).2 = true) ∧
    (let s := { ringState { recs := [rec0 [] true] } with held := [{ line := 0, bytes := List.replicate 128 none, poison := false, who := .nobody }] }
     (rec0 [] true).stored = true ∧ s.held.any (fun h => h.who == .nobody && h.line == 0) = true) := by decide +kernel

/-- A ring that may be enabled, without and with a doorbell in memory, and one whose rings meet. -/
def ringOk (x : Ring) (v : Nat) : Bool :=
  let s := ringState x
  let y := ringConfig x v
  let both := fun (a n b m : Nat) => decide (a < b + m) && decide (b < a + n)
  let rec_ := 2 ^ y.size * 128
  let cq := 2 ^ y.size * 16
  decide (y.st = 0) && decide (y.size ≤ 16) && y.base % 4096 == 0 && y.cq % 4096 == 0 && decide (y.base + rec_ ≤ 2 ^ 40) && decide (y.cq + cq ≤ 2 ^ 40) &&
    !both y.base rec_ y.cq cq && (!y.dbMem || (y.db % 8 == 0 && decide (y.db + 8 ≤ 2 ^ 40) && !both y.db 8 y.base rec_ && !both y.db 8 y.cq cq &&
      s.rings.all (fun q => q.1 == 16383 || !q.2.enable || !q.2.dbMem || q.2.db != y.db)))
theorem witness_RingRows_enable :
    [({}, 2 ^ 63), ({ cq := 2 ^ 40 - 4096 }, 2 ^ 63 + 16), ({ cq := 2 ^ 40 - 2 ^ 20 }, 2 ^ 63 + 16), ({ cq := 2 ^ 40 - 4096 }, 2 ^ 63 + 8),
     ({ cq := 4096, db := 8 }, 2 ^ 63 + 2 ^ 62), ({ cq := 4096, db := 2 ^ 40 - 8 }, 2 ^ 63 + 2 ^ 62)].map
      (fun p => ringOk p.1 p.2) = [false, false, true, true, false, true] := by decide +kernel

/-! ### Trust and Fovis -/

/-- The verifier with each request at the head of its queue, for good and bad signatures. -/
def trustState (q : SigReq) : State := { dset (inPhase phIdle) kBootState 1 with trust := { queue := [q], bootRead := true } }
theorem witness_TrustRows : (trustState .boot).up = true ∧ dictOpen (trustState .boot) = true ∧ dictOpen State.reset = false ∧
    (trustState .boot).trust.bootRead = true ∧ ({ trustState .boot with trust := { queue := [.boot] } } : State).trust.bootRead = false ∧ (trustState .boot).trust.queue = .boot :: [] ∧ dget (trustState .boot) kBootState = 1 ∧
    ((if (trustState .boot).trust.bootPre != 0 then (trustState .boot).trust.bootPre else if !(true && true) then 7 else 1) = 1) ∧
    ((if (trustState .boot).trust.bootPre != 0 then (trustState .boot).trust.bootPre else if !(true && false) then 7 else 1) ≠ 1) ∧
    phase (trustState .boot) = phIdle ∧ trustFull (trustState .boot) = false ∧ (trustState .table).trust.queue = .table :: [] ∧
    (List.replicate 32 (0 : Byte)).length = 32 ∧ (trustState (.attest 7)).trust.queue = .attest 7 :: [] ∧
    (trustState (.sign 4095)).trust.queue = .sign 4095 :: [] ∧ dget (dset (trustState .boot) kBootState 3) kBootState ≠ 1 := by decide +kernel

/-- The verifier before it reads the image, and after: refused, and good. -/
theorem witness_TrustRows_boot :
    (∀ c ∈ [0, 7], let s := { trustState .boot with trust := { queue := [.boot], bootRead := true, bootPre := c } }
     s.trust.queue = .boot :: [] ∧ dget s kBootState = 1 ∧ s.trust.bootRead = true ∧ s.trust.bootPre = c) ∧
    (let s := { trustState .boot with trust := { queue := [.boot] } }
     (bootTry s).trust.bootRead = true ∧ (bootTry s).trust.bootPre ≠ 0 ∧ (bootTry s).trust.bootPre ≠ 1) := by decide +kernel

/-- A request of an operation (R516, R517) with one item of index 0x1000, sub-index 1, and a value of no bytes. -/
def pduOf (op : Nat) : List Byte := leBytes 8 (32 * 2 ^ 48 + 2 ^ 32 + op * 2 ^ 24 + 2 ^ 16 + 0x5646) ++ leBytes 8 7 ++ leBytes 8 (2 ^ 16 + 0x1000) ++ leBytes 8 0
def fovis0 : State := dset (inPhase phIdle) kLifetimeState 1
def boxState (m : Nat) (pdu : List Byte) : State := { fovis0 with mboxes := [(m, { st := 1, req := memWrite [] 0 pdu })] }
def ops : List Nat := [1, 2, 3, 4, 0x10, 0x11, 0x12, 0x13]
/-- A mailbox with a request of every operation, with a malformed one, and with none; a write while an earlier one waits. -/
theorem witness_FovisDoes_box :
    (∀ op ∈ ops, (parsePdu (pduOf op)).map Pdu.op = some op ∧ (∀ m ∈ [0, 7, 8, 9],
      let t := fovisPump (atTime (boxState m (pduOf op)) 5)
      t.up = true ∧ dget t kLifetimeState ≠ 0 ∧ writesHeld t = false ∧ (boxAt t m).st = 1 ∧
      (parsePdu (boxPdu (boxAt t m))).map Pdu.op = some op)) ∧
    (let t := fovisPump (atTime (boxState 9 [1]) 5)
     (boxAt t 9).st = 1 ∧ parsePdu (boxPdu (boxAt t 9)) = none ∧ (boxAt t 0).st ≠ 1) ∧ dget (fovisPump State.reset) kLifetimeState = 0 := by decide +kernel
/-- The field network: a reply that is kept and one that is not, and the queue of writes with room and without. -/
theorem witness_FovisDoes_net : parsePdu [1] = none ∧ keptReply fovis0 9 9 7 = none ∧
    keptReply { fovis0 with cached := [⟨9, 9, 7, 0, [1]⟩] } 9 9 7 = some ⟨9, 9, 7, 0, [1]⟩ ∧ netOk fovis0 9 9 (linkLocal fovis0) (dget fovis0 kFovisUdpPort) (udpSum 9 (linkLocal fovis0) 9 (dget fovis0 kFovisUdpPort) []) [] = true ∧
    netOk fovis0 9 9 (linkLocal fovis0) 0 0 [] = false ∧
    16 ≤ netHeld { fovis0 with rxq := List.replicate 16 (.pdu (.net 9 9) []) } ∧ netHeld fovis0 < 16 ∧
    writesHeld { fovis0 with epochAdv := some 1 } = true := by decide +kernel

/-- A bundle whose signature fails, one that verifies by the owner's keys, and one whose owner has been silent for 10 s, and not yet; an address that
is not the package's. -/
def bundleAt (b : BundleBuf) : State := dset { trustState .bundle with bundle := some b } kOwnerState 1
def bundle0 (len : Nat) (block : List Byte) : BundleBuf :=
  { owner := .box 0, len := len, bytes := memWrite [] 0 block, written := [], last := 0, applying := some [7, 0, 0, 0] }
theorem witness_FovisRequests_bundle :
    (∀ b ∈ [bundle0 64 [], bundle0 16672 [0x53, 0x47, 1, 1]], (fovisPump (bundleAt b)).trust.queue = .bundle :: [] ∧
      (fovisPump (bundleAt b)).bundle = some b ∧ b.applying = some [7, 0, 0, 0] ∧ b.next = none ∧
      writesHeld (fovisPump (bundleAt b)) = false) := by decide +kernel
theorem witness_FovisRequests_times :
    (let b : BundleBuf := { bundle0 64 [] with applying := none }
     (bundleAt b).bundle = some b ∧ b.applying = none ∧ b.last + 10000000000 ≤ timeNs (atTime (bundleAt b) 10000000000) ∧
     timeNs (atTime (bundleAt b) 9999999999) < b.last + 10000000000) ∧ linkLocal fovis0 ≠ 0 := by decide +kernel

/-- The neighbours of a package in the first second, after it, and with a duplicate of its address. -/
theorem witness_FovisRequests_neighbours :
    (let s := fovis0
     s.up = true ∧ timeNs s < 1000000000 ∧ s.netDup = false ∧ 9 ∉ s.neigh ∧ 9 / 2 ^ 120 ≠ 0xFF ∧ (1 : Nat) ≠ linkLocal s ∧
     (0 ≠ 0 ∨ 1000000000 ≤ timeNs (atTime s 1000000000)) ∧ (9 ≠ 0 ∨ 1000000000 ≤ timeNs s)) ∧
    (let s := { fovis0 with neigh := [9] }; 9 ∈ s.neigh ∧ s.netDup = false) ∧ ({ fovis0 with netDup := true } : State).netDup = true := by
  decide +kernel

/-! ### Shared operations -/

theorem witness_MemoryReadAfterWrite : memWf (memWrite [] 5 [1, 0, 2]) = true ∧ memRead (memWrite [] 5 [1, 0, 2]) 5 3 = [1, 0, 2] ∧ 0 + 5 ≤ 5 ∧
    5 + 3 ≤ 8 := by decide +kernel
/-- E4M3 elements with shared scales: a byte of 0xFF and one of 0x80, on finite elements and on a NaN. -/
theorem witness_SharedScales : ∃ nf, numFmt State.reset false 0x48 = some nf ∧ nf.sc = true ∧
    readVals false nf [0x38] [0xFF] = [.nan false] ∧ (∃ n m x, elemVal false nf.fmt 0x38 = .fin n m x) ∧
    (∀ n m x, elemVal false nf.fmt 0x7F ≠ .fin n m x) := by
  refine ⟨_, rfl, by decide +kernel, by decide +kernel, ⟨_, _, _, rfl⟩, ?_⟩
  intro n m x h
  have : (match elemVal false Fmt.e4m3 0x7F with | .nan _ => true | _ => false) = true := by decide +kernel
  rw [show elemVal false Fmt.e4m3 0x7F = .fin n m x from h] at this
  exact Bool.noConfusion this
theorem witness_MmaWithoutTerms : ∃ f, meFields State.reset (cmdOf (2 ^ 54) (2 ^ 48 + 2 ^ 32) 0 0) = some f ∧ f.k = 0 := ⟨_, rfl, rfl⟩
/-- The elements of an MMA of 8 × 8 with K = 0: rows of N elements, with a last byte. -/
theorem witness_GalleySlotsHoldTheRows :
    ∃ f, meFields State.reset (cmdOf (2 ^ 54) (8 * 2 ^ 48 + 8 * 2 ^ 32) 0 0) = some f ∧
      (let es := mmaElems State.reset {} f []
       (∀ r ∈ es, r.length = f.n) ∧ 7 < es.length ∧ 63 < (packElems (nfW f.c) ((es.getD 7 []).map (·.bits))).length) :=
  ⟨_, rfl, by decide +kernel⟩
theorem witness_SkipOrder : (∀ p ∈ ([(false, 5)] : List (Bool × Nat)), p.1 = false) ∧
    (let x := dCmd 1 0 (2 ^ 62) 0 64 0
     let s := dset (dState x) kJobEpoch 1
     let t := modCore s 0 (fun c => { c with run := some run0 })
     dSpace x (fun p => p != 0) = true ∧ epochStale t 0 = true ∧
     ((dSpace (dCmd 1 4 0 0 64 0) (fun p => p != 0) && epochStale t 0) = false) ∧ dIllegal t (dCmd 1 4 0 0 64 0) = true) := by decide +kernel
/-- A descriptor that each of the checks skips, and one that none does: FENCE, COPY and an atomic. -/
def skipCase (ph epoch : Nat) (x : Cmd) (s : State := dState x) : State :=
  modCore (dset (dset (dset s kJobPhase ph) kJobEpoch epoch) kDeterminismScope 1) 0 (fun c => { c with run := some run0 })
theorem witness_SkipOrder_cases :
    ([(skipCase phStart 1, dCmd 1 0 (2 ^ 62) 0 64 0), (skipCase phStart 0, dCmd 1 8 0 0 64 0), (skipCase phStart 0, dCmd 5 8 0 0 0 0),
      (fun x => skipCase phStart 0 x { dState x with grade := 3 }, dCmd 1 1 (3 * 2 ^ 62 + 0x600 * 2 ^ 30) 0 64 0),
      (skipCase phRun 0, dCmd 1 2 0 (3 * 2 ^ 62) 64 0), (skipCase phStart 0, atomicRow 1),
      (skipCase phStart 0, dCmd 1 2 0 (2 ^ 40 - 64) 128 0), (skipCase phStart 0, dCmd 1 2 0 (2 ^ 40 - 64) 64 0),
      (skipCase phStart 0, dCmd 5 0 0 0 0 0)] :
      List ((Cmd → State) × Cmd)).map (fun p => dSkip (p.1 p.2) 0 p.2) = [some stEpochStale, some stIllegal, some stIllegal,
        some stFused, some stPhase, some stDet, some stBounds, none, none] := by decide +kernel

theorem witness_PduRoundTrip : opKnown 2 = true ∧ opValues 2 = true ∧
    (∀ x ∈ [(⟨65535, 255, 255, 65535, 3, [1, 2, 3]⟩ : FItem)], x.idx < 65536 ∧ x.sub < 256 ∧ x.ty < 256 ∧ x.off < 65536 ∧ x.len < 65536 ∧
      x.val.length = x.len) ∧ (mkPdu (2 + 128) 0 0 [mkItem 65535 255 255 65535 0 [1, 2, 3]]).length ≤ 8192 := by decide +kernel
theorem witness_CcRegisterFiles : (3 : Nat) ≠ 0 ∧ 0 < 7 ∧ 7 < 8 := by decide

/-! ### Values from the tables of the spec -/

/-- The CRC-64 of zeros is 0, that of one byte 0x01 is the polynomial, and that of "123456789" is the value of R274. -/
theorem test_tile_crc : crc64 [0, 0] = 0 ∧ crc64 [1] = 0x42F0E1EBA9EA3693 ∧
    crc64 [0x31, 0x32, 0x33, 0x34, 0x35, 0x36, 0x37, 0x38, 0x39] = 0x6C40DF5F0B497347 := by decide +kernel

/-- A DQ word 0 of the worked example (R167): opcode COPY, wait for t5 and 1, post t0 with 1. -/
theorem test_worked_word0 : w0Op 0x404A020010000001 = 1 ∧ w0Wait 0x404A020010000001 = (5, 1) ∧ w0Post 0x404A020010000001 = (0, 1) := by decide +kernel

end Sys2Proof.Tests
end

section
/-! SUPPORT. The family of chapter 00: what every command keeps, reset release, job phases, clears in control space, the skips of a
DE descriptor, and void entries and NOOPs. -/
namespace Sys2Proof.Scope
open Sys2Proof Machine Config Safety Laws

/-! ### Rows that answer through `whenUp` -/

/-- A row whose effect is `t` gives `t` out of reset. -/
theorem gives_of_whenUp {i : Instr} {s t u : State} (h : s.up = true) (hi : exec i s = whenUp s u) (hu : u = t) : Gives i s t := by
  subst hu
  exact hi.trans (whenUp_up h u)

/-- A row that leaves the state as it is. -/
theorem exec_unchanged {i : Instr} {s u : State} (h : s.up = true) (hi : exec i s = whenUp s u) (hu : u = s) : exec i s = .next s :=
  gives_of_whenUp h hi hu

/-- A write of an entry acts where the dictionary serves writes, and is held elsewhere (R522). -/
theorem dictWrite_open {s : State} (h : dictOpen s = true) (k v : Nat) (act : State → State) : dictWrite k v act s = act s :=
  if_pos h

theorem dictWrite_shut {s : State} (h : dictOpen s = false) (k v : Nat) (act : State → State) :
    dictWrite k v act s = { s with rxq := s.rxq ++ [.entry k v none] } := by
  simp [dictWrite, h]

/-! ### Every command completes -/

/-- A command's outcome: it has an effect, and keeps the queue of waiting commands and the grade of the fuses. -/
def Completes (s : State) (o : Host.Outcome State Fault Refusal) : Prop :=
  ∃ t, o = .next t ∧ t.pending = s.pending ∧ t.grade = s.grade

theorem next_completes {s t : State} (hp : t.pending = s.pending) (hg : t.grade = s.grade) : Completes s (.next t) :=
  ⟨t, rfl, hp, hg⟩

theorem whenUp_completes (s t : State) : Completes s (whenUp s t) := by
  cases h : s.up with
  | true => exact whenUp_up h t ▸ next_completes rfl rfl
  | false => exact whenUp_off h t ▸ next_completes rfl rfl

/-- A row that enters reset where `c` holds, and has no effect elsewhere (R566). -/
theorem enterReset_if_completes (c : Prop) [Decidable c] {s u : State} (hp : u.pending = s.pending) (hg : u.grade = s.grade) :
    Completes s (.next (if c then enterReset u else s)) := by
  split
  · exact next_completes hp hg
  · exact next_completes rfl rfl

theorem foldl_dset_pending_grade (l : List (Nat × Nat)) (s : State) :
    (l.foldl (fun t x => dset t x.1 x.2) s).pending = s.pending ∧ (l.foldl (fun t x => dset t x.1 x.2) s).grade = s.grade := by
  induction l generalizing s with
  | nil => exact ⟨rfl, rfl⟩
  | cons x l ih => exact ih (dset s x.1 x.2)

theorem execPowerUpResetRelease_completes (p b : Nat) (s : State) : Completes s (execPowerUpResetRelease p b s) := by
  unfold execPowerUpResetRelease
  split
  · exact next_completes rfl rfl
  · obtain ⟨hp, hg⟩ := foldl_dset_pending_grade s.dict { State.reset with
      pending := s.pending, grade := s.grade, nvmA := s.nvmA, nvmB := s.nvmB, freeCount := s.freeCount,
      meFault := s.meFault, seFault := s.seFault, parity := s.parity, dieParity := s.dieParity }
    exact next_completes hp hg

theorem execSensorReading_completes (r : Reading) (at_ : Nat) (s : State) : Completes s (execSensorReading r at_ s) := by
  unfold execSensorReading
  split
  · exact next_completes rfl rfl
  · exact whenUp_completes _ _

/-- Settles O4: every command but power-up and the entries into reset answers through `whenUp`, which keeps the queue and the fuses. -/
theorem everyCommandCompletes : Obligations.EveryCommandCompletes := by
  intro i s
  cases i with
  | powerUpResetRelease p b => exact execPowerUpResetRelease_completes p b s
  | sensorReading r at_ => exact execSensorReading_completes r at_ s
  | vin48UnderVoltage ns => exact enterReset_if_completes (2000 < ns) rfl rfl
  | pkgrstNAssert ns => exact enterReset_if_completes (1000 < ns) rfl rfl
  | _ => exact whenUp_completes s _

/-! ### What reset release leaves -/

theorem stackState_reset : ∀ st < 16, dget State.reset (kStackState + st) = 1 ∧ workOf State.reset st = [1, 2] := by decide

theorem portSt_reset : ∀ p < 64, portSt State.reset p = 1 := by decide

/-- The core map of manufacturing test: logical core `n` of a die is its physical core `n` (R38). -/
theorem keyOf_reset {n : Nat} (h : n < 10240) : keyOf State.reset n = some (1344 * (n / 1280) + n % 1280) := by
  have named : coreNamed State.reset n = true := by
    simp [coreNamed, coresPerDie, State.reset, h, Nat.mod_lt]
  rw [keyOf, if_pos named]
  rfl

/-- Settles O3: every field is read off the reset state, whose tables hold the stack and port states alone. -/
theorem resetValues : Obligations.ResetValues := by
  refine ⟨rfl, rfl, by decide, rfl, rfl, rfl, rfl, stackState_reset, portSt_reset, fun k => ⟨rfl, rfl, rfl⟩,
    fun n h => keyOf_reset h, fun d => ⟨rfl, rfl⟩⟩

/-! ### Void entries and NOOPs -/

theorem setWait_run (c : Core) (w : Waiter) (x : WaitSt) : (setWait c w x).run = c.run := rfl
theorem setQueue_run (c : Core) (q : QueueId) (l : List Cmd) : (setQueue c q l).run = c.run := by cases q <;> rfl

theorem serve_run (t : Nat) (c : Core) (w : Waiter) : (serve t c w).run = c.run := by
  unfold serve
  split
  · rfl
  · split
    · rfl
    · split
      · rfl
      · split
        · rfl
        · split <;> rfl

/-- Taking a head leaves the launch that the core runs. -/
theorem takeHead_run (t : Nat) (c : Core) (q : QueueId) : (takeHead t c q).run = c.run := by
  simp only [takeHead, settle, List.foldl, serve_run, setWait_run, setQueue_run]

theorem epochStale_taken (s : State) (e : Ex) : epochStale (taken s e) e.k = epochStale s e.k := by
  simp only [epochStale, taken, coreAt_putCore, takeHead_run]
  rfl

/-- A NOOP's status, where the core is in the map: a stale launch's on CQ (R19, R367), then its fields and its engine (R151, R163). -/
theorem noopStatus_eq {s : State} {n k : Nat} (hk : keyOf s n = some k) (q : QueueId) (x : Cmd) :
    noopStatus s n q x =
      if q = .cq ∧ epochStale s k = true then stEpochStale
      else if ¬(fld x.w0 27 0 = 0 ∧ x.w1 = 0 ∧ x.w2 = 0 ∧ x.w3 = 0) then stIllegal
      else if q = .sq ∧ (s.grade = 3 ∨ (engineAt s (engineOf s n)).failed = true) then stFused else stOk := by
  simp [noopStatus, hk, Classical.or_iff_not_imp_left]

theorem noopStatus_stale {s : State} {n k : Nat} (hk : keyOf s n = some k) (h : epochStale s k = true) (x : Cmd) :
    noopStatus s n .cq x = stEpochStale := by
  rw [noopStatus_eq hk, if_pos ⟨rfl, h⟩]

theorem noopStatus_fresh {s : State} {n k : Nat} {q : QueueId} (hk : keyOf s n = some k)
    (h : q ≠ .cq ∨ epochStale s k = false) (x : Cmd) :
    noopStatus s n q x =
      if ¬(fld x.w0 27 0 = 0 ∧ x.w1 = 0 ∧ x.w2 = 0 ∧ x.w3 = 0) then stIllegal
      else if q = .sq ∧ (s.grade = 3 ∨ (engineAt s (engineOf s n)).failed = true) then stFused else stOk := by
  rw [noopStatus_eq hk, if_neg]
  rintro ⟨hq, hs⟩
  exact h.elim (· hq) (by simp [hs])

theorem noopStatus_fresh_ne_stale {s : State} {n k : Nat} {q : QueueId} (hk : keyOf s n = some k)
    (h : q ≠ .cq ∨ epochStale s k = false) (x : Cmd) : (noopStatus s n q x == stEpochStale) = false := by
  rw [noopStatus_fresh hk h]
  split
  · rfl
  · split <;> rfl

/-- A NOOP that its engine has reached ends with its own status. -/
theorem execNoop_at {s : State} {e : Ex}
    (h : HeadAt e.q (fun x => w0Op x.w0 == 0) (fun s _ c => !queueFree s e.n c e.q) s e) :
    Gives (.noop e.n e.q) s (exEnd e
      (dcount (served e.n e.q (taken s e)) kEpochStaleSkips (b2n (noopStatus (taken s e) e.n e.q e.x == stEpochStale)))
      (noopStatus (taken s e) e.n e.q e.x)) := by
  have ⟨⟨hup, _⟩, _, _, _, _, _, noop⟩ := h
  exact gives_of_whenUp hup rfl (engineRow_at h _ noop)

/-- Settles O24: the rows at a head that their engine has reached, a NOOP with the status its fields give. -/
theorem voidAndNoopRows : Obligations.VoidAndNoopRows := by
  refine ⟨fun s n k q x rest hc hq hr hv hf => gives_of_whenUp hc.1 rfl ?_, fun s e h => ?_⟩
  · simp [hc.2, hq, hr, hv, hf]
  · have ⟨⟨_, key⟩, _⟩ := h
    have hk : keyOf (taken s e) e.n = some e.k := key
    have row := execNoop_at h
    refine ⟨fun hq hs => ?_, fun hs => ?_⟩
    · rw [← epochStale_taken] at hs
      rw [hq, noopStatus_stale hk hs] at row
      rw [hq]
      exact row
    · rw [← epochStale_taken s e] at hs
      rw [noopStatus_fresh_ne_stale hk hs, noopStatus_fresh hk hs] at row
      exact row

/-! ### Job phases -/

/-- The transitions that R23 lets a write name. -/
theorem phaseAllowed_iff (a b : Nat) :
    phaseAllowed a b = true ↔
      (a, b) ∈ [(0, 1), (1, 2), (1, 3), (1, 5), (2, 3), (2, 4), (2, 5), (3, 2), (3, 1), (3, 5), (4, 2), (4, 5)] := by
  match a with
  | 0 | 1 | 2 | 3 | 4 => simp [phaseAllowed, or_assoc]
  | n + 5 => simp [phaseAllowed]

/-- No transition leads from a phase to itself. -/
theorem phaseAllowed_self (a : Nat) : phaseAllowed a a = false := by
  match a with
  | 0 | 1 | 2 | 3 | 4 => rfl
  | n + 5 => rfl

/-- A write of a phase that R23 allows moves to it with the actions of the new phase (R24). -/
theorem jobPhaseWrite_allowed {s : State} {v : Nat} (hup : s.up = true) (ho : dictOpen s = true) (h : phaseAllowed (phase s) v = true) :
    Gives (.jobPhaseWrite v) s (phaseMove s v) := by
  have moved : (v != phase s) = true := by
    simp only [bne_iff_ne]
    rintro rfl
    simp [phaseAllowed_self] at h
  refine gives_of_whenUp hup rfl ((dictWrite_open ho _ _ _).trans ?_)
  simp [moved, h]

/-- A write of any other phase changes nothing (R24). -/
theorem jobPhaseWrite_refused {s : State} {v : Nat} (hup : s.up = true) (ho : dictOpen s = true) (h : phaseAllowed (phase s) v = false) :
    exec (.jobPhaseWrite v) s = .next s := by
  refine exec_unchanged hup rfl ((dictWrite_open ho _ _ _).trans ?_)
  simp [h]

/-- The phase set, with the snapshot given up where it leaves RUN (R492). -/
def phaseLeft (s : State) (v : Nat) : State := if phase s = phRun then snapAbandon (setPhase s v) else setPhase s v

theorem phaseMove_start {s : State} (h : phase s = phIdle) : phaseMove s phStart = setupAtStart (startResets (setPhase s phStart)) := by
  simp [phaseMove, h]

theorem phaseMove_teardown (s : State) : phaseMove s phTeardown = teardown (phaseLeft s phTeardown) := by
  simp [phaseMove, phaseLeft]

theorem phaseMove_recovery (s : State) : phaseMove s phRecovery = abandonAll (phaseLeft s phRecovery) := by
  simp [phaseMove, phaseLeft]

theorem phaseMove_other {s : State} {v : Nat} (hi : phase s ≠ phIdle) (ht : v ≠ phTeardown) (hr : v ≠ phRecovery) :
    phaseMove s v = phaseLeft s v := by
  simp [phaseMove, phaseLeft, hi, ht, hr]

/-- The last act of TEARDOWN (R23, R500). -/
theorem teardownDrainComplete_gives {s : State} {at_ : Nat} (hup : s.up = true) (hp : phase s = phTeardown)
    (hd : drained (atTime s at_) = true) :
    Gives (.teardownDrainComplete at_) s (setPhase (dset (atTime s at_) kLastEpoch (dget s kJobEpoch)) phIdle) := by
  refine gives_of_whenUp hup rfl ?_
  have hp' : phase (atTime s at_) = phTeardown := hp
  simp [hp', hd]

theorem jobEpochWrite_gives {s : State} (hup : s.up = true) (ho : dictOpen s = true) (v : BitVec 16) :
    Gives (.jobEpochWrite v) s (if jobEpochOk s v.toNat = true then dset s kJobEpoch v.toNat else s) :=
  gives_of_whenUp hup rfl (dictWrite_open ho _ _ _)

theorem jobEpochOk_iff (s : State) (v : Nat) : jobEpochOk s v = true ↔ phase s = phIdle ∧ v ≠ dget s kLastEpoch := by
  simp [jobEpochOk]

/-- EPOCH_ADVANCE in a phase that takes it (R502). -/
theorem epochAdvance_gives {s : State} (hup : s.up = true) (ho : dictOpen s = true) {v : BitVec 16}
    (hp : phase s = phTest ∨ phase s = phRecovery) (hv : v.toNat ≠ dget s kJobEpoch) :
    Gives (.epochAdvance v) s (epochTry { s with epochAdv := some v.toNat }) := by
  have none_waits : s.epochAdv = none := by simp_all [dictOpen]
  refine gives_of_whenUp hup rfl ((dictWrite_open ho _ _ _).trans (if_pos ?_))
  simp [epochAdvanceOk, hp, hv, none_waits]

/-- An epoch advance waits for outstanding requests and for the leaves sent (R502, log entry 84). -/
theorem epochTry_waits {s : State} {v : Nat} (h : s.epochAdv = some v) (hw : ¬(s.reqs = [] ∧ ∀ c ∈ s.ctxs, c.2.awaits = [])) :
    epochTry s = s := by
  unfold epochTry
  rw [h]
  refine if_pos ?_
  simpa [Classical.or_iff_not_imp_left] using hw

theorem epochTry_clear {s : State} {v : Nat} (h : s.epochAdv = some v) (hc : s.reqs = [] ∧ ∀ c ∈ s.ctxs, c.2.awaits = []) :
    epochTry s = issueHeld (dcount (dset { s with epochAdv := none } kJobEpoch v) kEpochAdvances 1) := by
  unfold epochTry
  rw [h]
  refine if_neg ?_
  simpa using hc

theorem setupSave_gives {s : State} (hup : s.up = true) (ho : dictOpen s = true) {v : Nat} (hv : v ≤ 1)
    (hp : phase s = phStart ∨ phase s = phTest) : Gives (.setupSave v) s (setupSave s) := by
  refine gives_of_whenUp hup rfl ((dictWrite_open ho _ _ _).trans (if_pos ?_))
  simp [setupSaveOk, hv, hp]

/-- Settles O42: a write acts where the dictionary serves writes, and the order of R23 decides what it does. -/
theorem phaseRows : Obligations.PhaseRows := by
  refine fun s hup => ⟨fun ho v => ?_, fun at_ hp hq hr hi hl => ?_, fun v ho => ⟨?_, ?_, fun hp hv => ⟨fun hw => ?_, fun hc => ?_⟩⟩,
    fun v ho hv hp => setupSave_gives hup ho hv hp, fun ho v w => ?_⟩
  · intro t order
    have moves (h : (phase s, v) ∈ order) := jobPhaseWrite_allowed hup ho ((phaseAllowed_iff _ _).2 h)
    refine ⟨fun hi hv => ?_, fun h hv => ?_, fun h hv => ?_, fun h hi ht hr => ?_, fun h => ?_⟩
    · subst hv
      exact phaseMove_start hi ▸ moves (by simp [order, hi])
    · subst hv
      exact phaseMove_teardown s ▸ moves h
    · subst hv
      exact phaseMove_recovery s ▸ moves h
    · show Gives _ s (phaseLeft s v)
      exact phaseMove_other hi ht hr ▸ moves h
    · exact jobPhaseWrite_refused hup ho (by rwa [← Bool.not_eq_true, phaseAllowed_iff])
  · exact teardownDrainComplete_gives hup hp (by simp [drained, hq, hr, hi, hl])
  · intro hp hv
    have row := jobEpochWrite_gives hup ho v
    rwa [if_pos ((jobEpochOk_iff _ _).2 ⟨hp, hv⟩)] at row
  · intro h
    have row := jobEpochWrite_gives hup ho v
    rwa [if_neg (fun ok => h.elim (· ((jobEpochOk_iff _ _).1 ok).1) ((jobEpochOk_iff _ _).1 ok).2)] at row
  · exact epochTry_waits (s := { s with epochAdv := some v.toNat }) rfl hw ▸ epochAdvance_gives hup ho hp hv
  · exact epochTry_clear (s := { s with epochAdv := some v.toNat }) rfl hc ▸ epochAdvance_gives hup ho hp hv
  · exact ⟨gives_of_whenUp hup rfl (dictWrite_shut ho _ _ _), gives_of_whenUp hup rfl (dictWrite_shut ho _ _ _),
      gives_of_whenUp hup rfl (dictWrite_shut ho _ _ _), gives_of_whenUp hup rfl (dictWrite_shut ho _ _ _)⟩

/-! ### Colophon contexts and attachments: what leaves them as they are -/

/-- What a fold's every step keeps, the fold keeps. -/
theorem foldl_keeps {σ α γ : Type} {g : σ → γ} {f : σ → α → σ} (h : ∀ s a, g (f s a) = g s) (l : List α) (s : σ) :
    g (l.foldl f s) = g s := by
  induction l generalizing s with
  | nil => rfl
  | cons a l ih => exact (ih (f s a)).trans (h s a)

/-- The contexts and the attachments of the package (R422, R436). -/
def colophons (s : State) : Tbl Ctx × Tbl Attach := (s.ctxs, s.attached)

theorem colophons_congr {s t : State} (hc : t.ctxs = s.ctxs) (ha : t.attached = s.attached) : colophons t = colophons s :=
  Prod.ext hc ha

section
variable (s : State)

@[simp] theorem colophons_dcount (k n : Nat) : colophons (dcount s k n) = colophons s := by
  unfold dcount; split <;> rfl

@[simp] theorem colophons_errEntry (cls unit detail outcome : Nat) : colophons (errEntry s cls unit detail outcome) = colophons s := by
  unfold errEntry
  extract_lets i s1 s2
  have h : colophons s2 = colophons s := colophons_dcount s1 _ _
  split
  · exact (colophons_dcount s2 _ _).trans h
  · exact h

@[simp] theorem colophons_detect (cls unit detail : Nat) (u : ProofUnit) : colophons (detect s cls unit detail u) = colophons s := by
  unfold detect
  split
  · exact colophons_errEntry s _ _ _ _
  · exact colophons_errEntry s _ _ _ _

/-- The attempts on a link between dies log errors and count, and touch no context (R460). -/
@[simp] theorem colophons_linkTry (l : Nat) : colophons (linkTry s l).1 = colophons s := by
  unfold linkTry
  split
  next kind rem _ =>
    split
    · rfl
    · extract_lets miss d s1 s2
      have h : colophons s2 = colophons s := (foldl_keeps (fun s _ => colophons_detect s _ _ _ _) _ _).trans (colophons_dcount s1 _ _)
      split
      · exact (colophons_dcount s2 _ _).trans h
      · exact h

@[simp] theorem colophons_routeTry (ls : List Nat) : colophons (routeTry s ls).1 = colophons s := by
  unfold routeTry
  split
  · rfl
  · refine foldl_keeps (g := fun x : State × Nat => colophons x.1) (fun x l => ?_) ls (s, 0)
    split
    · exact colophons_linkTry x.1 l
    · rfl

@[simp] theorem colophons_bufferCheck (p v : Nat) : colophons (bufferCheck s p v).1 = colophons s := by
  unfold bufferCheck
  split
  · rfl
  · exact colophons_detect _ _ _ _ _

@[simp] theorem colophons_toEgress (fd p : Nat) (f : Flit) : colophons (toEgress s fd p f).1 = colophons s := by
  unfold toEgress
  extract_lets x
  have h : colophons x.1 = colophons s := by
    unfold x
    split
    · rfl
    · exact colophons_routeTry s _
  split
  · exact h
  · exact (colophons_bufferCheck x.1 _ _).trans h

@[simp] theorem colophons_inputFree (inp : Option Nat) (f : Flit) : colophons (inputFree s inp f) = colophons s := by
  cases inp <;> rfl

@[simp] theorem colophons_leave (fd p : Nat) (f : Flit) (inp : Option Nat) : colophons (leave s fd p f inp) = colophons s := by
  unfold leave
  rw [colophons_inputFree]
  split
  · exact colophons_toEgress s fd p f
  · exact colophons_toEgress s fd p f

@[simp] theorem colophons_stallSettle : colophons (stallSettle s) = colophons s := by
  unfold stallSettle
  extract_lets d on
  refine foldl_keeps (g := colophons) (fun s k => ?_) [1, 2, 3, 5, 6, 7] s
  split
  · exact colophons_dcount s _ _
  · rfl

@[simp] theorem colophons_emit (f : Flit) (fd : Nat) (inp : Option Nat) : colophons (emit s f fd inp).1 = colophons s := by
  unfold emit
  split
  · exact colophons_inputFree s inp f
  · split
    · exact colophons_leave s _ _ _ _
    · exact colophons_stallSettle s

@[simp] theorem colophons_sendFlit (f : Flit) (fd : Nat) : colophons (sendFlit s f fd).1 = colophons s := by
  unfold sendFlit
  split
  · exact colophons_emit s _ _ _
  · split
    · rfl
    · split
      · exact colophons_emit s _ _ _
      · extract_lets d t g
        split
        · rfl
        · exact colophons_emit _ _ _ _

@[simp] theorem colophons_hotTouch (fd : Nat) (egress : Bool) (line : Nat) : colophons (hotTouch s fd egress line).1 = colophons s :=
  colophons_dcount _ _ _

@[simp] theorem colophons_nextTag (fd : Nat) : colophons (nextTag s fd).2 = colophons s := rfl

/-- A request recorded as outstanding once its flit is on its way. -/
theorem colophons_sent {r : State × Bool} (hr : colophons r.1 = colophons s) (q : List Req) (now st : Nat) :
    colophons (if r.2 then ({ r.1 with reqs := q, lastIssue := now }, 0) else (s, st)).1 = colophons s := by
  split
  · exact (colophons_congr (s := r.1) rfl rfl).trans hr
  · rfl

/-- A request that leaves, is held or fails at once touches no context (R346, R354). -/
@[simp] theorem colophons_issueFd (fd kind a : Nat) (poison : Bool) (pl : List Byte) (who : ReqOwner) (co : Nat) :
    colophons (issueFd s fd kind a poison pl who co).1 = colophons s := by
  unfold issueFd
  split
  · rfl
  · split
    next tag s1 hs =>
      have h1 : colophons s1 = colophons s := by rw [← colophons_nextTag s fd, hs]
      exact colophons_sent s ((colophons_sendFlit _ _ _).trans ((colophons_hotTouch s1 fd true (a / 128)).trans h1)) _ _ _

@[simp] theorem colophons_issueNow (fd kind a : Nat) (poison : Bool) (pl : List Byte) (who : ReqOwner) (co : Nat) :
    colophons (issueNow s fd kind a poison pl who co).1 = colophons s := by
  unfold issueNow
  extract_lets x
  have h : colophons x.1 = colophons s := by
    unfold x
    split
    · exact colophons_routeTry s _
    · rfl
  split
  · exact (colophons_issueFd x.1 _ _ _ _ _ _ _).trans h
  · split
    · exact (colophons_issueFd x.1 _ _ _ _ _ _ _).trans h
    · exact h

@[simp] theorem colophons_issue (fd kind a : Nat) (poison : Bool) (pl : List Byte) (who : ReqOwner) (co : Nat) :
    colophons (issue s fd kind a poison pl who co).1 = colophons s := by
  unfold issue
  split
  · rfl
  · exact colophons_issueNow s _ _ _ _ _ _ _

@[simp] theorem colophons_stripeRead (k o : Nat) : colophons (stripeRead s k o) = colophons s := by
  unfold stripeRead
  extract_lets r
  split
  · exact colophons_issue s _ _ _ _ _ _ _
  · exact colophons_issue s _ _ _ _ _ _ _

@[simp] theorem colophons_restoreReads : colophons (restoreReads s) = colophons s :=
  foldl_keeps (fun s _ => foldl_keeps (fun s _ => colophons_stripeRead s _ _) _ s) _ s

theorem colophons_heldCow : colophons (heldCow s) = colophons s := by
  unfold heldCow; split <;> rfl

/-- A snapshot taken and a restore begun leave contexts and attachments as they are (R433). -/
theorem colophons_snapTake : colophons (snapTake s) = colophons s := by
  unfold snapTake
  split
  · rfl
  · split
    · rfl
    · split
      · rfl
      · exact colophons_heldCow _

theorem colophons_snapRestore : colophons (snapRestore s) = colophons s := by
  unfold snapRestore
  split
  · rfl
  · split
    · rfl
    · split
      · rfl
      · split
        · rfl
        · extract_lets remote t
          split
          · exact colophons_restoreReads t
          · rfl

end

/-! ### A write of RECOVERY abandons the open contexts -/

/-- A context that is OPEN or CLOSING (R422). -/
def isOpen (x : Ctx) : Bool := x.state = 1 || x.state = 2

/-- An open context is discarded without a record; any other stays (R433). -/
def abandoned (x : Ctx) : Ctx :=
  if isOpen x then
    { x with state := 0, flags := 0, skip := 0, poison := 0, reuse := 0, pivot := 0, members := [], prog := [], states := [0, 0, 0],
             sent := 0, localDone := false, sealed := false, awaits := [] }
  else x

/-- The abandonment of context `c`, if it is open. -/
def abandonStep (s : State) (c : Nat) : State := if isOpen (ctxAt s c) then ctxDiscard s c else s

theorem abandoned_of_not_open {x : Ctx} (h : isOpen x = false) : abandoned x = x := by
  rw [abandoned, h]; rfl

theorem isOpen_abandoned (x : Ctx) : isOpen (abandoned x) = false := by
  unfold abandoned
  split
  · rfl
  · simpa using ‹¬isOpen x = true›

theorem abandoned_idem (x : Ctx) : abandoned (abandoned x) = abandoned x := abandoned_of_not_open (isOpen_abandoned x)

theorem abandoned_record (x : Ctx) : (abandoned x).record = x.record := by
  unfold abandoned; split <;> rfl

theorem abandoned_state (x : Ctx) : (abandoned x).state = if isOpen x then 0 else x.state := by
  unfold abandoned; split <;> rfl

section
variable (s : State) (a c : Nat)

theorem ctxAt_dcount (k n : Nat) : ctxAt (dcount s k n) c = ctxAt s c := by
  unfold dcount; split <;> rfl

theorem attached_dcount (k n : Nat) : (dcount s k n).attached = s.attached := by
  unfold dcount; split <;> rfl

theorem ctxAt_abandonStep : ctxAt (abandonStep s a) c = if c = a then abandoned (ctxAt s c) else ctxAt s c := by
  unfold abandonStep abandoned ctxDiscard
  by_cases h : c = a
  · subst h
    rw [if_pos rfl]
    split
    · rw [ctxAt_dcount, ctxAt_modCtx]
      rfl
    · rfl
  · rw [if_neg h]
    split
    · rw [ctxAt_dcount, ctxAt_modCtx_other _ _ _ h]
      rfl
    · rfl

theorem dget_abandonStep : dget (abandonStep s a) kContextsAbandoned =
    if isOpen (ctxAt s a) then satAdd (2 ^ 64 - 1) (dget s kContextsAbandoned) 1 else dget s kContextsAbandoned := by
  unfold abandonStep
  split
  · exact dget_dcount _ _ _
  · rfl

theorem dget_abandonStep_other {k : Nat} (h : k ≠ kContextsAbandoned) : dget (abandonStep s a) k = dget s k := by
  unfold abandonStep
  split
  · exact dget_dcount_other _ _ _ h
  · rfl

theorem attached_abandonStep : (abandonStep s a).attached = s.attached := by
  unfold abandonStep
  split
  · exact attached_dcount _ _ _
  · rfl

end

theorem ctxAt_abandonSteps (l : List Nat) (s : State) (c : Nat) :
    ctxAt (l.foldl abandonStep s) c = if c ∈ l then abandoned (ctxAt s c) else ctxAt s c := by
  induction l generalizing s with
  | nil => rfl
  | cons a l ih =>
    rw [List.foldl_cons, ih, ctxAt_abandonStep]
    by_cases ha : c = a <;> by_cases hl : c ∈ l <;> simp [ha, hl, abandoned_idem]

/-- Each open context of a list counts once, and the counter saturates (R438). -/
theorem dget_abandonSteps {l : List Nat} (hl : l.Nodup) (s : State) :
    let n := (l.filter (fun c => isOpen (ctxAt s c))).length
    dget (l.foldl abandonStep s) kContextsAbandoned =
      if n = 0 then dget s kContextsAbandoned else min (2 ^ 64 - 1) (dget s kContextsAbandoned + n) := by
  induction l generalizing s with
  | nil => rfl
  | cons a l ih =>
    obtain ⟨ha, hl⟩ := List.nodup_cons.1 hl
    have rest : l.filter (fun c => isOpen (ctxAt (abandonStep s a) c)) = l.filter (fun c => isOpen (ctxAt s c)) :=
      List.filter_congr fun c hc => by rw [ctxAt_abandonStep, if_neg (ne_of_mem_of_not_mem hc ha)]
    intro n
    rw [List.foldl_cons, ih hl, rest, dget_abandonStep]
    unfold n
    cases h : isOpen (ctxAt s a)
    · simp [h]
    · simp only [h, if_true, List.filter_cons_of_pos, List.length_cons, satAdd]
      rw [if_neg (Nat.succ_ne_zero _)]
      split <;> omega

section
variable (s : State)

theorem dget_abandonAll_other {k : Nat} (h : k ≠ kContextsAbandoned) : dget (abandonAll s) k = dget s k :=
  foldl_keeps (g := (dget · k)) (fun s a => dget_abandonStep_other s a h) _ s

theorem attached_abandonAll : (abandonAll s).attached = s.attached :=
  foldl_keeps (g := State.attached) attached_abandonStep _ s

theorem contextsAbandoned_abandonAll :
    let n := ((List.range 16).filter (fun c => isOpen (ctxAt s c))).length
    dget (abandonAll s) kContextsAbandoned =
      if n = 0 then dget s kContextsAbandoned else min (2 ^ 64 - 1) (dget s kContextsAbandoned + n) :=
  dget_abandonSteps List.nodup_range s

theorem ctxAt_abandonAll {c : Nat} (hc : c < 16) : ctxAt (abandonAll s) c = abandoned (ctxAt s c) :=
  (ctxAt_abandonSteps _ s c).trans (if_pos (List.mem_range.2 hc))

theorem snapAbandon_colophons : colophons (snapAbandon s) = colophons s := by
  unfold snapAbandon
  split
  · rfl
  · split
    · rfl
    · exact colophons_dcount _ _ _

theorem dget_snapAbandon {k : Nat} (h : k ≠ kSnapFailures) : dget (snapAbandon s) k = dget s k := by
  unfold snapAbandon
  split
  · rfl
  · split
    · rfl
    · exact dget_dcount_other _ _ _ h

/-- Leaving a phase touches no context (R433). -/
theorem phaseLeft_colophons (v : Nat) : colophons (phaseLeft s v) = colophons s := by
  unfold phaseLeft
  split
  · exact snapAbandon_colophons _
  · rfl

theorem dget_phaseLeft (v : Nat) {k : Nat} (h : k ≠ kSnapFailures) : dget (phaseLeft s v) k = dget (setPhase s v) k := by
  unfold phaseLeft
  split
  · exact dget_snapAbandon _ h
  · rfl

theorem phase_phaseLeft (v : Nat) : phase (phaseLeft s v) = v := by
  rw [phase, dget_phaseLeft s v (by decide), setPhase, dget_dset_other _ _ _ (by decide), dget_dset]

theorem contextsAbandoned_phaseLeft (v : Nat) : dget (phaseLeft s v) kContextsAbandoned = dget s kContextsAbandoned := by
  rw [dget_phaseLeft s v (by decide), setPhase, dget_dset_other _ _ _ (by decide), dget_dset_other _ _ _ (by decide)]

end

theorem ctxAt_of_colophons {s t : State} (h : colophons t = colophons s) (c : Nat) : ctxAt t c = ctxAt s c :=
  congrArg (fun x : Tbl Ctx × Tbl Attach => tblGet ctxDflt x.1 c) h

theorem dget_keep (s t : State) (k : Nat) : dget (keep s t) k = dget t k := rfl

theorem ctxAt_keep (s t : State) (c : Nat) : ctxAt (keep s t) c = ctxAt t c := rfl

/-- A row whose effect keeps contexts and attachments keeps them out of reset, and in it (R566). -/
theorem whenUp_colophons {s u : State} (h : colophons u = colophons s) :
    ∃ t, whenUp s u = .next t ∧ t.ctxs = s.ctxs ∧ t.attached = s.attached := by
  cases hup : s.up with
  | true => exact ⟨keep s u, whenUp_up hup u, congrArg Prod.fst h, congrArg Prod.snd h⟩
  | false => exact ⟨s, whenUp_off hup u, rfl, rfl⟩

/-- Settles O44: the sixteen contexts one after another, each abandoned if it is open. -/
theorem recoveryAbandonsContexts : Obligations.RecoveryAbandonsContexts := by
  refine ⟨fun s hup ho hp => ?_, fun s => ⟨whenUp_colophons (colophons_snapTake s), whenUp_colophons (colophons_snapRestore s)⟩⟩
  have row := jobPhaseWrite_allowed (v := phRecovery) hup ho (by rw [hp]; rfl)
  rw [phaseMove_recovery] at row
  have left := phaseLeft_colophons s phRecovery
  refine ⟨_, row, ?_, ?_, ?_, fun c hc => ?_⟩
  · rw [phase, dget_keep, dget_abandonAll_other _ (by decide)]
    exact phase_phaseLeft s phRecovery
  · rw [keep_attached, attached_abandonAll]
    exact congrArg Prod.snd left
  · have count := contextsAbandoned_abandonAll (phaseLeft s phRecovery)
    simp only [ctxAt_of_colophons left, contextsAbandoned_phaseLeft] at count
    rw [dget_keep]
    exact count
  · rw [ctxAt_keep, ctxAt_abandonAll _ hc, ctxAt_of_colophons left, abandoned_record, abandoned_state]
    exact ⟨rfl, fun h => by simp [isOpen, h], fun h1 h2 => by simp [isOpen, h1, h2]⟩

/-! ### What software writes in control space -/

/-- SET_POISON is bit 8 of the word written, and CLEAR_POISON bit 9: a set that meets a clear stands (R277). -/
theorem poisonWrite_set (c : Core) (t : Nat) : poisonWrite c t 0x100 = modTile c t (fun x => { x with poison := true }) := rfl
theorem poisonWrite_clear (c : Core) (t : Nat) : poisonWrite c t 0x200 = modTile c t (fun x => { x with poison := false }) := rfl
theorem poisonWrite_both (c : Core) (t : Nat) : poisonWrite c t 0x300 = modTile c t (fun x => { x with poison := true }) := rfl

/-- A change of the flags of a unit of a core that is in the map wakes its cluster (R441). -/
theorem modUnitFlags_core {s : State} {n k : Nat} (hk : keyOf s n = some k) (f : FlagBlk → FlagBlk) :
    modUnitFlags s f (.cc n) = touchMod s k (fun c => { c with ccF := f c.ccF }) ∧
    modUnitFlags s f (.me n) = touchMod s k (fun c => { c with meF := f c.meF }) ∧
    modUnitFlags s f (.ve n) = touchMod s k (fun c => { c with veF := f c.veF }) ∧
    modUnitFlags s f (.coll n) =
      touchMod s k (fun c => { c with coll := { c.coll with flags := (f { flags := c.coll.flags }).flags } }) := by
  simp [modUnitFlags, hk]

theorem modUnitFlags_se {s : State} {e : Nat} (hg : s.grade ≠ 3) (he : e < 64) (f : FlagBlk → FlagBlk) :
    modUnitFlags s f (.se e) = modEngine s e (fun g => { g with f := f g.f }) := by
  simp [modUnitFlags, hg, he]

theorem modUnitFlags_nmu {s : State} {st : Nat} (h : st < 16) (f : FlagBlk → FlagBlk) : modUnitFlags s f (.nmu st) = modNmu s st f :=
  if_pos h

/-- A core that is in the map, its cluster awake: its log is emptied but for an event of the same instant (R135). -/
theorem logClear_gives {s : State} {n k : Nat} (h : CoreUp s n k) {v : Word} (hv : v.getLsbD 0 = true) (met : Option LogRec) :
    Gives (.logClear n v met) s (touchMod s k (fun c => { c with log := met.toList, dropped := 0 })) := by
  refine gives_of_whenUp h.1 rfl ?_
  simp only [h.2, hv]
  rfl

theorem captureRelease_de {s : State} {n k : Nat} (h : CoreUp s n k) (v : Word) (met : Option (List Word)) :
    Gives (.captureRelease (.de n) v met) s (touchMod s k (fun c => { c with de := releaseDe c.de v met })) :=
  gives_of_whenUp h.1 rfl (by simp only [h.2])

theorem captureRelease_coll {s : State} {n k : Nat} (h : CoreUp s n k) (v : Word) (met : Option (List Word)) :
    Gives (.captureRelease (.coll n) v met) s (touchMod s k (fun c => { c with coll := releaseAbort c.coll v met })) :=
  gives_of_whenUp h.1 rfl (by simp only [h.2])

theorem setPoison_gives {s : State} {n k t : Nat} (h : CoreUp s n k) (ht : t < 128) :
    Gives (.setPoison n t) s (touchMod s k (fun c => modTile c t (fun x => { x with poison := true }))) :=
  gives_of_whenUp h.1 rfl (by simp only [h.2, ht, if_true, poisonWrite_set])

theorem clearPoison_gives {s : State} {n k t : Nat} (h : CoreUp s n k) (ht : t < 128) (met : Bool) :
    Gives (.clearPoison n t met) s (touchMod s k (fun c => modTile c t (fun x => { x with poison := met }))) := by
  refine gives_of_whenUp h.1 rfl ?_
  cases met
  · simp only [h.2, ht, if_true, Bool.false_eq_true, if_false, poisonWrite_clear]
  · simp only [h.2, ht, if_true, poisonWrite_both]

/-- A register write is lost where its links are exhausted (R460). -/
theorem registerWrite_lost {s : State} {p : RegPath} {a : Nat} {v : Word} {r : Reg} (hup : s.up = true) (ha : a % 8 = 0)
    (hr : pathReg s a p = some r) (hl : (regTry (regTouch s r) (pathOwner p) r).2 ≠ 0) :
    Gives (.registerWrite p a v) s (regTry (regTouch s r) (pathOwner p) r).1 :=
  gives_of_whenUp hup rfl (by simp [ha, hr, hl])

/-- A register write that arrives acts, and the harts take the interrupts that it brings (R539). -/
theorem registerWrite_done {s t : State} {p : RegPath} {a : Nat} {v : Word} {r : Reg} (hup : s.up = true) (ha : a % 8 = 0)
    (hr : pathReg s a p = some r) (hl : (regTry (regTouch s r) (pathOwner p) r).2 = 0)
    (hw : regWrite (regTry (regTouch s r) (pathOwner p) r).1 v.toNat ones64 r = some t) :
    Gives (.registerWrite p a v) s ((List.range 64).foldl hartPoll t) :=
  gives_of_whenUp hup rfl (by simp [ha, hr, hl, hw])

/-- Settles O21: each write by the unit that it names. -/
theorem controlClears : Obligations.ControlClears := by
  refine ⟨fun s n k h => ⟨fun v met hv => logClear_gives h hv met, fun v met => ?_, fun v met => ?_, fun t ht => ?_⟩, fun s hup => ?_⟩
  · obtain ⟨cc, me, ve, coll⟩ := modUnitFlags_core h.2 (fun b => clearFlags b v.toNat met)
    exact ⟨gives_of_whenUp h.1 rfl cc, gives_of_whenUp h.1 rfl me, gives_of_whenUp h.1 rfl ve, gives_of_whenUp h.1 rfl coll⟩
  · obtain ⟨cc, me, ve, -⟩ := modUnitFlags_core h.2 (fun b => releaseCap b v.toNat met)
    exact ⟨gives_of_whenUp h.1 rfl cc, gives_of_whenUp h.1 rfl me, gives_of_whenUp h.1 rfl ve, captureRelease_de h v met,
      captureRelease_coll h v met⟩
  · exact ⟨setPoison_gives h ht, clearPoison_gives h ht false, clearPoison_gives h ht true⟩
  · exact ⟨fun e v met hg he => gives_of_whenUp hup rfl (modUnitFlags_se hg he _),
      fun st v met hst => gives_of_whenUp hup rfl (modUnitFlags_nmu hst _),
      fun e v met hg he => gives_of_whenUp hup rfl (modUnitFlags_se hg he _),
      fun st v met hst => gives_of_whenUp hup rfl (modUnitFlags_nmu hst _),
      fun v met => gives_of_whenUp hup rfl rfl,
      fun g v hg => gives_of_whenUp hup rfl (if_pos hg),
      fun p a v r ha hr => ⟨registerWrite_lost hup ha hr, fun t => registerWrite_done hup ha hr⟩⟩

/-! ### The skips of a DE descriptor -/

theorem firstSkip_hit {b : Bool} (h : b = true) (c : Nat) (l : List (Bool × Nat)) : firstSkip ((b, c) :: l) = some c := by
  simp [firstSkip, h]

theorem firstSkip_miss {b : Bool} (h : ¬b = true) (c : Nat) (l : List (Bool × Nat)) : firstSkip ((b, c) :: l) = firstSkip l := by
  simp [firstSkip, h]

theorem firstSkip_append {l : List (Bool × Nat)} (h : ∀ p ∈ l, p.1 = false) (r : List (Bool × Nat)) :
    firstSkip (l ++ r) = firstSkip r := by
  induction l with
  | nil => rfl
  | cons p l ih =>
    obtain ⟨hp, hl⟩ := List.forall_mem_cons.1 h
    exact (firstSkip_miss (by simp [hp]) p.2 (l ++ r)).trans (ih hl)

/-- Two conditions of one status, one after the other. -/
theorem firstSkip_pair (a b : Bool) (c : Nat) : firstSkip [(a, c), (b, c)] = if a = true ∨ b = true then some c else none := by
  cases a <;> cases b <;> rfl

/-- Stale work that leaves the package (R19, R367). -/
def StaleRemote (s : State) (k : Nat) (x : Cmd) : Prop := dSpace x (fun p => p != 0) = true ∧ epochStale s k = true

/-- An address of the descriptor names a fused unit of this package (R19). -/
def FusedPlace (s : State) (x : Cmd) : Prop :=
  dSrcL x = false ∧ addrFused s (dSrc x) = true ∨ dDstL x = false ∧ addrFused s (dDst x) = true

/-- Space 11 outside START, TEST and RECOVERY (R314). -/
def ShutSpace (s : State) (x : Cmd) : Prop :=
  dSpace x (fun p => p == 3) = true ∧ phase s ≠ phStart ∧ phase s ≠ phTest ∧ phase s ≠ phRecovery

/-- An atomic float addition in a locked job (R330, R413). -/
def LockedFloatAtomic (s : State) (x : Cmd) : Prop := w0Op x.w0 = 6 ∧ dAop x = 1 ∧ locked s = true

/-- A place that does not hold the extent, or that is closed; for a scatter or gather also that of its index vector (R313). -/
def OutOfBounds (s : State) (k : Nat) (x : Cmd) : Prop :=
  dEmpty x = false ∧ (dLocs s k x = none ∨ dClosed s k x = true ∨ w0Op x.w0 = 3 ∧ (dNmu x = 1 ∨ dNmu x = 2) ∧
    ∃ f, numFmt s true (dFmt x) = some f ∧ vecLoc k x (4 * (dLen x / nmuSize x f)) = none)

section
variable (s : State) (k : Nat) (x : Cmd)

theorem staleRemote_iff : (dSpace x (fun p => p != 0) && epochStale s k) = true ↔ StaleRemote s k x := by
  rw [Bool.and_eq_true]; rfl

theorem fusedPlace_iff :
    ((!dSrcL x && addrFused s (dSrc x)) || (!dDstL x && addrFused s (dDst x))) = true ↔ FusedPlace s x := by
  simp [FusedPlace]

theorem shutSpace_iff :
    (dSpace x (fun p => p == 3) && !(phase s == phStart || phase s == phTest || phase s == phRecovery)) = true ↔ ShutSpace s x := by
  simp [ShutSpace, and_assoc]

theorem lockedFloatAtomic_iff : (w0Op x.w0 == 6 && dAop x == 1 && locked s) = true ↔ LockedFloatAtomic s x := by
  simp [LockedFloatAtomic, and_assoc]

/-- The two conditions of BOUNDS: a place of the descriptor, and the index vector of a scatter or gather. -/
theorem outOfBounds_iff :
    ((!dEmpty x && ((dLocs s k x).isNone || dClosed s k x)) = true ∨
      (w0Op x.w0 == 3 && (dNmu x == 1 || dNmu x == 2) && !dEmpty x &&
        (match numFmt s true (dFmt x) with | some f => (vecLoc k x (4 * (dLen x / nmuSize x f))).isNone | none => false)) = true) ↔
    OutOfBounds s k x := by
  unfold OutOfBounds
  cases dEmpty x <;> cases numFmt s true (dFmt x) <;> simp [and_assoc, or_assoc]

end

/-- Settles O59: a check that does not apply is passed over, one that applies ends the search, in the order of R19. -/
theorem skipOrder : Obligations.SkipOrder := by
  refine ⟨fun l b c d r h => ⟨?_, ?_⟩, fun s k x => ?_⟩
  · exact (firstSkip_append h _).trans (firstSkip_hit rfl c r)
  · rw [firstSkip_append h]
    cases b <;> simp [firstSkip]
  intro stale illegal fused shut det bounds
  have hit_stale (h : stale) := firstSkip_hit ((staleRemote_iff s k x).2 h) stEpochStale
  have pass_stale (h : ¬stale) := firstSkip_miss (mt (staleRemote_iff s k x).1 h) stEpochStale
  have pass_illegal (h : ¬illegal) := firstSkip_miss h stIllegal
  have pass_fused (h : ¬fused) := firstSkip_miss (mt (fusedPlace_iff s x).1 h) stFused
  have pass_shut (h : ¬shut) := firstSkip_miss (mt (shutSpace_iff s x).1 h) stPhase
  have pass_det (h : ¬det) := firstSkip_miss (mt (lockedFloatAtomic_iff s x).1 h) stDet
  refine ⟨fun hs => ⟨hit_stale hs _, hit_stale hs _⟩,
    fun hs => ⟨(pass_stale hs _).trans (firstSkip_hit rfl _ _), fun hi => (pass_stale hs _).trans (firstSkip_hit hi _ _)⟩,
    fun hs hi hf => ?_, fun hs hi hf hp => ?_, fun hs hi hf hp hd => ?_, fun hs hi hf hp hd hb => ?_, fun hs hi hf hp hd hb => ?_⟩
  all_goals refine (pass_stale hs _).trans ((pass_illegal hi _).trans ?_)
  · exact firstSkip_hit ((fusedPlace_iff s x).2 hf) _ _
  all_goals refine (pass_fused hf _).trans ?_
  · exact firstSkip_hit ((shutSpace_iff s x).2 hp) _ _
  all_goals refine (pass_shut hp _).trans ?_
  · exact firstSkip_hit ((lockedFloatAtomic_iff s x).2 hd) _ _
  all_goals refine (pass_det hd _).trans ((firstSkip_pair _ _ _).trans ?_)
  · exact if_pos ((outOfBounds_iff s k x).2 hb)
  · exact if_neg (mt (outOfBounds_iff s k x).1 hb)

end Sys2Proof.Scope
end

section
/-! SUPPORT. The family of chapter 01: reset and its release, and the accesses of the harts. -/
namespace Sys2Proof.Composition
open Sys2Proof Machine Config Safety Laws Scope

/-! ### Reset and its release -/

/-- Every domain of a package in reset is OFF (R566). -/
theorem domState_off {s : State} (h : s.up = false) (d : Nat) : domState s d = 0 := by simp [domState, h]

theorem thermTripLow_iff (s : State) : thermTripLow s = true ↔ s.tripped = true ∧ s.vinOk = true := by simp [thermTripLow]

/-- A reading at or above the trip temperature resets the package with the trip latched (R570, R571). -/
theorem sensorReading_trips {s : State} {r : Reading} (hup : s.up = true) (hr : r.temp.any (fun p => 1250 ≤ p.2) = true) (at_ : Nat) :
    exec (.sensorReading r at_) s = .next (enterReset { s with tripped := true }) :=
  if_pos (by simp only [hup, hr, Bool.and_self])

/-- What a release begins from: the state after reset with the NVM, the fuses and the faults of the hardware (R567). -/
def releaseBase (s : State) : State :=
  { State.reset with
    pending := s.pending, grade := s.grade, nvmA := s.nvmA, nvmB := s.nvmB, freeCount := s.freeCount,
    meFault := s.meFault, seFault := s.seFault, parity := s.parity, dieParity := s.dieParity }

/-- The straps: the position in the package, the number of the board, and the PLCA node that follows (R45, R50). -/
def strapped (s : State) (p b : Nat) : State :=
  dset (dset (dset s kPackagePosition (p % 4)) kBoardNumber (b % 16)) kPlcaNodeId (1 + p % 4)

theorem strapped_position (s : State) (p b : Nat) : dget (strapped s p b) kPackagePosition = p % 4 := by
  rw [strapped, dget_dset_other _ _ _ (by decide), dget_dset_other _ _ _ (by decide), dget_dset]

theorem strapped_board (s : State) (p b : Nat) : dget (strapped s p b) kBoardNumber = b % 16 := by
  rw [strapped, dget_dset_other _ _ _ (by decide), dget_dset]

/-- Entries written one after another change the dictionary alone. -/
theorem foldl_dset_dict (l : List (Nat × Nat)) (s : State) : ∃ d, l.foldl (fun t x => dset t x.1 x.2) s = { s with dict := d } := by
  induction l generalizing s with
  | nil => exact ⟨s.dict, rfl⟩
  | cons x l ih => exact ih (dset s x.1 x.2)

/-- Under a latched trip a release has no effect (R571). -/
theorem powerUpResetRelease_tripped {s : State} (h : s.tripped = true) (p b : Nat) : exec (.powerUpResetRelease p b) s = .next s :=
  congrArg Host.Outcome.next (if_pos (by simp [h]))

/-- A release reads the straps over the entries that reset keeps, and sends the probe for the package's own address (R510, R567). -/
theorem powerUpResetRelease_next {s : State} (hup : s.up = false) (ht : s.tripped = false) (p b : Nat) :
    ∃ d, let t := strapped { releaseBase s with dict := d } p b
      exec (.powerUpResetRelease p b) s = .next { t with sent := [dadProbe t] } := by
  obtain ⟨d, kept⟩ := foldl_dset_dict s.dict (releaseBase s)
  refine ⟨d, ?_⟩
  rw [← kept]
  exact congrArg Host.Outcome.next (if_neg (by simp [hup, ht]))

/-! ### The end of zeroing -/

/-- A change of every core that keeps an unlisted one acts on each. -/
theorem coreAt_mapCores {s t : State} {f : Core → Core} (hf : f {} = {}) (ht : t.cores = tblMap coreDflt s.cores f) (k : Nat) :
    coreAt t k = f (coreAt s k) := by
  rw [coreAt, ht]
  exact tblGet_tblMap coreDflt s.cores f k hf

/-- Settles O41: each row by the condition on which it acts, and what it begins from. -/
theorem resetRows : Obligations.ResetRows := by
  refine ⟨fun s ns => ⟨fun h => ⟨congrArg Host.Outcome.next (if_pos h), rfl, rfl⟩,
      fun h => congrArg Host.Outcome.next (if_neg (Nat.not_lt.2 h))⟩,
    fun s ns => ⟨fun h => ⟨congrArg Host.Outcome.next (if_pos h), rfl, rfl⟩,
      fun h => congrArg Host.Outcome.next (if_neg (Nat.not_lt.2 h))⟩,
    fun s r at_ hup hr => ⟨sensorReading_trips hup hr at_, rfl, domState_off rfl, (thermTripLow_iff _).trans (and_iff_right rfl)⟩,
    fun s p b _ ht => powerUpResetRelease_tripped ht p b, fun s p b hup ht => ?_,
    fun s hup => ⟨gives_of_whenUp hup rfl rfl, gives_of_whenUp hup rfl rfl⟩, fun s hup hz => ?_⟩
  · obtain ⟨d, row⟩ := powerUpResetRelease_next hup ht p b
    exact ⟨_, row, rfl, rfl, rfl, rfl, rfl, rfl, rfl, rfl, rfl, rfl, strapped_position _ p b, strapped_board _ p b⟩
  · intro t
    refine ⟨gives_of_whenUp hup rfl (if_neg (by simp [hz])), fun k => ?_⟩
    have zeroed := coreAt_mapCores (t := t) (f := fun c => { c with store := [], tiles := [] }) rfl rfl k
    rw [zeroed]
    exact ⟨rfl, rfl, rfl⟩

/-! ### Accesses of the harts -/

/-- A place whose accesses must be naturally aligned (R536): a core store, a register, or stack memory that the caches do not hold. -/
def Uncached (l : PaLoc) : Prop := ∀ k, l ≠ .line k ∧ l ≠ .host k ∧ l ≠ .fault k

theorem uncached_cases {l : PaLoc} (h : Uncached l) :
    (∃ k o, l = .store k o) ∨ (∃ r, l = .reg r) ∨ (∃ a, l = .mem a) ∨ ∃ a, l = .away a := by
  cases l with
  | line k => exact absurd rfl (h k).1
  | host k => exact absurd rfl (h k).2.1
  | fault st => exact absurd rfl (h st).2.2
  | store k o => exact .inl ⟨k, o, rfl⟩
  | reg r => exact .inr (.inl ⟨r, rfl⟩)
  | mem a => exact .inr (.inr (.inl ⟨a, rfl⟩))
  | away a => exact .inr (.inr (.inr ⟨a, rfl⟩))

section
variable {i : Instr} {s : State}

theorem gives_pos {t u : State} {c : Prop} [Decidable c] (row : Gives i s (if c then t else u)) (hc : c) : Gives i s t := by
  rwa [if_pos hc] at row

theorem gives_neg {t u : State} {c : Prop} [Decidable c] (row : Gives i s (if c then t else u)) (hc : ¬c) : Gives i s u := by
  rwa [if_neg hc] at row

/-- An access by the outcome of bringing its lines in: it acts, waits or fails (R536, R537). -/
theorem gives_fetched {n : Nat} {waits fails acts : State}
    (row : Gives i s (if n = 1 then waits else if (n != 0) = true then fails else acts)) :
    (n = 0 → Gives i s acts) ∧ (n = 1 → Gives i s waits) ∧ (2 ≤ n → Gives i s fails) :=
  match n with
  | 0 => ⟨fun _ => row, fun h => absurd h (by decide), fun h => absurd h (by decide)⟩
  | 1 => ⟨fun h => absurd h (by decide), fun _ => row, fun h => absurd h (by decide)⟩
  | n + 2 => ⟨fun h => absurd h (Nat.succ_ne_zero _), fun h => absurd h (by omega), fun _ => gives_pos (gives_neg row (by omega)) rfl⟩

end

/-- The access fault of a load, and that of an instruction fetch (R537). -/
abbrev loadCause (f : LoadForm) : Nat := if f.fetch then 1 else 5

section
variable {s : State} {h pa : Nat} (hup : s.up = true) (hh : hartUp s h = true)
include hup hh

/-! #### Loads -/

section
variable {f : LoadForm}

/-- A load of no size, or of an address that the PMP shuts, faults (R532, R536). -/
theorem hartLoad_shut (hs : sizeOk f.size = false ∨ pmpOk s h pa f.size (if f.fetch then 4 else 1) = false) :
    Gives (.hartLoad h pa f) s (hartDone s h pa 0 stBounds (loadCause f)) :=
  gives_of_whenUp hup rfl (by rcases hs with hs | hs <;> simp [hh, hs])

variable (hs : sizeOk f.size = true) (hp : pmpOk s h pa f.size (if f.fetch then 4 else 1) = true)
include hs hp

theorem hartLoad_fault {st : Nat} (hl : paDecode s pa f.size = .fault st) :
    Gives (.hartLoad h pa f) s (hartDone s h pa 0 st (loadCause f)) :=
  gives_of_whenUp hup rfl (by simp [hh, hs, hp, hl])

theorem hartLoad_unaligned (hl : Uncached (paDecode s pa f.size)) (ha : aligned pa f.size = false) :
    Gives (.hartLoad h pa f) s (hartDone s h pa 0 stBounds (loadCause f)) := by
  refine gives_of_whenUp hup rfl ?_
  obtain ⟨k, o, hl⟩ | ⟨r, hl⟩ | ⟨a, hl⟩ | ⟨a, hl⟩ := uncached_cases hl <;> simp [hh, hs, hp, hl, ha]

theorem hartLoad_store {k o : Nat} (hl : paDecode s pa f.size = .store k o) (ha : aligned pa f.size = true) :
    let p := dieTry (touchCore s k) (.hart h) (k / 1344)
    Gives (.hartLoad h pa f) s
      (hartDone p.1 h pa (leNat (storeRead (coreAt s k) o f.size)) (if p.2 = 0 then 0 else 0x83) (loadCause f)) :=
  gives_of_whenUp hup rfl (by simp [hh, hs, hp, hl, ha])

theorem hartLoad_reg {r : Reg} (hl : paDecode s pa f.size = .reg r) (ha : aligned pa f.size = true) :
    let p := regTry (regTouch s r) (.hart h) r
    Gives (.hartLoad h pa f) s (hartDone p.1 h pa (regRead p.1 r / 256 ^ (pa % 8) % 256 ^ f.size) (if p.2 = 0 then 0 else 0x83)
      (loadCause f)) :=
  gives_of_whenUp hup rfl (by simp [hh, hs, hp, hl, ha])

theorem hartLoad_mem {a : Nat} (hl : paDecode s pa f.size = .mem a) (ha : aligned pa f.size = true) :
    let m := memReady s [(a, f.size)] [] (.hart h)
    let r := memRange m.1 a f.size (.hart h)
    Gives (.hartLoad h pa f) s (if m.2 = false then m.1
      else if r.2.2 = 0 then hartDone r.1 h pa (leNat r.2.1) 0
      else hartDone r.1 h pa 0 (lineStatus (r.2.2 + 1)) (loadCause f)) :=
  gives_of_whenUp hup rfl (by simp [hh, hs, hp, hl, ha])

theorem hartLoad_away {a : Nat} (hl : paDecode s pa f.size = .away a) (ha : aligned pa f.size = true) :
    let c := loadCause f
    let r := issue s 0 fkRead (a / 128 * 128) false [] (.hartLoad h pa f.size c)
    Gives (.hartLoad h pa f) s (if r.2 = 0 then r.1 else hartDone r.1 h pa 0 r.2 c) :=
  gives_of_whenUp hup rfl (by simp [hh, hs, hp, hl, ha])

theorem hartLoad_cached {key : Nat} (hl : paDecode s pa f.size = .line key ∨ paDecode s pa f.size = .host key)
    (hf : (hLines key pa f.size).all (hFree s) = true) :
    let c := loadCause f
    let ks := hLines key pa f.size
    let r := hFetchAll s h pa ks c
    let b := hBad r.1 h c ks pa f.size
    Gives (.hartLoad h pa f) s (if r.2 = 1 then r.1 else if (r.2 != 0) = true then hartDone r.1 h pa 0 (lineStatus r.2) c
      else if b.2 = true then hartDone b.1 h pa 0 stPoison c
      else hartDone (hNear b.1 h c ks) h pa (leNat (hBytes b.1 ks pa f.size)) 0) := by
  refine gives_of_whenUp hup rfl ?_
  rcases hl with hl | hl <;> simp only [hh, hs, hp, hl, hf] <;> rfl

end

/-! #### Stores -/

section
variable {size : Nat} {v : Word}

/-- A store of no size, or to an address that the PMP shuts, faults (R532, R536). -/
theorem hartStore_shut (hs : sizeOk size = false ∨ pmpOk s h pa size 2 = false) :
    Gives (.hartStore h pa size v) s (hartDone s h pa 0 stBounds 7) :=
  gives_of_whenUp hup rfl (by rcases hs with hs | hs <;> simp [hh, hs])

variable (hs : sizeOk size = true) (hp : pmpOk s h pa size 2 = true)
include hs hp

theorem hartStore_fault {st : Nat} (hl : paDecode s pa size = .fault st) :
    Gives (.hartStore h pa size v) s (hartDone s h pa 0 st 7) :=
  gives_of_whenUp hup rfl (by simp [hh, hs, hp, hl])

theorem hartStore_unaligned (hl : Uncached (paDecode s pa size)) (ha : aligned pa size = false) :
    Gives (.hartStore h pa size v) s (hartDone s h pa 0 stBounds 7) := by
  refine gives_of_whenUp hup rfl ?_
  obtain ⟨k, o, hl⟩ | ⟨r, hl⟩ | ⟨a, hl⟩ | ⟨a, hl⟩ := uncached_cases hl <;> simp [hh, hs, hp, hl, ha]

theorem hartStore_store {k o : Nat} (hl : paDecode s pa size = .store k o) (ha : aligned pa size = true) :
    let w := writeLocal (touchCore s k) (.hart h) (.store k o) 0 ((leBytes size v.toNat).map (fun b => some (b, false))) false
    Gives (.hartStore h pa size v) s (if w.failed = [] then w.s else hartAsync w.s h pa 0x83) :=
  gives_of_whenUp hup rfl (by simp [hh, hs, hp, hl, ha])

/-- A store to a register is lost where its links are exhausted, and one that arrives acts, or names no register (R460, R536). -/
theorem hartStore_reg {r : Reg} (hl : paDecode s pa size = .reg r) (ha : aligned pa size = true) :
    let p := regTry (regTouch s r) (.hart h) r
    let w := regWrite p.1 (v.toNat * 256 ^ (pa % 8) % 2 ^ 64) ((256 ^ size - 1) * 256 ^ (pa % 8)) r
    Gives (.hartStore h pa size v) s (if p.2 ≠ 0 then hartAsync p.1 h pa 0x83
      else match w with
        | some t => (List.range 64).foldl hartPoll t
        | none => hartAsync s h pa stBounds) := by
  intro p w
  refine gives_of_whenUp hup rfl ?_
  cases e : w <;> simp_all [p, w]

theorem hartStore_mem {a : Nat} (hl : paDecode s pa size = .mem a) (ha : aligned pa size = true) :
    let n := memReady s [] [(a, size)] (.hart h)
    let w := writeLine n.1 (a / 128 * 128) (lineSlice a (leBytes size v.toNat) (a / 128 * 128)) false (.hart h) pa pa
    Gives (.hartStore h pa size v) s (if n.2 = false then n.1 else if w.2 = true then hartAsync w.1 h pa 0x83 else w.1) :=
  gives_of_whenUp hup rfl (by simp [hh, hs, hp, hl, ha])

theorem hartStore_away {a : Nat} (hl : paDecode s pa size = .away a) (ha : aligned pa size = true) :
    let m := lineSlice a (leBytes size v.toNat) (a / 128 * 128)
    let w := issue s 0 fkWriteMask (a / 128 * 128) false (m.map (·.getD 0) ++ maskBytes m) (.hartStore h pa)
    Gives (.hartStore h pa size v) s (if w.2 = 0 then w.1 else hartAsync w.1 h pa w.2) :=
  gives_of_whenUp hup rfl (by simp [hh, hs, hp, hl, ha])

theorem hartStore_cached {key : Nat} (hl : paDecode s pa size = .line key ∨ paDecode s pa size = .host key)
    (hf : (hLines key pa size).all (hFree s) = true) :
    let ks := hLines key pa size
    let r := hFetchAll s h pa ks 0
    Gives (.hartStore h pa size v) s (if r.2 = 1 then r.1 else if (r.2 != 0) = true then hartAsync r.1 h pa (lineStatus r.2)
      else hPut r.1 h ks pa (leBytes size v.toNat)) := by
  refine gives_of_whenUp hup rfl ?_
  rcases hl with hl | hl <;> simp only [hh, hs, hp, hl, hf] <;> rfl

end

/-! #### Atomics -/

section
variable {op : HartAmo} {size : Nat} {v : Word}

/-- An AMO of another size, one that is not aligned, a compare-and-swap and one that the PMP stops fault (R532, R536). -/
theorem hartAmo_shut (hs : (size ≠ 4 ∧ size ≠ 8) ∨ aligned pa size = false ∨ (∃ e, op = .cas e) ∨
      pmpOk s h pa size (if op = .lr then 1 else 3) = false) :
    Gives (.hartAmo h ⟨op, size⟩ pa v) s (hartDone s h pa 0 stBounds (amoCause op)) := by
  refine gives_of_whenUp hup rfl ?_
  obtain ⟨h4, h8⟩ | ha | ⟨e, rfl⟩ | hp := hs
  · simp [hh, h4, h8]
  · simp [hh, ha]
  · simp [hh]
  · simp [hh, hp]

variable (hs : size = 4 ∨ size = 8) (ha : aligned pa size = true) (hc : ∀ e, op ≠ .cas e)
  (hp : pmpOk s h pa size (if op = .lr then 1 else 3) = true)
include hs ha hc hp

/-- An AMO that is let through acts by the place that it names, and by its remote atomic where it has one (R536). -/
theorem hartAmo_cached {key : Nat} (hl : awayLine op (paDecode s pa size) pa = .line key ∨ awayLine op (paDecode s pa size) pa = .host key) :
    Gives (.hartAmo h ⟨op, size⟩ pa v) s (amoCached s h pa key op size v) := by
  refine gives_of_whenUp hup rfl ?_
  rcases hs with rfl | rfl <;> rcases hl with hl | hl <;> simp [hh, ha, hp, hl]

theorem hartAmo_fault {st : Nat} (hl : awayLine op (paDecode s pa size) pa = .fault st) :
    Gives (.hartAmo h ⟨op, size⟩ pa v) s (hartDone s h pa 0 st (amoCause op)) := by
  refine gives_of_whenUp hup rfl ?_
  rcases hs with rfl | rfl <;> simp [hh, ha, hp, hl]

/-- Beyond the stack memory of another package there are no atomics (R536). -/
theorem hartAmo_far {a : Nat} (hl : awayLine op (paDecode s pa size) pa = .away a) (hf : 2 ^ 40 ≤ offOf a) :
    Gives (.hartAmo h ⟨op, size⟩ pa v) s (hartDone s h pa 0 stBounds (amoCause op)) := by
  refine gives_of_whenUp hup rfl ?_
  rcases hs with rfl | rfl
  · simp [hh, ha, hp, hl]
  · cases e : amoRemote op with
    | none => simp [hh, ha, hp, hl, e]
    | some o => simp [-Nat.reducePow, hh, ha, hp, hl, e, hf]

/-- At an uncached place there are none of 4 bytes, none of an operation without a remote atomic, and none outside stack memory (R536). -/
theorem hartAmo_none {l : PaLoc} (hl : awayLine op (paDecode s pa size) pa = l) (hu : Uncached l)
    (hn : size = 4 ∨ amoRemote op = none ∨ ∀ a, l ≠ .mem a ∧ l ≠ .away a) :
    Gives (.hartAmo h ⟨op, size⟩ pa v) s (hartDone s h pa 0 stBounds (amoCause op)) := by
  refine gives_of_whenUp hup rfl ?_
  rcases hs with rfl | rfl
  · obtain ⟨k, o, rfl⟩ | ⟨r, rfl⟩ | ⟨a, rfl⟩ | ⟨a, rfl⟩ := uncached_cases hu <;> simp [hh, ha, hp, hl]
  · have remote {a : Nat} (stack : l = .mem a ∨ l = .away a) : amoRemote op = none :=
      (hn.resolve_left (by decide)).resolve_right fun other => stack.elim (other a).1 (other a).2
    obtain ⟨k, o, rfl⟩ | ⟨r, rfl⟩ | ⟨a, rfl⟩ | ⟨a, rfl⟩ := uncached_cases hu
    · simp [hh, ha, hp, hl]
    · simp [hh, ha, hp, hl]
    · simp [hh, ha, hp, hl, remote (.inl rfl)]
    · simp [hh, ha, hp, hl, remote (.inr rfl)]

end

section
variable {op : HartAmo} {v : Word} {o : Nat} (ha : aligned pa 8 = true) (hc : ∀ e, op ≠ .cas e)
  (hp : pmpOk s h pa 8 (if op = .lr then 1 else 3) = true) (ho : amoRemote op = some o)
include ha hc hp ho

theorem hartAmo_mem {a : Nat} (hl : awayLine op (paDecode s pa 8) pa = .mem a) :
    Gives (.hartAmo h ⟨op, 8⟩ pa v) s (atomicPut s ⟨stackOf s a, a, o, v.toNat, 0, .hart h, none, pa⟩) :=
  gives_of_whenUp hup rfl (by simp [hh, ha, hp, hl, ho])

theorem hartAmo_away {a : Nat} (hl : awayLine op (paDecode s pa 8) pa = .away a) (hf : offOf a < 2 ^ 40) :
    let r := issue s 0 (4 + o) a false (leBytes 8 v.toNat ++ leBytes 8 0) (.hartAmo h pa)
    Gives (.hartAmo h ⟨op, 8⟩ pa v) s (if r.2 = 0 then r.1 else hartDone r.1 h pa 0 r.2 (amoCause op)) :=
  gives_of_whenUp hup rfl (by simp [-Nat.reducePow, hh, ha, hp, hl, ho, hf])

end
end

/-! #### What else a hart does -/

section
variable {s : State} {h : Nat} (hup : s.up = true)
include hup

/-- A fence completes once no earlier access that it orders is under way (R538). -/
theorem hartFence_gives (hh : hartUp s h = true) {pred : BitVec 4}
    (hf : (pred.getLsbD 2 || pred.getLsbD 0) = false ∨ hartOutstanding s h = false) :
    Gives (.hartFence h pred) s { s with hresp := tblSet (fun _ => (0, false)) s.hresp h (0, false) } := by
  refine gives_of_whenUp hup rfl (if_neg ?_)
  rw [hh]
  rcases hf with hf | hf <;> rw [hf] <;> simp

theorem machineTimerInterrupt_gives {at_ : Nat} (h64 : h < 64) (ht : mtimecmpOf s h ≤ timeNs (atTime s at_)) :
    Gives (.machineTimerInterrupt h at_) s (hartPoll { atTime s at_ with mtip := setBits s.mtip h h 1 } h) := by
  have due : mtimecmpOf (atTime s at_) h ≤ timeNs (atTime s at_) := ht
  exact gives_of_whenUp hup rfl (if_pos (by simp [h64, due]))

end

/-- A hart takes the interrupt that comes first in their order, and none where its enables let none through (R539). -/
theorem hartPoll_taken {s : State} {h i : Nat} (hh : hartUp s h = true) (hi : irqOrder.find? (irqTaken s h) = some i) :
    hartPoll s h = hartTrap s h i 0 true := by
  simp [hartPoll, hh, hi]

theorem hartPoll_none {s : State} {h : Nat} (hi : irqOrder.find? (irqTaken s h) = none) : hartPoll s h = s := by
  unfold hartPoll
  rw [hi]
  exact ite_self s

/-- Settles O49: each access by the place that its address names, the cached ones by the outcome of bringing their lines in. -/
theorem hartRows : Obligations.HartRows := by
  refine fun s h hup hh => ⟨fun pa f => hartLoad_shut hup hh, fun pa size v => hartStore_shut hup hh,
    fun pa f hs hp => ⟨fun st => hartLoad_fault hup hh hs hp, hartLoad_unaligned hup hh hs hp, fun k o => hartLoad_store hup hh hs hp,
      fun r => hartLoad_reg hup hh hs hp, fun a hl ha => ?loadMem, fun a => hartLoad_away hup hh hs hp, fun key hl hf => ?loadCached⟩,
    fun pa size v hs hp => ⟨fun st => hartStore_fault hup hh hs hp, hartStore_unaligned hup hh hs hp, fun k o => hartStore_store hup hh hs hp,
      fun r hl ha => ?storeReg, fun a hl ha => ?storeMem, fun a => hartStore_away hup hh hs hp, fun key hl hf => ?storeCached⟩,
    fun op size pa v => ⟨hartAmo_shut hup hh, fun hs ha hc hp => ⟨fun key => hartAmo_cached hup hh hs ha hc hp, ?amoMem, ?amoAway,
      fun a => hartAmo_far hup hh hs ha hc hp, hartAmo_none hup hh hs ha hc hp rfl, fun st => hartAmo_fault hup hh hs ha hc hp⟩⟩,
    fun pred => hartFence_gives hup hh, fun pa st h64 => gives_of_whenUp hup rfl (if_pos h64),
    fun at_ => machineTimerInterrupt_gives hup, fun i => hartPoll_taken hh, hartPoll_none,
    fun v hb => gives_of_whenUp hup rfl (if_pos hb), fun v hb => gives_of_whenUp hup rfl (if_neg hb)⟩
  case loadMem =>
    have row := hartLoad_mem hup hh hs hp hl ha
    exact ⟨fun hm hr => gives_pos (gives_neg row (ne_false_of_eq_true hm)) hr,
      fun hm hr => gives_neg (gives_neg row (ne_false_of_eq_true hm)) hr, gives_pos row⟩
  case loadCached => exact gives_fetched (hartLoad_cached hup hh hs hp hl hf)
  case storeReg =>
    have row := hartStore_reg (v := v) hup hh hs hp hl ha
    exact ⟨gives_pos row, fun hr => gives_neg row (not_not.2 hr)⟩
  case storeMem =>
    have row := hartStore_mem (v := v) hup hh hs hp hl ha
    exact ⟨fun hn => gives_neg row (ne_false_of_eq_true hn), gives_pos row⟩
  case storeCached => exact gives_fetched (hartStore_cached hup hh hs hp hl hf)
  case amoMem =>
    rintro a o hl rfl ho
    exact hartAmo_mem hup hh ha hc hp ho hl
  case amoAway =>
    rintro a o hl rfl ho hf
    exact hartAmo_away hup hh ha hc hp ho hl hf

end Sys2Proof.Composition
end

section
/-! SUPPORT. The family of chapter 02: the FP64 rows of the control core, shared scales, captures, and the writes of DETERMINISM_SCOPE. -/
namespace Sys2Proof.Formats
open Sys2Proof Machine Config Safety Laws Scope

/-! ### FP64 rows of the control core -/

/-- A row of the CC that acts and goes on does what its action says, on any words among its own. -/
theorem ccDoes_of_row {i : Nat → Instr} {mine own : Nat → Bool} {act : CcX → State → State}
    (hi : ∀ n s, exec (i n) s = whenUp s (ccRow n own (fun x t => (act x t, true)) s))
    (hm : ∀ w, mine w = true → own w = true) : CcDoes i mine act := by
  intro s x h
  have up : s.up = true := h.1.1.1
  exact gives_of_whenUp up (hi x.n s) (ccRow_at (ccAt_mono h (hm x.w h.2.1)) _)

/-- A register row of the CC makes of the registers what it says. -/
theorem ccGives_of_reg {i : Nat → Instr} {mine : Nat → Bool} {f : Nat → CcRegs → CcRegs}
    (hi : ∀ n s, exec (i n) s = whenUp s (ccReg n mine f s)) : CcGives i mine f :=
  ccDoes_of_row hi fun _ => id

/-- A scalar row of a binary FP64 operation. -/
theorem ccDoes_triF {i : Nat → Instr} {m : Nat} {f : FpOp} (hi : ∀ n s, exec (i n) s = whenUp s (triF n m f s)) :
    CcDoes i (isScalar m) (fpAct f) :=
  ccDoes_of_row hi fun _ => id

/-- Its row on short vectors. -/
theorem ccDoes_triWF {i : Nat → Instr} {m : Nat} {f : FpOp} (hi : ∀ n s, exec (i n) s = whenUp s (triWF n m f s)) :
    CcDoes i (isVector m) (fpLanes f) :=
  ccDoes_of_row hi fun _ => id

/-- A row of FCVT does the conversion of its KIND; its other words are those of the reserved KINDs (R148). -/
theorem ccDoes_ccFcvt {i : Nat → Instr} {kind : Nat} (hi : ∀ n s, exec (i n) s = whenUp s (ccFcvt n kind s)) :
    CcDoes i (fun w => isScalar 0x29 w && (tB w == kind)) (fcvtAct kind) := by
  refine ccDoes_of_row hi fun w hw => ?_
  obtain ⟨hs, hk⟩ := Bool.and_eq_true_iff.1 hw
  rw [hs, hk]; rfl

/-- Settles O10: each row is the CC's row of its action, and its words are among that row's own. -/
theorem ccFloatArithmetic : Obligations.CcFloatArithmetic := by
  refine ⟨⟨?scalar, ccGives_of_reg fun _ _ => rfl, ccGives_of_reg fun _ _ => rfl, ?fcvt, ccDoes_of_row (fun _ _ => rfl) fun _ => id⟩,
    ?vector, ccGives_of_reg fun _ _ => rfl, ccGives_of_reg fun _ _ => rfl, ccDoes_of_row (fun _ _ => rfl) fun _ => id,
    ccDoes_of_row (fun _ _ => rfl) fun _ => id⟩
  case scalar =>
    simp only [fpOps, List.zip_cons_cons, List.zip_nil_right, List.forall_mem_cons]
    exact ⟨ccDoes_triF fun _ _ => rfl, ccDoes_triF fun _ _ => rfl, ccDoes_triF fun _ _ => rfl, ccDoes_triF fun _ _ => rfl,
      ccDoes_triF fun _ _ => rfl, ccDoes_triF fun _ _ => rfl, ccDoes_triF fun _ _ => rfl, List.forall_mem_nil _⟩
  case fcvt =>
    simp only [List.forall_mem_cons]
    exact ⟨ccDoes_ccFcvt fun _ _ => rfl, ccDoes_ccFcvt fun _ _ => rfl, ccDoes_ccFcvt fun _ _ => rfl, ccDoes_ccFcvt fun _ _ => rfl,
      List.forall_mem_nil _⟩
  case vector =>
    simp only [fpOps, List.zip_cons_cons, List.zip_nil_right, List.forall_mem_cons]
    exact ⟨ccDoes_triWF fun _ _ => rfl, ccDoes_triWF fun _ _ => rfl, ccDoes_triWF fun _ _ => rfl, ccDoes_triWF fun _ _ => rfl,
      ccDoes_triWF fun _ _ => rfl, ccDoes_triWF fun _ _ => rfl, ccDoes_triWF fun _ _ => rfl, List.forall_mem_nil _⟩

/-! ### Shared scales -/

/-- The byte 0xFF makes any element a quiet NaN (R84). -/
theorem scaledVal_nan (v : FVal) : scaledVal v 0xFF = .nan false := rfl

/-- Any other byte scales a finite value by a power of two (R79). -/
theorem scaledVal_fin {e : Nat} (he : e ≠ 0xFF) (n : Bool) (m : Nat) (x : Int) :
    scaledVal (.fin n m x) e = .fin n m (x + ((e : Int) - 127)) :=
  if_neg he

/-- It leaves an infinity or a NaN what it is. -/
theorem scaledVal_special {e : Nat} (he : e ≠ 0xFF) {v : FVal} (hv : ∀ n m x, v ≠ .fin n m x) : scaledVal v e = v := by
  cases v with
  | fin n m x => exact absurd rfl (hv n m x)
  | nan q => exact if_neg he
  | inf n => exact if_neg he

/-- Element `i` of a scaled vector is its value under the byte of its block. -/
theorem readVals_getElem? {nf : NumFmt} (hsc : nf.sc = true) (fl : Bool) (xs : List Nat) (sc : List Byte) {i : Nat} (hi : i < xs.length) :
    (readVals fl nf xs sc)[i]? = some (scaledVal (elemVal fl nf.fmt (xs.getD i 0)) ((sc.getD (i / nf.blk) 0).toNat)) := by
  simp [readVals, hsc, hi]

/-- Settles O56: the element read is `scaledVal` of its value, by the cases of the scale byte and of the value. -/
theorem sharedScales : Obligations.SharedScales := by
  intro fl nf xs sc i hsc hi
  dsimp only
  rw [readVals_getElem? hsc fl xs sc hi]
  refine ⟨fun he => ⟨?_, rfl⟩, fun he n m x hv => ?_, fun he hv => ?_⟩
  · rw [he, scaledVal_nan]
  · rw [hv, scaledVal_fin he]
  · rw [scaledVal_special he hv]

/-! ### Captures -/

theorem b2n_le_one (b : Bool) : b2n b ≤ 1 := by cases b <;> decide

theorem flagsNat_lt (f : Flags) : flagsNat f < 16 := by
  have h0 := b2n_le_one f.inv
  have h1 := b2n_le_one f.ovf
  have h2 := b2n_le_one f.und
  have h3 := b2n_le_one f.inx
  unfold flagsNat
  omega

/-- Word 0 of a capture holds VALID: the fields below it fill no more than bits 0 to 62 (R95). -/
theorem capW0_valid (f : Flags) (slot it off : Nat) : (capW0 f slot it off).getLsbD 63 = true := by
  have hf := flagsNat_lt f
  have bit : Nat.testBit (2 ^ 63 + flagsNat f * 2 ^ 56 + slot % 16 * 2 ^ 52 + it % 2 ^ 32 * 2 ^ 20 + off % 2 ^ 16 * 2 ^ 4) 63 = true := by
    rw [Nat.testBit_eq_decide_div_mod_eq, decide_eq_true_iff]
    omega
  rw [capW0, BitVec.getLsbD_ofNat, bit]; rfl

section
variable (b : FlagBlk) (slot it off core : Nat) (e : FlagEv)

/-- An event raises its flags. -/
theorem raiseEv_flags : (raiseEv b slot it off core e).flags = b.flags ||| BitVec.ofNat 4 (flagsNat e.fl) := by
  unfold raiseEv; dsimp only; split <;> rfl

/-- An event arms and disarms nothing. -/
theorem raiseEv_arm : (raiseEv b slot it off core e).arm = b.arm := by
  unfold raiseEv; dsimp only; split <;> rfl

variable {b e}

/-- A held capture stays as it is. -/
theorem raiseEv_held (h : b.cap0.getLsbD 63 = true) :
    raiseEv b slot it off core e = { b with flags := b.flags ||| BitVec.ofNat 4 (flagsNat e.fl) } := by
  have skip : ¬(Nat.land (flagsNat e.fl) b.arm.toNat != 0 && !b.cap0.getLsbD 63) = true := by rw [h, Bool.not_true, Bool.and_false]; decide
  exact if_neg skip

/-- The first event of an armed flag is captured. -/
theorem raiseEv_captured (h : b.cap0.getLsbD 63 = false) (ha : Nat.land (flagsNat e.fl) b.arm.toNat ≠ 0) :
    (raiseEv b slot it off core e).cap0 = capW0 e.fl slot it off := by
  have taken : (Nat.land (flagsNat e.fl) b.arm.toNat != 0 && !b.cap0.getLsbD 63) = true := by rw [h, bne_iff_ne.2 ha]; rfl
  exact congrArg FlagBlk.cap0 (if_pos taken)
end

/-- Settles O22, by whether a capture is held. -/
theorem captureHoldsFirstEvent : Obligations.CaptureHoldsFirstEvent := by
  intro b slot it off core e
  refine ⟨fun h => ?held, fun h ha => ?first, raiseEv_flags .., raiseEv_arm ..⟩
  case held => rw [raiseEv_held slot it off core h]; exact ⟨rfl, rfl⟩
  case first => rw [raiseEv_captured slot it off core h ha]; exact capW0_valid ..

/-! ### DETERMINISM_SCOPE -/

/-- The scope may be written: a value that names a scope, where RWI entries are idle and no context is OPEN or CLOSING (R98, R411, R412). -/
def ScopeWritable (s : State) (v : Nat) : Prop :=
  v ≤ 2 ∧ (phase s = phIdle ∨ (phase s = phStart ∧ formeRuns s = false)) ∧ ∀ x ∈ s.ctxs, x.2.state ≠ 1 ∧ x.2.state ≠ 2

theorem rwiIdle_iff (s : State) : rwiIdle s = true ↔ phase s = phIdle ∨ (phase s = phStart ∧ formeRuns s = false) := by
  simp [rwiIdle]

/-- What the row tests before it leaves the entry as it is: that the scope may not be written. -/
theorem scopeRefused_iff (s : State) (v : Nat) :
    (2 < v || !rwiIdle s || s.ctxs.any (fun x => x.2.state == 1 || x.2.state == 2)) = true ↔ ¬ScopeWritable s v := by
  rw [ScopeWritable, ← rwiIdle_iff]
  simp only [Bool.or_eq_true, decide_eq_true_iff, Bool.not_eq_true', List.any_eq_true, beq_iff_eq, not_and_or, not_le, Bool.not_eq_true,
    not_forall, not_ne_iff, or_assoc, exists_prop]

/-- Where the scope may be written, the write sets it. -/
theorem scopeWrite_gives {s : State} {v : Nat} (hup : s.up = true) (ho : dictOpen s = true) (h : ScopeWritable s v) :
    Gives (.determinismScopeWrite v) s (dset s kDeterminismScope v) :=
  gives_of_whenUp hup rfl ((dictWrite_open ho _ _ _).trans (if_neg fun hr => (scopeRefused_iff s v).1 hr h))

/-- Elsewhere the write changes nothing. -/
theorem scopeWrite_refused {s : State} {v : Nat} (hup : s.up = true) (ho : dictOpen s = true) (h : ¬ScopeWritable s v) :
    exec (.determinismScopeWrite v) s = .next s :=
  exec_unchanged hup rfl ((dictWrite_open ho _ _ _).trans (if_pos ((scopeRefused_iff s v).2 h)))

/-- The lock is a scope other than 0 (R411). -/
theorem locked_iff (s : State) : locked s = true ↔ dget s kDeterminismScope ≠ 0 := bne_iff_ne

/-- Settles O38, by whether the dictionary serves writes and whether the scope may be written. -/
theorem determinismScopeRow : Obligations.DeterminismScopeRow := by
  intro s v hup
  exact ⟨scopeWrite_gives hup, scopeWrite_refused hup, fun ho => gives_of_whenUp hup rfl (dictWrite_shut ho _ _ _), locked_iff s⟩

end Sys2Proof.Formats
end

section
/-! SUPPORT. The family of chapter 03: the register files and the rows of the control core, what they leave of stored bytes, token counters
and their waiters, the forme log, and launches. -/
namespace Sys2Proof.ControlCore
open Sys2Proof Machine Config Safety Laws Scope Formats

/-! ### Register files (R100) -/

section
variable (r : CcRegs) (i j l m : Nat) (v : Word) (b : Bool)

theorem gGet_zero : gGet r 0 = 0 := rfl
theorem pGet_zero : pGet r 0 = true := rfl
theorem gSet_zero : gSet r 0 v = r := rfl
theorem pSet_zero : pSet r 0 b = r := rfl

theorem tblGet_tblSet (d : Nat → Word) (t : Tbl Word) : tblGet d (tblSet d t i v) j = if j = i then v else tblGet d t j := by
  split
  · next h => subst h; exact tblGet_tblSet_same _ _ _ _
  · next h => exact tblGet_tblSet_other _ _ _ _ _ h

theorem gGet_gSet (h : i ≠ 0) : gGet (gSet r i v) j = if j = i then v else gGet r j := by
  unfold gGet gSet
  rw [if_neg h]
  split
  · next hj => rw [if_neg (hj ▸ h.symm)]
  · exact tblGet_tblSet i j v _ r.g

theorem wGet_wSet (hl : l < 8) (hm : m < 8) : wGet (wSet r i l v) j m = if j = i ∧ m = l then v else wGet r j m := by
  have place : 8 * j + m = 8 * i + l ↔ j = i ∧ m = l := by omega
  rw [← if_congr place rfl rfl]
  exact tblGet_tblSet (8 * i + l) (8 * j + m) v _ r.w

theorem fGet_fSet : fGet (fSet r i v) j = if j = i then v else fGet r j :=
  (wGet_wSet r i j 0 0 v (by decide) (by decide)).trans (if_congr (and_iff_left rfl) rfl rfl)

theorem sumGet_sumSet : sumGet (sumSet r i v) j = if j = i then v else sumGet r j := tblGet_tblSet i j v _ r.sum

/-- A number about its bit `i`: the bits above, the bit, the bits below. -/
theorem split_at_bit (n : Nat) : n = 2 ^ i * (2 * (n / 2 ^ i / 2) + n / 2 ^ i % 2) + n % 2 ^ i := by
  rw [Nat.div_add_mod, Nat.div_add_mod]

/-- Replacing one bit leaves the others. -/
theorem setBits_bit (n : Nat) :
    setBits n i i (b2n b) = 2 ^ i * (2 * (n / 2 ^ i / 2) + b2n b) + n % 2 ^ i := by
  have hb : b2n b % 2 = b2n b := by cases b <;> rfl
  have hn := split_at_bit i n
  simp only [setBits, bitsOf, Nat.add_sub_cancel_left, pow_one, hb]
  rw [Nat.mul_add] at hn ⊢
  rw [Nat.mul_comm (n / 2 ^ i % 2), Nat.mul_comm (b2n b)]
  omega

theorem testBit_two_mul_b2n (h k : Nat) : (2 * h + b2n b).testBit k = if k = 0 then b else h.testBit (k - 1) := by
  cases k with
  | zero => cases b <;> simp [b2n, Nat.testBit_zero]
  | succ k =>
    have le := b2n_le_one b
    have half : (2 * h + b2n b) / 2 = h := by omega
    rw [Nat.testBit_succ, half]
    rfl

theorem testBit_setBits (n : Nat) : (setBits n i i (b2n b)).testBit j = if j = i then b else n.testBit j := by
  have low : n % 2 ^ i < 2 ^ i := Nat.mod_lt _ (Nat.two_pow_pos i)
  obtain ⟨c, hc⟩ : ∃ c, n / 2 ^ i % 2 = b2n c := by
    rcases Nat.mod_two_eq_zero_or_one (n / 2 ^ i) with h | h
    · exact ⟨false, h⟩
    · exact ⟨true, h⟩
  conv_rhs => rw [split_at_bit i n]
  rw [setBits_bit, hc, Nat.testBit_two_pow_mul_add _ low, Nat.testBit_two_pow_mul_add _ low, testBit_two_mul_b2n,
    testBit_two_mul_b2n]
  by_cases hj : j < i
  · simp [hj, Nat.ne_of_lt hj]
  · by_cases he : j = i
    · simp [he]
    · have above : j - i ≠ 0 := by omega
      simp [hj, he, above]

theorem pGet_pSet (hi : 0 < i) (hj : j < 8) : pGet (pSet r i b) j = if j = i then b else pGet r j := by
  unfold pGet pSet
  rw [if_neg (Nat.ne_of_gt hi)]
  by_cases h0 : j = 0
  · subst h0; simp [Nat.ne_of_lt hi]
  · simp only [h0, decide_false, Bool.false_or, BitVec.getLsbD_ofNat, hj, decide_true, Bool.true_and, testBit_setBits,
      BitVec.testBit_toNat]

end

/-- Settles O17, law by law. -/
theorem ccRegisterFiles : Obligations.CcRegisterFiles := fun r i j l m v b =>
  ⟨gGet_zero r, pGet_zero r, gSet_zero r v, pSet_zero r b, gGet_gSet r i j v, fun hi _ hj => pGet_pSet r i j b hi hj,
    wGet_wSet r i j l m v, fGet_fSet r i j v, sumGet_sumSet r i j v⟩

/-! ### The forme log (R135) -/

theorem mem_dcount (s : State) (k n : Nat) : (dcount s k n).mem = s.mem := by
  unfold dcount; split <;> rfl

theorem cores_dcount (s : State) (k n : Nat) : (dcount s k n).cores = s.cores := by
  unfold dcount; split <;> rfl

theorem coreAt_dcount (s : State) (k n j : Nat) : coreAt (dcount s k n) j = coreAt s j := by simp only [coreAt, cores_dcount]

section
variable (s : State) (k src code off it : Nat)

theorem coreAt_logEvent_room (h : (coreAt s k).log.length < 64) : coreAt (logEvent s k src code off it) k =
    { coreAt s k with log := (coreAt s k).log ++ [⟨(coreAt s k).launchSeq, slotOf (coreAt s k), src, code, off, it⟩] } := by
  unfold logEvent
  rw [if_pos h]
  exact coreAt_putCore s k _

theorem coreAt_logEvent_full (h : 64 ≤ (coreAt s k).log.length) : coreAt (logEvent s k src code off it) k =
    { coreAt s k with dropped := satAdd max32 (coreAt s k).dropped 1 } := by
  unfold logEvent
  rw [if_neg (Nat.not_lt.2 h), coreAt_dcount]
  exact coreAt_putCore s k _

end

/-- Settles O23: the log has room, or it is full. -/
theorem formeLogFills : Obligations.FormeLogFills := by
  intro s k src code off it
  rcases Nat.lt_or_ge (coreAt s k).log.length 64 with room | full
  · simp [coreAt_logEvent_room s k src code off it room, room, Nat.not_le.2 room]
  · simp [coreAt_logEvent_full s k src code off it full, full, Nat.not_lt.2 full, satAdd]
    rfl

/-! ### What a row of the CC gives -/

/-- Row `i` is the row of the CC on words `mine` with action `act`. -/
def IsRow (i : Nat → Instr) (mine : Nat → Bool) (act : CcX → State → State × Bool) : Prop :=
  ∀ n s, exec (i n) s = whenUp s (ccRow n mine act s)

section
variable {i : Nat → Instr} {mine : Nat → Bool} {act : CcX → State → State × Bool} {s t : State} {x : CcX}

/-- An action that says that the CC goes on. -/
theorem gives_done (hi : IsRow i mine act) (h : CcAt mine s x) (ha : act x (coreInternal s x.k) = (t, true)) :
    Gives (i x.n) s (ccDone x t) := by
  have hup : s.up = true := h.1.1.1
  refine gives_of_whenUp hup (hi x.n s) ?_
  rw [ccRow_at h]
  simp only [ha, if_true]

/-- An action that says that the CC stays, or has moved it itself. -/
theorem gives_stay (hi : IsRow i mine act) (h : CcAt mine s x) (ha : act x (coreInternal s x.k) = (t, false)) :
    Gives (i x.n) s t := by
  have hup : s.up = true := h.1.1.1
  refine gives_of_whenUp hup (hi x.n s) ?_
  rw [ccRow_at h]
  simp only [ha, Bool.false_eq_true, if_false]

/-- A row whose action always goes on. -/
theorem ccDoes_of_isRow {go : CcX → State → State} (hi : IsRow i mine act) (ha : ∀ x t, act x t = (go x t, true)) :
    CcDoes i mine go :=
  fun _ x h => gives_done hi h (ha x _)

/-- A row whose action is skipped with `code` where `ok` does not hold. -/
theorem ccMay_of_isRow {code : Nat} {ok : CcX → State → Prop} {go : CcX → State → State} (hi : IsRow i mine act)
    (ha : ∀ x t, ok x t → act x t = (go x t, true)) (hs : ∀ x t, ¬ok x t → act x t = ccSkipped x t code) :
    CcMay i mine code ok go :=
  fun _ x h => ⟨fun hok => gives_done hi h (ha x _ hok), fun hok => gives_stay hi h (hs x _ hok)⟩

end

/-- A register row whose function is another spelling of the statement's. -/
theorem ccGives_of_reg_eq {i : Nat → Instr} {mine : Nat → Bool} {f g : Nat → CcRegs → CcRegs}
    (hi : ∀ n s, exec (i n) s = whenUp s (ccReg n mine f s)) (hf : ∀ w r, f w r = g w r) : CcGives i mine g := by
  obtain rfl : f = g := funext fun w => funext (hf w)
  exact ccGives_of_reg hi

/-! ### Integer arithmetic (R101, R106, R142, R145, R146) -/

/-- The shift count of an immediate shift is its field, which is below 64 (R146). -/
theorem shCount_imm (w : Nat) : shCount (BitVec.ofNat 64 (bitsOf w 9 4)) = bitsOf w 9 4 := by
  have hb : bitsOf w 9 4 < 64 := Nat.mod_lt _ (by decide)
  simp only [shCount, BitVec.toNat_ofNat]
  omega

/-- A row of a shift by a constant: `f` takes its count modulo 64 (R146, R149). -/
theorem ccGives_shiftG {i : Nat → Instr} {m : Nat} {f : Word → Word → Word} {g : Word → Nat → Word}
    (hi : ∀ n s, exec (i n) s = whenUp s (shiftG n m f s)) (hf : ∀ a b, f a b = g a (shCount b)) :
    CcGives i (isMinor m) (fun w r => gSet r (tD w) (g (gGet r (tA w)) (bitsOf w 9 4))) :=
  ccGives_of_reg_eq hi fun w r => by rw [hf, shCount_imm]

/-- Settles O8: each row is the register row of its operation; of the shifts by a constant the count is the field. -/
theorem ccIntegerArithmetic : Obligations.CcIntegerArithmetic := by
  refine ⟨⟨ccGives_of_reg fun _ _ => rfl, ?immediate, ccGives_of_reg fun _ _ => rfl⟩, ⟨?scalar, ?shift⟩, ?vector⟩
  all_goals simp only [intOps, List.zip_cons_cons, List.zip_nil_right, List.forall_mem_cons, List.not_mem_nil, false_imp_iff,
    implies_true, and_true]
  case shift =>
    exact ⟨ccGives_shiftG (fun _ _ => rfl) fun _ _ => rfl, ccGives_shiftG (fun _ _ => rfl) fun _ _ => rfl,
      ccGives_shiftG (fun _ _ => rfl) fun _ _ => rfl⟩
  case immediate => and_intros <;> exact ccGives_of_reg fun _ _ => rfl
  case scalar => and_intros <;> exact ccGives_of_reg fun _ _ => rfl
  case vector => and_intros <;> exact ccGives_of_reg fun _ _ => rfl

/-! ### Compares and predicate operations (R101) -/

/-- A row of an FP64 compare. -/
theorem ccDoes_cmpF {i : Nat → Instr} {m : Nat} {quiet un : Bool} {f : Ordering → Bool}
    (hi : ∀ n s, exec (i n) s = whenUp s (cmpF n m quiet un f s)) : CcDoes i (isMinor m) (fcmpAct quiet un f) :=
  ccDoes_of_isRow hi fun _ _ => rfl

/-- CMPNE writes the negation of an equality. -/
theorem ccGives_cmpne : CcGives .cmpne (isMinor 0x12) (fun w r => pSet r (tD w) (decide (gGet r (tA w) ≠ gGet r (tB w)))) :=
  ccGives_of_reg_eq (fun _ _ => rfl) fun _ _ => by rw [decide_not]; rfl

/-- Settles O9: each row is the register row of its compare, or the CC's row of an FP64 compare. -/
theorem ccCompareRows : Obligations.CcCompareRows := by
  refine ⟨?integer, ?predicate, ccDoes_cmpF fun _ _ => rfl, ccDoes_cmpF fun _ _ => rfl, ccDoes_cmpF fun _ _ => rfl,
    ccDoes_cmpF fun _ _ => rfl, ccDoes_cmpF fun _ _ => rfl⟩
  all_goals simp only [List.forall_mem_cons, List.not_mem_nil, false_imp_iff, implies_true, and_true]
  case integer =>
    refine ⟨?_, ccGives_cmpne, ?_, ?_, ?_, ?_⟩
    all_goals exact ccGives_of_reg fun _ _ => rfl
  case predicate => and_intros <;> exact ccGives_of_reg fun _ _ => rfl

/-! ### Moves, reductions, SETSVL, MOVS, SELECT and SETRPT (R106, R108, R109, R121, R122) -/

/-- Two effects after which the CC goes on. -/
theorem ite_goesOn {c : Prop} [Decidable c] (a b : State) : (if c then (a, true) else (b, true)) = (if c then a else b, true) := by
  split <;> rfl

/-- MOVS of TIME under the lock is skipped (R109). -/
theorem ccMay_movs : CcMay .movs (isMinor 0x33) stDet (fun x s => ¬(tA x.w = 8 ∧ locked s = true))
    (fun x s => ccRegs x s (fun r => gSet r (tD x.w) (BitVec.ofNat 64 (special x s (tA x.w))))) := by
  have lockedTime : ∀ (x : CcX) s, (decide (tA x.w = 8) && locked s) = true ↔ tA x.w = 8 ∧ locked s = true := by
    simp
  exact ccMay_of_isRow (fun _ _ => rfl) (fun x s h => if_neg (mt (lockedTime x s).1 h))
    fun x s h => if_pos ((lockedTime x s).2 (not_not.1 h))

/-- Settles O11, row by row. -/
theorem ccMoveRows : Obligations.CcMoveRows := by
  refine ⟨ccGives_of_reg fun _ _ => rfl, ccGives_of_reg fun _ _ => rfl, ccGives_of_reg fun _ _ => rfl,
    ccGives_of_reg fun _ _ => rfl, ?reductions, ?setsvl, ccMay_movs, ?select, ?setrpt⟩
  case reductions =>
    simp only [List.forall_mem_cons, List.not_mem_nil, false_imp_iff, implies_true, and_true]
    constructor <;> exact ccDoes_of_isRow (fun _ _ => rfl) fun _ _ => by simp only [ite_goesOn]
  case select => exact ccDoes_of_isRow (fun _ _ => rfl) fun _ _ => ite_goesOn _ _
  case setsvl =>
    exact ccMay_of_isRow (fun _ _ => rfl) (fun _ _ h => if_neg (Nat.not_lt.2 h)) fun _ _ h => if_pos (Nat.not_le.1 h)
  case setrpt =>
    exact ccMay_of_isRow (fun _ _ => rfl) (fun _ _ h => if_neg (Nat.not_lt.2 h)) fun _ _ h => if_pos (Nat.not_le.1 h)

/-! ### Loads and stores (R103–R107) -/

/-- The check of R103 as arithmetic. -/
theorem ccAccessOk_iff (a n : Nat) : ccAccessOk a n = true ↔ a % n = 0 ∧ a + n ≤ 0x80000 := by
  simp [ccAccessOk]

theorem not_ccAccessOk_iff (a n : Nat) : (!ccAccessOk a n) = true ↔ ¬(a % n = 0 ∧ a + n ≤ 0x80000) := by
  rw [← ccAccessOk_iff]; simp

/-- A lane that fails the check of R103. -/
theorem any_not_ccAccessOk_iff (l : List (Nat × Nat)) :
    l.any (fun p => !ccAccessOk p.2 8) = true ↔ ¬∀ p ∈ l, p.2 % 8 = 0 ∧ p.2 + 8 ≤ 0x80000 := by
  simp only [List.any_eq_true, not_ccAccessOk_iff]
  push Not
  rfl

/-- A row of the CC with the check of R103, or that of its lanes: BOUNDS where `bad` says so. -/
theorem ccMay_of_check {i : Nat → Instr} {mine : Nat → Bool} {bad : CcX → State → Bool} {ok : CcX → State → Prop}
    {act : CcX → State → State × Bool} {go : CcX → State → State}
    (hi : IsRow i mine (fun x s => if bad x s then ccSkipped x s stBounds else act x s)) (hb : ∀ x s, bad x s = true ↔ ¬ok x s)
    (ha : ∀ x s, act x s = (go x s, true)) : CcMay i mine stBounds ok go :=
  ccMay_of_isRow hi (fun x s h => (if_neg (fun hbad => (hb x s).1 hbad h)).trans (ha x s)) fun x s h => if_pos ((hb x s).2 h)

/-- Settles O12: each load is the CC's row with its check; WLD of no active lane accesses nothing. -/
theorem ccLoadRows : Obligations.CcLoadRows := by
  refine ⟨?scalar, ?wld, ?wgather⟩
  case scalar =>
    simp only [List.forall_mem_cons, List.not_mem_nil, false_imp_iff, implies_true, and_true]
    exact ⟨ccMay_of_check (fun _ _ => rfl) (fun _ _ => not_ccAccessOk_iff _ _) fun _ _ => rfl,
      ccMay_of_check (fun _ _ => rfl) (fun _ _ => not_ccAccessOk_iff _ _) fun _ _ => rfl⟩
  case wld =>
    exact ccMay_of_check (fun _ _ => rfl) (fun _ _ => not_ccAccessOk_iff _ _) fun _ _ => ite_goesOn _ _
  case wgather => exact ccMay_of_check (fun _ _ => rfl) (fun _ _ => any_not_ccAccessOk_iff _) fun _ _ => rfl

/-- Settles O13: each store is the CC's row with its check. -/
theorem ccStoreRows : Obligations.CcStoreRows := by
  refine ⟨?scalar, ?wst, ?wscatter⟩
  case scalar =>
    simp only [List.forall_mem_cons, List.not_mem_nil, false_imp_iff, implies_true, and_true]
    exact ⟨ccMay_of_check (fun _ _ => rfl) (fun _ _ => not_ccAccessOk_iff _ _) fun _ _ => rfl,
      ccMay_of_check (fun _ _ => rfl) (fun _ _ => not_ccAccessOk_iff _ _) fun _ _ => rfl⟩
  case wst => exact ccMay_of_check (fun _ _ => rfl) (fun _ _ => not_ccAccessOk_iff _ _) fun _ _ => rfl
  case wscatter => exact ccMay_of_check (fun _ _ => rfl) (fun _ _ => any_not_ccAccessOk_iff _) fun _ _ => rfl

/-! ### What leaves stack memory and the core stores as they are (R103–R107) -/

/-- Stack memory, and the stored bytes of each core. -/
def storage (s : State) : List Host.Cell × (Nat → List Host.Cell) := (s.mem, fun k => (coreAt s k).store)

theorem storage_congr {s t : State} (hm : t.mem = s.mem) (hc : t.cores = s.cores) : storage t = storage s := by
  simp only [storage, coreAt, hm, hc]

section
variable (s : State) (k : Nat)

theorem storage_putCore {c : Core} (h : c.store = (coreAt s k).store) : storage (putCore s k c) = storage s := by
  refine Prod.ext rfl (funext fun j => ?_)
  by_cases hj : j = k
  · subst hj; simpa [storage] using h
  · simp [storage, coreAt_putCore_other s k c hj]

theorem storage_modCore {f : Core → Core} (h : ∀ c, (f c).store = c.store) : storage (modCore s k f) = storage s :=
  storage_putCore s k (h _)

/-! Logging an error changes neither stack memory nor any core. -/

theorem mem_errEntry (cls unit detail outcome : Nat) : (errEntry s cls unit detail outcome).mem = s.mem := by
  unfold errEntry
  dsimp only
  split <;> simp only [mem_dcount]

theorem cores_errEntry (cls unit detail outcome : Nat) : (errEntry s cls unit detail outcome).cores = s.cores := by
  unfold errEntry
  dsimp only
  split <;> simp only [cores_dcount]

theorem mem_detect (cls unit detail : Nat) (u : ProofUnit) : (detect s cls unit detail u).mem = s.mem := by
  unfold detect
  split <;> exact mem_errEntry ..

theorem cores_detect (cls unit detail : Nat) (u : ProofUnit) : (detect s cls unit detail u).cores = s.cores := by
  unfold detect
  split <;> exact cores_errEntry ..

@[simp] theorem storage_dcount (n : Nat) : storage (dcount s k n) = storage s :=
  storage_congr (mem_dcount s k n) (cores_dcount s k n)

@[simp] theorem storage_detect (cls unit detail : Nat) (u : ProofUnit) : storage (detect s cls unit detail u) = storage s :=
  storage_congr (mem_detect ..) (cores_detect ..)

@[simp] theorem storage_logEvent (src code off it : Nat) : storage (logEvent s k src code off it) = storage s := by
  unfold logEvent
  dsimp only
  split
  · exact storage_putCore s k rfl
  · rw [storage_dcount]; exact storage_putCore s k rfl

@[simp] theorem storage_contribute (b : Option (Nat × Nat)) (f : Ctx → Ctx) : storage (contribute s b f) = storage s := by
  unfold contribute
  split
  · rfl
  · dsimp only; split <;> rfl

@[simp] theorem storage_tallySkip : storage (tallySkip s k) = storage s := storage_contribute ..

@[simp] theorem storage_tallyPoison (n : Nat) : storage (tallyPoison s k n) = storage s := by
  unfold tallyPoison
  split
  · rfl
  · exact storage_contribute ..

@[simp] theorem storage_tallyFlags (cls : Nat) (f : Flags) : storage (tallyFlags s k cls f) = storage s := by
  unfold tallyFlags
  split
  · rfl
  · exact storage_contribute ..

@[simp] theorem storage_coreFlags (cls off it : Nat) (es : List FlagEv) : storage (coreFlags s k cls off it es) = storage s := by
  unfold coreFlags
  rw [storage_tallyFlags]
  refine storage_putCore s k ?_
  split <;> rfl

@[simp] theorem storage_verifyTile (t : Nat) : storage (verifyTile s k t).1 = storage s := by
  unfold verifyTile
  dsimp only
  split
  · rfl
  · rw [storage_detect, storage_dcount]

/-- What a core does of itself first: nothing, or its error is logged and the core marked (R468). -/
theorem coreInternal_cases : coreInternal s k = s ∨ ∃ u : State, u.cores = s.cores ∧ u.mem = s.mem ∧
    coreInternal s k = modCore u k (fun c => { c with internal := true }) := by
  unfold coreInternal
  split
  · refine .inr ⟨_, ?_, ?_, rfl⟩
    · rw [cores_detect]
    · rw [mem_detect]
  · exact .inl rfl

/-- It changes nothing of any core but the mark of its error. -/
theorem coreAt_coreInternal (j : Nat) : ∃ b, coreAt (coreInternal s k) j = { coreAt s j with internal := b } := by
  rcases coreInternal_cases s k with h | ⟨u, hc, -, h⟩
  · exact ⟨_, by rw [h]⟩
  · have same : coreAt u j = coreAt s j := by simp only [coreAt, hc]
    by_cases hj : j = k
    · subst hj; exact ⟨true, by rw [h, coreAt_modCore, same]⟩
    · exact ⟨_, by rw [h, coreAt_modCore_other _ _ _ hj, same]⟩

@[simp] theorem storage_coreInternal : storage (coreInternal s k) = storage s := by
  rcases coreInternal_cases s k with h | ⟨u, hc, hm, h⟩
  · rw [h]
  · rw [h, storage_modCore, storage_congr hm hc]
    exact fun _ => rfl

theorem regs_coreInternal (j : Nat) : (coreAt (coreInternal s k) j).regs = (coreAt s j).regs := by
  obtain ⟨b, h⟩ := coreAt_coreInternal s k j
  rw [h]

theorem atEnd_coreInternal (j : Nat) : (coreAt (coreInternal s k) j).atEnd = (coreAt s j).atEnd := by
  obtain ⟨b, h⟩ := coreAt_coreInternal s k j
  rw [h]

end

/-! Token counters and queues keep the stored bytes of their core. -/

theorem setQueue_store (c : Core) (q : QueueId) (l : List Cmd) : (setQueue c q l).store = c.store := by cases q <;> rfl

theorem serve_store (t : Nat) (c : Core) (w : Waiter) : (serve t c w).store = c.store := by
  unfold serve
  split
  · rfl
  · split
    · rfl
    · split
      · rfl
      · split
        · rfl
        · split <;> rfl

theorem settle_store (t : Nat) (c : Core) : (settle t c).store = c.store := foldl_keeps (serve_store t) _ c

theorem beginIter_store (c : Core) (r : Run) (i : Nat) : (beginIter c r i).store = c.store := by
  unfold beginIter; split <;> rfl

theorem ccNext_store (c : Core) : (ccNext c).store = c.store := by
  unfold ccNext
  split
  · rfl
  · dsimp only
    split
    · rfl
    · split
      · exact beginIter_store ..
      · rfl

section
variable (x : CcX) (s : State)

@[simp] theorem storage_ccRegs (f : CcRegs → CcRegs) : storage (ccRegs x s f) = storage s := storage_modCore s x.k fun _ => rfl
@[simp] theorem storage_ccRaise (evs : List (Nat × Flags)) : storage (ccRaise x s evs) = storage s := storage_coreFlags ..
@[simp] theorem storage_putLanes (d : Nat) (os : List (Nat × (Nat × Flags))) : storage (putLanes x s d os) = storage s := by
  simp [putLanes]
@[simp] theorem storage_ccSkip (code : Nat) : storage (ccSkip x s code) = storage s := by simp [ccSkip]
@[simp] theorem storage_ccPass : storage (ccPass x s) = storage s := storage_modCore s x.k ccNext_store
@[simp] theorem storage_ccDone : storage (ccDone x s) = storage s := storage_modCore s x.k fun _ => ccNext_store _
@[simp] theorem storage_ccSkipped (code : Nat) : storage (ccSkipped x s code).1 = storage s := by simp [ccSkipped]
@[simp] theorem storage_ccLoadLog (cond : Nat) : storage (ccLoadLog x s cond) = storage s := by
  unfold ccLoadLog; split <;> simp

@[simp] theorem storage_enqueue (q : QueueId) (e : Cmd) : storage (enqueue x s q e) = storage s :=
  storage_modCore s x.k fun _ => (settle_store ..).trans (setQueue_store ..)

@[simp] theorem storage_pushVoid (q : QueueId) (e : Cmd) (code : Nat) (bare : Bool) :
    storage (pushVoid x s q e code bare) = storage s := by simp [pushVoid]

theorem storage_pushTo (q : QueueId) : storage (pushTo x s q) = storage s := by
  unfold pushTo
  dsimp only
  split_ifs <;> simp

theorem storage_postTok (t cnt source off it : Nat) : storage (postTok s x.k t cnt source off it) = storage s := by
  unfold postTok
  split
  · rfl
  · dsimp only
    rw [storage_modCore]
    · split
      · exact storage_logEvent ..
      · rfl
    · exact fun c => settle_store ..

end

/-! ### The rows of the CC's instruction table -/

/-- An action that stores nothing. -/
def StoresNothing (act : CcX → State → State × Bool) : Prop := ∀ x s, storage (act x s).1 = storage s

/-- A row of the CC that stores nothing stores nothing, whatever stands at the core's place. -/
theorem storage_ccRow {act : CcX → State → State × Bool} (h : StoresNothing act) (n : Nat) (mine : Nat → Bool) (s : State) :
    storage (ccRow n mine act s) = storage s := by
  unfold ccRow
  split
  · rfl
  · dsimp only
    split
    · rfl
    · split_ifs <;> simp [h _ _]

/-- A row of the table: the CC's row on its words, with an action that stores nothing. -/
def TableRow (p : (Nat → Instr) × (Nat → Bool)) : Prop := ∃ act, IsRow p.1 p.2 act ∧ StoresNothing act

theorem tableRow_of {i : Nat → Instr} {mine : Nat → Bool} {act : CcX → State → State × Bool} (hi : IsRow i mine act)
    (h : StoresNothing act) : TableRow (i, mine) := ⟨act, hi, h⟩

theorem tableRow_reg {i : Nat → Instr} {mine : Nat → Bool} {f : Nat → CcRegs → CcRegs}
    (hi : ∀ n s, exec (i n) s = whenUp s (ccReg n mine f s)) : TableRow (i, mine) :=
  tableRow_of hi fun _ _ => storage_ccRegs ..

/-- A row that writes registers and raises the flags of what it computes. -/
theorem tableRow_raise {i : Nat → Instr} {mine : Nat → Bool} {f : CcX → State → CcRegs → CcRegs}
    {evs : CcX → State → List (Nat × Flags)}
    (hi : IsRow i mine (fun x s => (ccRaise x (ccRegs x s (f x s)) (evs x s), true))) : TableRow (i, mine) :=
  tableRow_of hi fun _ _ => (storage_ccRaise ..).trans (storage_ccRegs ..)

theorem tableRow_lanes {i : Nat → Instr} {mine : Nat → Bool} {d : CcX → Nat} {os : CcX → State → List (Nat × (Nat × Flags))}
    (hi : IsRow i mine (fun x s => (putLanes x s (d x) (os x s), true))) : TableRow (i, mine) :=
  tableRow_of hi fun _ _ => storage_putLanes ..

theorem ccImmediateRows_tableRow : ∀ p ∈ ccImmediateRows, TableRow p := by
  simp only [ccImmediateRows, List.forall_mem_cons, List.not_mem_nil, false_imp_iff, implies_true, and_true]
  and_intros <;> exact tableRow_reg fun _ _ => rfl

theorem ccRegisterRows_tableRow : ∀ p ∈ ccRegisterRows, TableRow p := by
  simp only [ccRegisterRows, List.forall_mem_cons, List.not_mem_nil, false_imp_iff, implies_true, and_true]
  and_intros <;> exact tableRow_reg fun _ _ => rfl

theorem ccVectorRows_tableRow : ∀ p ∈ ccVectorRows, TableRow p := by
  simp only [ccVectorRows, List.forall_mem_cons, List.not_mem_nil, false_imp_iff, implies_true, and_true]
  and_intros <;> exact tableRow_reg fun _ _ => rfl

/-- A row of an FP64 compare. -/
theorem tableRow_cmpF {i : Nat → Instr} {m : Nat} {quiet un : Bool} {f : Ordering → Bool}
    (hi : ∀ n s, exec (i n) s = whenUp s (cmpF n m quiet un f s)) : TableRow (i, isMinor m) := tableRow_raise hi

theorem ccCompareRows_tableRow : ∀ p ∈ Safety.ccCompareRows, TableRow p := by
  simp only [Safety.ccCompareRows, List.forall_mem_cons, List.not_mem_nil, false_imp_iff, implies_true, and_true]
  refine ⟨?_, ?_, ?_, ?_, ?_, ?_, ?_, ?_, ?_, tableRow_cmpF fun _ _ => rfl, tableRow_cmpF fun _ _ => rfl,
    tableRow_cmpF fun _ _ => rfl, tableRow_cmpF fun _ _ => rfl, tableRow_cmpF fun _ _ => rfl, ?_, ?_, ?_, ?_⟩
  all_goals exact tableRow_reg fun _ _ => rfl

theorem tableRow_triF {i : Nat → Instr} {m : Nat} {f : FpOp} (hi : ∀ n s, exec (i n) s = whenUp s (triF n m f s)) :
    TableRow (i, isScalar m) := tableRow_raise hi

theorem tableRow_triWF {i : Nat → Instr} {m : Nat} {f : FpOp} (hi : ∀ n s, exec (i n) s = whenUp s (triWF n m f s)) :
    TableRow (i, isVector m) := tableRow_lanes hi

theorem ccFloatRows_tableRow : ∀ p ∈ ccFloatRows, TableRow p := by
  simp only [ccFloatRows, List.forall_mem_cons, List.not_mem_nil, false_imp_iff, implies_true, and_true]
  refine ⟨?_, ?_, ?_, ?_, ?_, ?_, ?_, tableRow_reg fun _ _ => rfl, tableRow_reg fun _ _ => rfl,
    ?_, ?_, ?_, ?_, ?_, ?_, ?_, tableRow_reg fun _ _ => rfl, tableRow_reg fun _ _ => rfl⟩
  iterate 7 exact tableRow_triF fun _ _ => rfl
  iterate 7 exact tableRow_triWF fun _ _ => rfl

theorem tableRow_fcvt {i : Nat → Instr} {kind : Nat} (hi : ∀ n s, exec (i n) s = whenUp s (ccFcvt n kind s)) :
    TableRow (i, fun w => isScalar 0x29 w && (tB w == kind || 4 ≤ tB w)) := tableRow_raise hi

/-- A row with a check stores nothing where its effect stores nothing. -/
theorem storesNothing_check {bad : CcX → State → Prop} [∀ x s, Decidable (bad x s)] {code : Nat}
    {act : CcX → State → State × Bool} (h : StoresNothing act) :
    StoresNothing (fun x s => if bad x s then ccSkipped x s code else act x s) := by
  intro x s
  dsimp only
  split
  · exact storage_ccSkipped ..
  · exact h x s

theorem tableRow_wred {i : Nat → Instr} {m : Nat} {f : FpOp} (hi : ∀ n s, exec (i n) s = whenUp s (wred n m f s)) :
    TableRow (i, isMinor m) := by
  refine tableRow_of hi fun x s => ?_
  dsimp only
  split_ifs <;> simp

theorem tableRow_ccLoad {i : Nat → Instr} {sub : Nat} {dflt : Word} {put : CcRegs → Nat → Word → CcRegs}
    (hi : ∀ n s, exec (i n) s = whenUp s (ccLoad n sub dflt put s)) : TableRow (i, isSub sub) :=
  tableRow_of hi (storesNothing_check fun _ _ => by simp)

theorem tableRow_wld : TableRow (.wld, isSub 6) := by
  refine tableRow_of (fun _ _ => rfl) (storesNothing_check fun x s => ?_)
  split <;> simp

/-- Verifying tile after tile stores nothing. -/
theorem storage_verifyFold (k : Nat) (ts : List Nat) (p : State × List (Nat × Nat)) :
    storage (ts.foldl (fun p t => ((verifyTile p.1 k t).1, p.2 ++ [(t, (verifyTile p.1 k t).2)])) p).1 = storage p.1 :=
  foldl_keeps (g := fun p : State × List (Nat × Nat) => storage p.1) (fun _ _ => storage_verifyTile ..) ts p

theorem tableRow_wgather : TableRow (.wgather, isMinor 0x2E) :=
  tableRow_of (fun _ _ => rfl) (storesNothing_check fun x s => by
    simp only [storage_ccRegs, storage_ccLoadLog]
    exact storage_verifyFold x.k _ (s, []))

theorem ccMoveRows_tableRow : ∀ p ∈ Safety.ccMoveRows, TableRow p := by
  simp only [Safety.ccMoveRows, List.forall_mem_cons, List.not_mem_nil, false_imp_iff, implies_true, and_true]
  exact ⟨tableRow_fcvt fun _ _ => rfl, tableRow_fcvt fun _ _ => rfl, tableRow_fcvt fun _ _ => rfl, tableRow_fcvt fun _ _ => rfl,
    tableRow_lanes fun _ _ => rfl, tableRow_raise fun _ _ => rfl, tableRow_lanes fun _ _ => rfl,
    tableRow_reg fun _ _ => rfl, tableRow_reg fun _ _ => rfl, tableRow_reg fun _ _ => rfl, tableRow_reg fun _ _ => rfl,
    tableRow_wgather, tableRow_wred fun _ _ => rfl, tableRow_wred fun _ _ => rfl,
    tableRow_of (fun _ _ => rfl) (storesNothing_check fun _ _ => storage_ccRegs ..),
    tableRow_ccLoad fun _ _ => rfl, tableRow_ccLoad fun _ _ => rfl, tableRow_wld,
    tableRow_of (fun _ _ => rfl) (storesNothing_check fun _ _ => storage_ccRegs ..)⟩

theorem tableRow_push : TableRow (.push, isMinor 0x34) := by
  refine tableRow_of (fun _ _ => rfl) fun x s => ?_
  split
  · rfl
  · split
    · exact storage_modCore s x.k fun _ => rfl
    · exact storage_pushTo ..

/-- The core at a WAIT that has issued: at its first visit the wait meets its counter (R129, R131). -/
def waitIssued (x : CcX) (s : State) : Core :=
  if (coreAt s x.k).ccWait.isSome then coreAt s x.k
  else settle (timeNs s) { coreAt s x.k with ccWait := some (tD x.w, bitsOf x.w 7 0) }

/-- The CC goes on when its wait is done, and stays blocked until then. -/
def waitStep (x : CcX) (s : State) (c : Core) : State × Bool :=
  if ccWaitDone c then (putCore s x.k (endCcWait c), true) else (putCore s x.k { c with blocked := true }, false)

theorem isRow_wait : IsRow .wait (isMinor 0x36) (fun x s =>
    if bitsOf x.w 7 0 = 0 then (s, true) else waitStep x s (waitIssued x s)) := fun _ _ => rfl

theorem waitIssued_store (x : CcX) (s : State) : (waitIssued x s).store = (coreAt s x.k).store := by
  unfold waitIssued
  split
  · rfl
  · exact settle_store ..

theorem storage_waitStep {x : CcX} {s : State} {c : Core} (h : c.store = (coreAt s x.k).store) :
    storage (waitStep x s c).1 = storage s := by
  unfold waitStep
  split
  · exact storage_putCore s x.k h
  · exact storage_putCore s x.k h

theorem tableRow_wait : TableRow (.wait, isMinor 0x36) := by
  refine tableRow_of isRow_wait fun x s => ?_
  split
  · rfl
  · exact storage_waitStep (waitIssued_store x s)

theorem tableRow_select : TableRow (.select, isMinor 0x37) := by
  refine tableRow_of (fun _ _ => rfl) fun x s => ?_
  dsimp only
  split
  · exact storage_modCore s x.k fun _ => rfl
  · exact storage_logEvent ..

theorem ccSequenceRows_tableRow : ∀ p ∈ ccSequenceRows, TableRow p := by
  simp only [ccSequenceRows, List.forall_mem_cons, List.not_mem_nil, false_imp_iff, implies_true, and_true]
  exact ⟨tableRow_push, tableRow_of (fun _ _ => rfl) fun _ _ => storage_postTok .., tableRow_wait, tableRow_select,
    tableRow_of (fun _ _ => rfl) (storesNothing_check fun _ _ => storage_modCore _ _ fun _ => rfl)⟩

theorem ccTable_tableRow : ∀ p ∈ ccTable, TableRow p := by
  simp only [ccTable, List.forall_mem_append]
  exact ⟨⟨⟨⟨⟨⟨ccImmediateRows_tableRow, ccRegisterRows_tableRow⟩, ccVectorRows_tableRow⟩, ccCompareRows_tableRow⟩,
    ccFloatRows_tableRow⟩, ccMoveRows_tableRow⟩, ccSequenceRows_tableRow⟩

theorem storage_keep (s t : State) : storage (keep s t) = storage t := rfl

/-- A row that stores nothing leaves stack memory and every byte of every core store, in reset too. -/
theorem bytes_of_storage {s t : State} (h : storage t = storage s) : t.mem = s.mem ∧ ∀ k b, storeByte t k b = storeByte s k b := by
  obtain ⟨hm, hs⟩ := Prod.mk.inj h
  exact ⟨hm, fun k b => congrArg (memGet · b) (congrFun hs k)⟩

theorem storage_of_row {p : (Nat → Instr) × (Nat → Bool)} (h : TableRow p) {n : Nat} {s t : State}
    (hx : exec (p.1 n) s = .next t) : storage t = storage s := by
  obtain ⟨act, hi, hs⟩ := h
  rw [hi n s] at hx
  cases hup : s.up with
  | true =>
    rw [whenUp_up hup] at hx
    cases hx
    rw [storage_keep, storage_ccRow hs]
  | false =>
    rw [whenUp_off hup] at hx
    cases hx
    rfl

/-- Settles O15: every row of the table stores nothing. -/
theorem ccNoStoreFrame : Obligations.CcNoStoreFrame := fun p hp _ _ _ hx =>
  bytes_of_storage (storage_of_row (ccTable_tableRow p hp) hx)

/-! ### Illegal words and false predicates (R124, R137, R141, R150) -/

theorem ccStores_isRow : ∀ p ∈ ccStores, ∃ act, IsRow p.1 p.2 act := by
  simp only [ccStores, List.forall_mem_cons, List.not_mem_nil, false_imp_iff, implies_true, and_true]
  and_intros <;> exact ⟨_, fun _ _ => rfl⟩

theorem isRow_of_mem : ∀ p ∈ ccTable ++ ccStores, ∃ act, IsRow p.1 p.2 act :=
  List.forall_mem_append.2 ⟨fun p hp => (ccTable_tableRow p hp).imp fun _ h => h.1, ccStores_isRow⟩

theorem beginIter_atEnd (c : Core) (r : Run) (i : Nat) : (beginIter c r i).atEnd = c.atEnd := by
  unfold beginIter; split <;> rfl

/-- Going on to the next instruction leaves the registers that the image will hold. -/
theorem ccNext_atEnd (c : Core) : (ccNext c).atEnd = c.atEnd := by
  unfold ccNext
  split
  · rfl
  · dsimp only
    split
    · rfl
    · split
      · exact beginIter_atEnd ..
      · rfl

/-- A predicate that is 0 after SENSE (R141). -/
theorem predHolds_false {r : CcRegs} {w : Nat} (h : pGet r (bitsOf w 30 28) = bitOf w 31) : predHolds r w = false := by
  simp [predHolds, h]

/-- Settles O16: what the CC's row does at its place, whichever row it is. -/
theorem ccSkipsAndPredicates : Obligations.CcSkipsAndPredicates := by
  intro p hp s x h
  obtain ⟨act, hi⟩ := isRow_of_mem p hp
  have hup : s.up = true := h.1.1
  refine ⟨fun illegal => ?_, fun legal untrue => ?_, ?_⟩
  · refine gives_of_whenUp hup (hi x.n s) ?_
    rw [ccRow_place h]
    exact if_pos illegal
  · refine gives_of_whenUp hup (hi x.n s) ?_
    rw [ccRow_place h, legal, predHolds_false untrue]
    rfl
  · rw [ccPass, coreAt_modCore, ccNext_atEnd, atEnd_coreInternal]

/-! ### The bytes that the storing rows leave (R103, R106, R107, R275) -/

theorem length_leBytes (n v : Nat) : (leBytes n v).length = n := by
  induction n generalizing v with
  | zero => rfl
  | succ n ih => simp [leBytes, ih]

theorem store_modTile (c : Core) (t : Nat) (f : TileMeta → TileMeta) : (modTile c t f).store = c.store := rfl

/-- A byte outside of what a write within tiles writes. -/
theorem memGet_writeGo_other {b : Nat} (f : Nat) (c : Core) (a : Nat) (bs : List Byte) (h : ¬(a ≤ b ∧ b < a + bs.length)) :
    memGet (writeGo f c a bs).store b = memGet c.store b := by
  induction f generalizing c a bs with
  | zero => rfl
  | succ f ih =>
    rw [writeGo]
    split
    · rfl
    · rw [ih _ _ _ (by rw [List.length_drop]; omega)]
      exact memGet_memWrite_other c.store a b _ (by rw [List.length_take]; omega)

theorem memGet_storeWrite_other {b : Nat} (c : Core) {a : Nat} {bs : List Byte} (h : ¬(a ≤ b ∧ b < a + bs.length)) :
    memGet (storeWrite c a bs).store b = memGet c.store b := memGet_writeGo_other _ c a bs h

theorem memGet_storeWrites_other {b : Nat} (ws : List (Nat × List Byte)) (c : Core)
    (h : ∀ w ∈ ws, ¬(w.1 ≤ b ∧ b < w.1 + w.2.length)) :
    memGet (ws.foldl (fun c w => storeWrite c w.1 w.2) c).store b = memGet c.store b := by
  induction ws generalizing c with
  | nil => rfl
  | cons w ws ih =>
    obtain ⟨hw, hws⟩ := List.forall_mem_cons.1 h
    exact (ih _ hws).trans (memGet_storeWrite_other c hw)

theorem setPoison_store (c : Core) (ts : List Nat) : (setPoison c ts).store = c.store :=
  foldl_keeps (g := Core.store) (fun c t => store_modTile c t _) ts c

section
variable (s : State) (k : Nat) (ws : List (Nat × List Byte))

/-- Poison aside, the writes of a CC instruction are those of its core store. -/
theorem storage_engineWrites :
    storage (engineWrites s k ws) = storage (modCore s k (fun c => ws.foldl (fun c w => storeWrite c w.1 w.2) c)) := by
  unfold engineWrites
  dsimp only
  split
  · rw [storage_tallyPoison, storage_modCore]
    exact fun c => setPoison_store c _
  · rfl

theorem mem_engineWrites : (engineWrites s k ws).mem = s.mem := congrArg Prod.fst (storage_engineWrites s k ws)

theorem storeByte_engineWrites_other {j b : Nat} (h : ¬(j = k ∧ ∃ w ∈ ws, w.1 ≤ b ∧ b < w.1 + w.2.length)) :
    storeByte (engineWrites s k ws) j b = storeByte s j b := by
  rw [(bytes_of_storage (storage_engineWrites s k ws)).2 j b, storeByte, storeByte]
  by_cases hj : j = k
  · subst hj
    rw [coreAt_modCore]
    exact memGet_storeWrites_other ws _ fun w hw hb => h ⟨rfl, w, hw, hb⟩
  · rw [coreAt_modCore_other s k _ hj]

end

/-- A storing row, the writes of which are `ws` of the registers, changes none but their bytes, whether it stores or is skipped. -/
theorem frame_of_ccMay {i : Nat → Instr} {mine : Nat → Bool} {code : Nat} {ok : CcX → State → Prop}
    (ws : CcX → CcRegs → List (Nat × List Byte)) (h : CcMay i mine code ok (fun x s => engineWrites s x.k (ws x (regsOf x s))))
    {s t : State} {x : CcX} (hx : CcAt mine s x) (he : exec (i x.n) s = .next t) :
    t.mem = s.mem ∧ ∀ k b, ¬(k = x.k ∧ ∃ w ∈ ws x (regsOf x s), w.1 ≤ b ∧ b < w.1 + w.2.length) →
      storeByte t k b = storeByte s k b := by
  have next : ∀ {u}, Gives (i x.n) s u → storage t = storage u := fun hu => by
    rw [Host.Outcome.next.inj (he.symm.trans hu), storage_keep]
  have regs : regsOf x (coreInternal s x.k) = regsOf x s := regs_coreInternal s x.k x.k
  have internal := bytes_of_storage (storage_coreInternal s x.k)
  obtain ⟨does, skips⟩ := h s x hx
  by_cases hok : ok x (coreInternal s x.k)
  · have stores := next (does hok)
    rw [storage_ccDone] at stores
    dsimp only at stores
    rw [regs] at stores
    obtain ⟨hm, hb⟩ := bytes_of_storage stores
    refine ⟨hm.trans ((mem_engineWrites ..).trans internal.1), fun k b hkb => ?_⟩
    rw [hb, storeByte_engineWrites_other _ _ _ hkb, internal.2]
  · have skipped := next (skips hok)
    rw [storage_ccPass, storage_ccSkip, storage_coreInternal] at skipped
    obtain ⟨hm, hb⟩ := bytes_of_storage skipped
    exact ⟨hm, fun k b _ => hb k b⟩

/-- The writes of ST and FST, of WST and of WSCATTER, of the registers of their core. -/
def scalarWrites (get : CcRegs → Nat → Word) (x : CcX) (r : CcRegs) : List (Nat × List Byte) :=
  [(memAddr r x.w, leBytes 8 (get r (bitsOf x.w 22 18)).toNat)]

def blockWrites (x : CcX) (r : CcRegs) : List (Nat × List Byte) :=
  (lanes r).map (fun j => (memAddr r x.w + 8 * j, leBytes 8 (wGet r (bitsOf x.w 22 18) j).toNat))

def scatterWrites (x : CcX) (r : CcRegs) : List (Nat × List Byte) :=
  (laneAddrs r x.w).map (fun p => (p.2, leBytes 8 (wGet r (tD x.w) p.1).toNat))

theorem scalarWrites_covers {get : CcRegs → Nat → Word} {x : CcX} {r : CcRegs} {b : Nat}
    (h : ∃ w ∈ scalarWrites get x r, w.1 ≤ b ∧ b < w.1 + w.2.length) : memAddr r x.w ≤ b ∧ b < memAddr r x.w + 8 := by
  simpa [scalarWrites, length_leBytes] using h

theorem blockWrites_covers {x : CcX} {r : CcRegs} {b : Nat} (h : ∃ w ∈ blockWrites x r, w.1 ≤ b ∧ b < w.1 + w.2.length) :
    memAddr r x.w ≤ b ∧ b < memAddr r x.w + 8 * (lanes r).length := by
  obtain ⟨w, hw, hlo, hhi⟩ := h
  obtain ⟨j, hj, rfl⟩ := List.mem_map.1 hw
  have active : j < (lanes r).length := by simpa [lanes] using hj
  simp only [length_leBytes] at hlo hhi
  omega

theorem scatterWrites_covers {x : CcX} {r : CcRegs} {b : Nat} (h : ∃ w ∈ scatterWrites x r, w.1 ≤ b ∧ b < w.1 + w.2.length) :
    ∃ p ∈ laneAddrs r x.w, p.2 ≤ b ∧ b < p.2 + 8 := by
  obtain ⟨w, hw, hlo, hhi⟩ := h
  obtain ⟨p, hp, rfl⟩ := List.mem_map.1 hw
  rw [length_leBytes] at hhi
  exact ⟨p, hp, hlo, hhi⟩

theorem frame_of_scalar {i : Nat → Instr} {sub code : Nat} {ok : CcX → State → Prop} {get : CcRegs → Nat → Word}
    (h : CcMay i (isSub sub) code ok (fun x s => engineWrites s x.k (scalarWrites get x (regsOf x s))))
    {s t : State} {x : CcX} (hx : CcAt (isSub sub) s x) (he : exec (i x.n) s = .next t) : t.mem = s.mem ∧
      ∀ k b, ¬(k = x.k ∧ memAddr (regsOf x s) x.w ≤ b ∧ b < memAddr (regsOf x s) x.w + 8) → storeByte t k b = storeByte s k b :=
  (frame_of_ccMay _ h hx he).imp_right fun hb k b out => hb k b fun ⟨hk, hw⟩ => out ⟨hk, scalarWrites_covers hw⟩

/-- Settles O14: the writes of a row that stores are those of `ccStoreRows`. -/
theorem ccStoreFrame : Obligations.CcStoreFrame := by
  obtain ⟨scalar, wst, wscatter⟩ := ccStoreRows
  simp only [List.forall_mem_cons, List.not_mem_nil, false_imp_iff, implies_true, and_true] at scalar
  obtain ⟨st, fst⟩ := scalar
  refine ⟨?_, fun s x t hx he => ?_, fun s x t hx he => ?_⟩
  · simp only [List.forall_mem_cons, List.not_mem_nil, false_imp_iff, implies_true, and_true]
    exact ⟨fun _ _ _ => frame_of_scalar (get := gGet) st, fun _ _ _ => frame_of_scalar (get := fGet) fst⟩
  · exact (frame_of_ccMay blockWrites wst hx he).imp_right fun hb k b out => hb k b fun ⟨hk, hw⟩ => out ⟨hk, blockWrites_covers hw⟩
  · exact (frame_of_ccMay scatterWrites wscatter hx he).imp_right fun hb k b out =>
      hb k b fun ⟨hk, hw⟩ => out ⟨hk, scatterWrites_covers hw⟩

/-! ### PUSH, POST, WAIT and the release of a held wait (R126, R127, R129, R131) -/

section
variable {s t : State} {x : CcX}

theorem push_gives {q : QueueId} (h : CcAt (isMinor 0x34) s x) (hq : queueCode (bitsOf x.w 19 17) = some q)
    (room : (queueOf (coreAt (coreInternal s x.k) x.k) q).length < queueDepth q) :
    Gives (.push x.n) s (ccDone x (pushTo x (coreInternal s x.k) q)) := by
  refine gives_done (fun _ _ => rfl) h ?_
  rw [hq]
  exact if_neg (Nat.not_le.2 room)

theorem push_blocks {q : QueueId} (h : CcAt (isMinor 0x34) s x) (hq : queueCode (bitsOf x.w 19 17) = some q)
    (full : queueDepth q ≤ (queueOf (coreAt (coreInternal s x.k) x.k) q).length) :
    Gives (.push x.n) s (modCore (coreInternal s x.k) x.k (fun c => { c with blocked := true })) := by
  refine gives_stay (fun _ _ => rfl) h ?_
  rw [hq]
  exact if_pos full

/-- A WAIT for no count is done at once. -/
theorem wait_gives_none (h : CcAt (isMinor 0x36) s x) (h0 : bitsOf x.w 7 0 = 0) :
    Gives (.wait x.n) s (ccDone x (coreInternal s x.k)) :=
  gives_done isRow_wait h (if_pos h0)

theorem wait_gives_done (h : CcAt (isMinor 0x36) s x) (h0 : bitsOf x.w 7 0 ≠ 0)
    (hd : ccWaitDone (waitIssued x (coreInternal s x.k)) = true) :
    Gives (.wait x.n) s (ccDone x (putCore (coreInternal s x.k) x.k (endCcWait (waitIssued x (coreInternal s x.k))))) :=
  gives_done isRow_wait h ((if_neg h0).trans (if_pos hd))

theorem wait_gives_held (h : CcAt (isMinor 0x36) s x) (h0 : bitsOf x.w 7 0 ≠ 0)
    (hd : ccWaitDone (waitIssued x (coreInternal s x.k)) = false) :
    Gives (.wait x.n) s (putCore (coreInternal s x.k) x.k { waitIssued x (coreInternal s x.k) with blocked := true }) :=
  gives_stay isRow_wait h ((if_neg h0).trans (if_neg (Bool.eq_false_iff.1 hd)))

end

/-- A wait held for longer than TOKEN_STALL_LIMIT is released (R131). -/
theorem stallRelease_held {s : State} {n k t0 c cnt : Nat} {u : Waiter} (hk : keyOf s n = some k)
    (hw : waitOf (coreAt s k) u = .held t0) (hh : headWait (coreAt s k) u = some (c, cnt))
    (hl : dget s kTokenStallLimit ≠ 0) (ht : t0 + dget s kTokenStallLimit < timeNs s) :
    stallRelease n u s =
      (let p := stallPlace (coreAt s k) u
       dcount (tallySkip (modCore (logEvent s k (waiterCode u) cdTokenStall p.1 p.2) k
         (fun d => settle (timeNs s) (setWait (setTok d c 0) u .done))) k) kStallReleases 1) := by
  unfold stallRelease
  simp only [hk, hw, hh]
  exact if_pos (by simp [hl, ht])

/-- Settles O18, row by row. -/
theorem ccTokenRows : Obligations.CcTokenRows := by
  refine ⟨fun s x q h hq => ⟨push_gives h hq, push_blocks h hq⟩, ccDoes_of_isRow (fun _ _ => rfl) fun _ _ => rfl,
    fun s x h => ⟨wait_gives_none h, wait_gives_done h, wait_gives_held h⟩, ?_⟩
  intro s n k u at_ t0 c cnt hup hw hh hl ht
  exact gives_of_whenUp hup.1 rfl (stallRelease_held (s := atTime s at_) hup.2 hw hh hl ht)

/-! ### Waiters and their counters (R129–R131, R322) -/

theorem waiterCode_inj {u w : Waiter} (h : waiterCode u = waiterCode w) : u = w := by
  revert h
  cases u <;> cases w <;> decide

theorem waitOf_setWait (c : Core) (w : Waiter) (v : WaitSt) : waitOf (setWait c w v) w = v := tblGet_tblSet_same _ _ _ _

theorem waitOf_setWait_other (c : Core) {u w : Waiter} (v : WaitSt) (h : u ≠ w) : waitOf (setWait c w v) u = waitOf c u :=
  tblGet_tblSet_other _ _ _ _ _ (mt waiterCode_inj h)

theorem tok_setTok_le (c : Core) (k v j : Nat) (h : v ≤ tok c k) : tok (setTok c k v) j ≤ tok c j := by
  by_cases hj : j = k
  · subst hj
    exact le_of_eq_of_le (tblGet_tblSet_same _ _ _ _) h
  · exact (tblGet_tblSet_other _ _ _ _ _ hj).le

/-- What a waiter waits for does not depend on the wait states or the counters. -/
theorem headWait_setWait (c : Core) (u w : Waiter) (v : WaitSt) : headWait (setWait c w v) u = headWait c u := by cases u <;> rfl

theorem headWait_setTok (c : Core) (u : Waiter) (k v : Nat) : headWait (setTok c k v) u = headWait c u := by cases u <;> rfl

/-- The waiter is held only where its counter is below its count. -/
def Served (c : Core) (w : Waiter) : Prop := ∀ t0 k n, waitOf c w = .held t0 → headWait c w = some (k, n) → tok c k < n

/-- The waiter is no stopped DE (R322). -/
def Waits (c : Core) (w : Waiter) : Prop := w ≠ .de ∨ c.de.stop = false

/-- What the meeting of a waiter and its counter can do (R129, R131, R322). -/
inductive ServeCase (t : Nat) (c : Core) (w : Waiter) : Core → Prop
  | stopped (h : ¬Waits c w) : ServeCase t c w c
  | noWait (h : headWait c w = none) : ServeCase t c w (setWait c w .idle)
  | wasDone (h : waitOf c w = .done) : ServeCase t c w c
  | takes {k n : Nat} (h : headWait c w = some (k, n)) (hn : n ≤ tok c k) :
      ServeCase t c w (setWait (setTok c k (tok c k - n)) w .done)
  | holds {k n : Nat} (t0 : Nat) (h : headWait c w = some (k, n)) (hn : tok c k < n) : ServeCase t c w (setWait c w (.held t0))

theorem serve_cases (t : Nat) (c : Core) (w : Waiter) : ServeCase t c w (serve t c w) := by
  unfold serve
  split
  · next h =>
    refine .stopped fun hw => ?_
    simp only [Bool.and_eq_true, beq_iff_eq] at h
    rcases hw with hw | hw
    · exact hw h.1
    · simp [h.2] at hw
  · split
    · next h => exact .noWait h
    · next k n h =>
      split
      · next hd => exact .wasDone hd
      · split
        · next hn => exact .takes h hn
        · next hn =>
          have below : tok c k < n := Nat.not_le.1 hn
          split <;> exact .holds _ h below

namespace ServeCase
variable {t : Nat} {c d : Core} {u w : Waiter}

theorem headWait_eq (h : ServeCase t c w d) : headWait d u = headWait c u := by
  cases h with
  | stopped | wasDone => rfl
  | noWait | holds => exact headWait_setWait ..
  | takes => exact (headWait_setWait ..).trans (headWait_setTok ..)

theorem tok_le (h : ServeCase t c w d) (j : Nat) : tok d j ≤ tok c j := by
  cases h with
  | stopped | wasDone | noWait | holds => exact Nat.le_refl _
  | takes => exact tok_setTok_le c _ _ j (Nat.sub_le ..)

theorem de_eq (h : ServeCase t c w d) : d.de = c.de := by cases h <;> rfl

theorem waitOf_other (h : ServeCase t c w d) (hu : u ≠ w) : waitOf d u = waitOf c u := by
  cases h with
  | stopped | wasDone => rfl
  | noWait | holds | takes => exact waitOf_setWait_other _ _ hu

/-- A waiter that meets its counter is served. -/
theorem served (h : ServeCase t c w d) (hw : Waits c w) : Served d w := by
  intro t0 k n held wants
  cases h with
  | stopped hs => exact absurd hw hs
  | noWait | takes => rw [waitOf_setWait] at held; cases held
  | wasDone hd => rw [hd] at held; cases held
  | holds t1 hh below =>
    rw [headWait_setWait, hh] at wants
    cases wants
    exact below

/-- Counters only fall while others are served. -/
theorem served_other (h : ServeCase t c w d) (hu : u ≠ w) (served : Served c u) : Served d u := by
  intro t0 k n held wants
  rw [h.waitOf_other hu] at held
  rw [h.headWait_eq] at wants
  exact Nat.lt_of_le_of_lt (h.tok_le k) (served t0 k n held wants)

end ServeCase

theorem served_serves (t : Nat) (w : Waiter) (l : List Waiter) (c : Core) (hw : Waits c w) (h : w ∈ l ∨ Served c w) :
    Served (l.foldl (serve t) c) w := by
  induction l generalizing c with
  | nil => exact h.resolve_left List.not_mem_nil
  | cons u l ih =>
    have meets := serve_cases t c u
    refine ih _ (by rwa [Waits, meets.de_eq]) ?_
    by_cases hu : w = u
    · subst hu
      exact .inr (meets.served hw)
    · exact h.imp (fun hm => (List.mem_cons.1 hm).resolve_left hu) (meets.served_other hu)

/-- Settles O19: every waiter meets its counter, and the others that meet theirs after it only lower it. -/
theorem tokenWaitsServed : Obligations.TokenWaitsServed := by
  intro t t0 c w k n hw
  have every : w ∈ [Waiter.cc, .me, .ve, .de, .cq, .se] := by cases w <;> decide
  exact served_serves t w _ c hw (.inl every) t0 k n

/-! ### Launches and their boundaries (R113, R118, R120) -/

section
variable (now : Nat) (c : Core) (r : Run)

theorem candidate_galley : (candidate now c).galley = c.galley := by unfold candidate; split <;> rfl
theorem candidate_run : (candidate now c).run = c.run := by unfold candidate; split <;> rfl
theorem candidate_image : (candidate now c).image = c.image := by unfold candidate; split <;> rfl

theorem boundaryCore_galley : (boundaryCore now c r).galley = [] := candidate_galley ..
theorem boundaryCore_run : (boundaryCore now c r).run = none := candidate_run ..
theorem boundaryCore_image : (boundaryCore now c r).image = c.atEnd := candidate_image ..

end

/-- The boundary of a finished launch whose work has drained (R120, R137). -/
theorem formeBoundary_gives {s : State} {n k : Nat} {r : Run} (hup : CoreUp s n k) (hr : (coreAt s k).run = some r)
    (hf : r.finished = true) (hd : drainedCore s k (coreAt s k) = true) :
    Gives (.formeBoundary n) s (ringBoundary (restCluster (putCore (dcount s kGalleyDiscards (coreAt s k).galley.length) k
      (boundaryCore (timeNs s) (coreAt s k) r)) k) r.ring r.idx n false) := by
  refine gives_of_whenUp hup.1 rfl ?_
  simp only [hup.2, hr, hf, hd, Bool.not_true, Bool.or_self, Bool.false_eq_true, if_false]

/-- Settles O20: the cases of an admission by its count and by the check of its forme; the boundary of a launch that has drained. -/
theorem launchRows : Obligations.LaunchRows := by
  refine ⟨fun s n k l rest hup hq hg ho => ⟨fun h0 => ?empty, fun f h0 hf => ?runs, fun h0 hf => ?skipped⟩,
    fun s n k r hup hr hf hd => ⟨boundaryCore_galley .., boundaryCore_run .., boundaryCore_image ..,
      formeBoundary_gives hup hr hf hd⟩⟩
  all_goals
    refine gives_of_whenUp hup.1 rfl ?_
    simp only [hup.2, hq, hg, ho, Bool.not_true, Bool.or_self, Bool.false_eq_true, if_false]
  case empty => exact if_pos h0
  case runs => rw [if_neg h0, hf]
  case skipped => rw [if_neg h0, hf]

end Sys2Proof.ControlCore
end

section
/-! SUPPORT. The family of chapter 04: the rows of the vector engine whose extents are fixed. -/
namespace Sys2Proof.CommandEncodings
open Sys2Proof Machine Config Safety Laws Scope ControlCore

/-! ### Taking a command from VQ (R126, R167, R206) -/

/-- Row `i` is the VE's row of the commands `mine`, with result `out`. -/
def IsVeRow (i : Nat → Instr) (mine : Cmd → Bool) (out : State → Core → VeF → List GSlot → VeOut) : Prop :=
  ∀ n s, exec (i n) s = whenUp s (veRow n mine out s)

theorem timeNs_dcount (s : State) (k n : Nat) : timeNs (dcount s k n) = timeNs s := by
  unfold dcount; split <;> rfl

section
variable {mine : Cmd → Bool} {out : State → Core → VeF → List GSlot → VeOut} {s : State} {e : Ex} {f : VeF}

/-- A VE that is free has no command that waits for galley slots. -/
theorem veJob_of_free {k : Nat} {c : Core} (h : veBusy s k c = false) : c.veJob = none := by
  obtain ⟨idle, -⟩ := Bool.or_eq_false_iff.1 h
  exact Option.not_isSome_iff_eq_none.1 (Bool.eq_false_iff.1 idle)

theorem veRow_at (h : HeadAt .vq mine veBusy s e) : veRow e.n mine out s = veRun out e (taken s e) := by
  have ⟨⟨_, key⟩, _, _, _, _, free, own⟩ := h
  simp only [veRow, key, veJob_of_free free]
  exact engineRow_at h (veRun out) (by rw [own, Bool.true_or])

/-- A command that waits for galley slots goes on when its row comes again while issue is not held (R450, R451). -/
theorem veRow_waiting {n k : Nat} {j : VeJob} (hk : keyOf s n = some k) (hj : (coreAt s k).veJob = some j) (hm : mine j.cmd = true)
    (hh : heldEngine s k = false) (hf : veFields s j.cmd = some f) : veRow n mine out s = veTake out k s j f := by
  simp [veRow, hk, hj, hm, hh, hf]

/-- What the checks of a command say: the code of the first that applies (R14, R206). -/
def veCheck (s : State) (e : Ex) (f : VeF) : Option Nat :=
  firstSkip [(veIllegal (flushOn s) (coreAt s e.k) e.x f, stIllegal), (veBounds f, stBounds)]

theorem veRun_unread (hf : veFields s e.x = none) : veRun out e s = exEnd e s stIllegal := by
  simp only [veRun, hf]

theorem veRun_skipped {code : Nat} (hf : veFields s e.x = some f) (hc : veCheck s e f = some code) : veRun out e s = exEnd e s code := by
  rw [veCheck] at hc
  simp only [veRun, hf, hc]

theorem veRun_passed (hf : veFields s e.x = some f) (hc : veCheck s e f = none) :
    veRun out e s = if f.cnt = 0 then exEnd e (dcount s kVeCommands 1) stOk
      else veTake out e.k (dcount s kVeCommands 1) { cmd := e.x, since := timeNs s } f := by
  rw [veCheck] at hc
  simp only [veRun, hf, hc]

end

/-! ### Galley slots (R188, R191) -/

section
variable {out : State → Core → VeF → List GSlot → VeOut} {k : Nat} {s : State} {j : VeJob} {f : VeF}

/-- With the slots it lacks FINISHED, a command computes. -/
theorem veTake_enough (hj : j.slots.length ≤ slotsNeeded f) (hg : slotsNeeded f ≤ j.slots.length + (coreAt s k).galley.length) :
    veTake out k s j f = veCompute out k (freeSlots s k (slotsNeeded f - j.slots.length)) j.cmd f
      (j.slots ++ (coreAt s k).galley.take (slotsNeeded f - j.slots.length)) := by
  have enough : (j.slots ++ (coreAt s k).galley.take (slotsNeeded f - j.slots.length)).length = slotsNeeded f := by
    rw [List.length_append, List.length_take]
    omega
  exact if_pos enough

/-- With fewer, it takes those there are and waits; its wait begins anew where it took one. -/
theorem veTake_waits (hg : j.slots.length + (coreAt s k).galley.length < slotsNeeded f) :
    veTake out k s j f = modCore (freeSlots s k (slotsNeeded f - j.slots.length)) k (fun c => { c with
      veJob := some { j with slots := j.slots ++ (coreAt s k).galley,
                             since := if (coreAt s k).galley.isEmpty then j.since else timeNs s } }) := by
  have all : (coreAt s k).galley.take (slotsNeeded f - j.slots.length) = (coreAt s k).galley :=
    List.take_of_length_le (by omega)
  have short : (j.slots ++ (coreAt s k).galley).length ≠ slotsNeeded f := by
    rw [List.length_append]
    omega
  simp only [veTake, all, if_neg short]

end

/-! ### The rows of R157 -/

section
variable {i : Nat → Instr} {mine : Cmd → Bool} {out : State → Core → VeF → List GSlot → VeOut}

/-- A row at the head of VQ gives what `veRun` makes of its command. -/
theorem gives_veRun {s t : State} {e : Ex} (hi : IsVeRow i mine out) (h : HeadAt .vq mine veBusy s e)
    (ht : veRun out e (taken s e) = t) : Gives (i e.n) s t :=
  gives_of_whenUp h.1.1 (hi e.n s) ((veRow_at h).trans ht)

theorem veSkips_of_isVeRow (hi : IsVeRow i mine out) : VeSkips i mine := fun _ _ h =>
  ⟨fun hf => gives_veRun hi h (veRun_unread hf), fun _ _ hf hc => gives_veRun hi h (veRun_skipped hf hc)⟩

theorem veDoes_of_isVeRow (hi : IsVeRow i mine out) : VeDoes i mine out := by
  refine ⟨fun s e f ⟨head, hf, hc⟩ => ⟨fun h0 => ?empty, fun h0 hg => ?computes, fun h0 hg => ?waits⟩,
    fun s n k j f hup hj hm hh hf hle hge => ?resumes⟩
  case empty => exact gives_veRun hi head ((veRun_passed hf hc).trans (if_pos h0))
  case computes =>
    refine gives_veRun hi head (((veRun_passed hf hc).trans (if_neg h0)).trans ((veTake_enough (Nat.zero_le _) ?_).trans ?_))
    · simpa only [coreAt_dcount, List.length_nil, Nat.zero_add] using hg
    · simp only [coreAt_dcount, List.length_nil, Nat.sub_zero, List.nil_append]
  case waits =>
    have time : timeNs (taken s e) = timeNs s := rfl
    refine gives_veRun hi head (((veRun_passed hf hc).trans (if_neg h0)).trans ((veTake_waits ?_).trans ?_))
    · simpa only [coreAt_dcount, List.length_nil, Nat.zero_add] using hg
    · simp only [coreAt_dcount, List.length_nil, Nat.sub_zero, List.nil_append, timeNs_dcount, time, ite_self]
  case resumes => exact gives_of_whenUp hup.1 (hi n s) ((veRow_waiting hup.2 hj hm hh hf).trans (veTake_enough hle hge))

/-- A row of the VE does its operation, or is skipped where a check stops it. -/
theorem does_and_skips (hi : IsVeRow i mine out) : VeDoes i mine out ∧ VeSkips i mine :=
  ⟨veDoes_of_isVeRow hi, veSkips_of_isVeRow hi⟩

end

/-- Settles O26: each instruction listed is the VE's row of its opcode, or of its opcode and SUB. -/
theorem vectorRows : Obligations.VectorRows := by
  refine ⟨fun p hp => does_and_skips ?_, fun p hp => does_and_skips ?_, fun p hp => does_and_skips ?_⟩
  all_goals
    revert p
    simp only [List.forall_mem_cons, List.not_mem_nil, false_imp_iff, implies_true, and_true]
    and_intros <;> exact fun _ _ => rfl

end Sys2Proof.CommandEncodings
end

section
/-! SUPPORT. The family of chapter 05: the elements of C, what the core store and the galley hold of them, and the rows of the
matrix engine. -/
namespace Sys2Proof.MatrixEngine
open Sys2Proof Machine Config Safety Laws Scope ControlCore CommandEncodings

/-! ### Elements of C (R172, R179) -/

theorem length_getElems (w n : Nat) (bs : List Byte) : (getElems w n bs).length = n := by
  induction n generalizing bs with
  | zero => rfl
  | succ n ih =>
    rw [getElems]
    split
    · simp
    · rw [List.length_cons, ih]

theorem length_matRows (c : Core) (f : NumFmt) (a rows cols : Nat) : (matRows c f a rows cols).length = rows := by simp [matRows]

theorem length_of_mem_matRows {c : Core} {f : NumFmt} {a rows cols : Nat} {r : List Nat} (h : r ∈ matRows c f a rows cols) :
    r.length = cols := by
  obtain ⟨i, -, rfl⟩ := List.mem_map.1 h
  exact length_getElems ..

/-- C begins with M rows. -/
theorem length_initAccs (c : Core) (f : MeF) : (initAccs c f).length = f.m := by
  rw [initAccs, List.length_map]
  split
  · exact length_matRows ..
  · exact List.length_replicate

/-- Each has N elements. -/
theorem length_of_mem_initAccs {c : Core} {f : MeF} {r : List Acc} (h : r ∈ initAccs c f) : r.length = f.n := by
  obtain ⟨bits, hb, rfl⟩ := List.mem_map.1 h
  rw [List.length_map]
  split at hb
  · exact length_of_mem_matRows hb
  · rw [List.eq_of_mem_replicate hb, List.length_replicate]

/-- Without dot blocks every element stays what it was. -/
theorem mmaFrom_nil (s : State) (c : Core) {f : MeF} {init : List (List Acc)} (hm : init.length = f.m)
    (hn : ∀ r ∈ init, r.length = f.n) : mmaFrom s c f [] init = init := by
  simp only [mmaFrom, List.foldl_nil]
  refine (List.map_congr_left fun p hp => ?_).trans (List.map_snd_zip ?_)
  · have row : p.2 ∈ init := (List.of_mem_zip hp).2
    exact List.map_snd_zip (by simp [hn _ row])
  · simp [hm, length_matRows]

/-- K = 0 makes no dot block. -/
theorem mmaElems_without_terms (s : State) (c : Core) {f : MeF} (hk : f.k = 0) :
    mmaElems s c f (List.range (cdiv f.k 16)) = initAccs c f := by
  rw [hk]
  exact mmaFrom_nil s c (length_initAccs c f) fun _ => length_of_mem_initAccs

/-- Settles O57: the elements are those that C begins with, which have met no flag. -/
theorem mmaWithoutTerms : Obligations.MmaWithoutTerms := by
  intro s c f hk
  rw [mmaElems_without_terms s c hk]
  simp [initAccs, Function.comp_def]

/-! ### Bytes of a core store (R275) -/

/-- What is read at and above the first address of a write's cells: its first byte there, the others above it. -/
theorem tblGet_cellsOf_cons {r : List Host.Cell} {a : Nat} (hr : ∀ e ∈ r, e.1 ≠ a) (b : Byte) (bs : List Byte) (j : Nat) :
    tblGet byteDflt (cellsOf a (b :: bs) ++ r) j = if j = a then b else tblGet byteDflt (cellsOf (a + 1) bs ++ r) j := by
  rw [cellsOf]
  split
  · next zero =>
    split
    · next here =>
      subst here
      rw [zero]
      refine tblGet_of_ne _ _ _ fun e he => ?_
      rcases List.mem_append.1 he with he | he
      · have := (cellsOf_wf (j + 1) bs).1 e he
        omega
      · exact hr e he
    · rfl
  · rfl

/-- A byte that the cells of a write hold, whatever lies behind them. -/
theorem tblGet_cellsOf {r : List Host.Cell} (bs : List Byte) {a i : Nat} (hi : i < bs.length)
    (hr : ∀ e ∈ r, a + bs.length ≤ e.1) : tblGet byteDflt (cellsOf a bs ++ r) (a + i) = bs.getD i 0 := by
  induction bs generalizing a i with
  | nil => exact absurd hi (Nat.not_lt_zero i)
  | cons b bs ih =>
    rw [List.length_cons] at hi hr
    rw [tblGet_cellsOf_cons (fun e he => by have := hr e he; omega)]
    cases i with
    | zero => rw [if_pos (Nat.add_zero a), List.getD_cons_zero]
    | succ i =>
      have above : a + (i + 1) = a + 1 + i := by omega
      rw [if_neg (by omega), above, ih (by omega) (fun e he => by have := hr e he; omega), List.getD_cons_succ]

/-- A byte within the written range reads as it was written. -/
theorem memGet_memWrite_same (m : List Host.Cell) (a : Nat) (bs : List Byte) {i : Nat} (hi : i < bs.length) :
    memGet (memWrite m a bs) (a + i) = bs.getD i 0 := by
  have below : ∀ e ∈ m.filter (fun c => decide (c.1 < a)), e.1 ≠ a + i := fun e he => by
    have : e.1 < a := by simpa using (List.mem_filter.1 he).2
    omega
  rw [memGet, memWrite, List.append_assoc, tblGet_append_of_ne _ _ _ _ below]
  exact tblGet_cellsOf bs hi fun e he => by simpa using (List.mem_filter.1 he).2

/-- A write that is split at tile boundaries puts each of its bytes, when there is fuel for each tile. -/
theorem memGet_writeGo_same (f : Nat) (c : Core) {a : Nat} {bs : List Byte} (hf : a % 4096 + bs.length ≤ 4096 * f) {i : Nat}
    (hi : i < bs.length) : memGet (writeGo f c a bs).store (a + i) = bs.getD i 0 := by
  induction f generalizing c a bs i with
  | zero => omega
  | succ f ih =>
    have some_left : bs.isEmpty = false := by
      cases bs with
      | nil => exact absurd hi (Nat.not_lt_zero i)
      | cons => rfl
    simp only [writeGo, some_left, Bool.false_eq_true, if_false]
    by_cases first : i < 4096 - a % 4096
    · rw [memGet_writeGo_other _ _ _ _ (by omega)]
      refine (memGet_memWrite_same _ _ _ ?_).trans ?_
      · rw [List.length_take]; omega
      · simp only [List.getD_eq_getElem?_getD, List.getElem?_take_of_lt first]
    · obtain ⟨j, rfl⟩ := Nat.exists_eq_add_of_le (Nat.le_of_not_lt first)
      rw [← Nat.add_assoc, ih _ (by rw [List.length_drop]; omega) (by rw [List.length_drop]; omega)]
      simp only [List.getD_eq_getElem?_getD, List.getElem?_drop]

theorem memGet_storeWrite_same (c : Core) (a : Nat) {bs : List Byte} {i : Nat} (hi : i < bs.length) :
    memGet (storeWrite c a bs).store (a + i) = bs.getD i 0 :=
  memGet_writeGo_same _ c (by omega) hi

section
variable (s : State) (k src a : Nat) (bs : List Byte)

theorem storage_notePoison (us : List Nat) : storage (notePoison s k src us) = storage s := by
  unfold notePoison
  split
  · rfl
  · exact storage_modCore s k fun _ => rfl

theorem storage_poisonTiles (ts : List Nat) : storage (poisonTiles s k src ts) = storage s := by
  rw [poisonTiles, storage_notePoison, storage_modCore]
  exact fun c => setPoison_store c ts

/-- Poison aside, the write of an engine is that of its core store. -/
theorem storage_cmdWrite : storage (cmdWrite s k src a bs) = storage (modCore s k (fun c => storeWrite c a bs)) := by
  unfold cmdWrite
  dsimp only
  split
  · exact storage_poisonTiles ..
  · rfl

theorem storeByte_cmdWrite (b : Nat) :
    storeByte (cmdWrite s k src a bs) k b = memGet (storeWrite (coreAt s k) a bs).store b := by
  rw [(bytes_of_storage (storage_cmdWrite s k src a bs)).2 k b, storeByte, coreAt_modCore]

end

theorem storeByte_cmdWrite_same (s : State) (k src a : Nat) {bs : List Byte} {i : Nat} (hi : i < bs.length) :
    storeByte (cmdWrite s k src a bs) k (a + i) = bs.getD i 0 :=
  (storeByte_cmdWrite s k src a bs _).trans (memGet_storeWrite_same _ a hi)

theorem storeByte_cmdWrite_other (s : State) (k src : Nat) {a b : Nat} {bs : List Byte} (h : ¬(a ≤ b ∧ b < a + bs.length)) :
    storeByte (cmdWrite s k src a bs) k b = storeByte s k b :=
  (storeByte_cmdWrite s k src a bs b).trans (memGet_storeWrite_other _ h)

/-! ### Rows of C in the core store (R61, R172) -/

theorem length_packElems (w : Nat) (xs : List Nat) : (packElems w xs).length = packedBytes w xs.length := by
  unfold packElems
  split
  · exact length_leBytes ..
  · have narrow : w ≠ 6 ∧ w ≠ 4 := by omega
    simp [List.length_flatMap, length_leBytes, packedBytes, narrow]

theorem le_roundUp_eight (n : Nat) : n ≤ roundUp n 8 := by
  unfold roundUp cdiv
  omega

/-- The bytes of a row of C (R61). -/
def rowBytes (f : MeF) (r : List Acc) : List Byte := packElems (nfW f.c) (r.map (·.bits))

/-- A row of N elements lies within its pitch. -/
theorem length_rowBytes_le_pitch {f : MeF} {r : List Acc} (h : r.length = f.n) : (rowBytes f r).length ≤ pitch f.c f.n := by
  rw [rowBytes, length_packElems, List.length_map, h]
  exact le_roundUp_eight _

/-- The last row is written after those before it. -/
theorem writeC_concat (s : State) (k : Nat) (f : MeF) (es : List (List Acc)) (r : List Acc) :
    writeC s k f (es ++ [r]) = cmdWrite (writeC s k f es) k 1 (f.cA + es.length * pitch f.c f.n) (rowBytes f r) := by
  simp [writeC, rowBytes, List.range_succ, List.zip_append]

/-- Each byte of row i stands at that row of C in the core store. -/
theorem storeByte_writeC (s : State) (k : Nat) {f : MeF} {es : List (List Acc)} (hn : ∀ r ∈ es, r.length = f.n) {i j : Nat}
    (hi : i < es.length) (hj : j < (rowBytes f (es.getD i [])).length) :
    storeByte (writeC s k f es) k (f.cA + i * pitch f.c f.n + j) = (rowBytes f (es.getD i [])).getD j 0 := by
  induction es using List.reverseRecOn with
  | nil => exact absurd hi (Nat.not_lt_zero i)
  | append_singleton es r ih =>
    rw [writeC_concat]
    rw [List.length_append, List.length_singleton] at hi
    rcases Nat.lt_succ_iff_lt_or_eq.1 hi with before | last
    · have same : (es ++ [r]).getD i [] = es.getD i [] := List.getD_append _ _ _ _ before
      rw [same] at hj ⊢
      have row : (es.getD i []).length = f.n := by
        rw [List.getD_eq_getElem _ _ before]
        exact hn _ (List.mem_append_left _ (List.getElem_mem before))
      have fits := length_rowBytes_le_pitch row
      have next : (i + 1) * pitch f.c f.n ≤ es.length * pitch f.c f.n := Nat.mul_le_mul_right _ before
      rw [Nat.add_mul, Nat.one_mul] at next
      rw [storeByte_cmdWrite_other _ _ _ (by omega)]
      exact ih (fun r hr => hn r (List.mem_append_left _ hr)) before hj
    · subst last
      have same : (es ++ [r]).getD es.length [] = r := by simp
      rw [same] at hj ⊢
      exact storeByte_cmdWrite_same _ _ _ _ hj

/-! ### Rows of C in galley slots (R186, R189) -/

section
variable {α : Type} (k : Nat) (a : α)

/-- A list cut in chunks that are filled up to one length begins with the list: no chunk but the last has room. -/
theorem prefix_chunksGo (hk : 0 < k) (fuel : Nat) (l : List α) (h : l.length ≤ fuel) :
    l <+: (chunksGo fuel k l).flatMap (List.rightpad k a) := by
  induction fuel generalizing l with
  | zero => rw [List.length_eq_zero_iff.1 (Nat.le_zero.1 h)]; exact List.nil_prefix
  | succ fuel ih =>
    rw [chunksGo]
    split
    · next empty => rw [List.isEmpty_iff.1 empty]; exact List.nil_prefix
    · rw [List.flatMap_cons, List.rightpad, List.append_assoc]
      by_cases short : l.length ≤ k
      · rw [List.take_of_length_le short]
        exact List.prefix_append ..
      · have full : k - (l.take k).length = 0 := by rw [List.length_take]; omega
        rw [full, List.replicate_zero, List.nil_append]
        conv_lhs => rw [← List.take_append_drop k l]
        exact (List.prefix_append_right_inj _).2 (ih _ (by rw [List.length_drop]; omega))

theorem length_of_mem_chunksGo (fuel : Nat) (l : List α) : ∀ ch ∈ chunksGo fuel k l, ch.length ≤ k := by
  induction fuel generalizing l with
  | zero => simp [chunksGo]
  | succ fuel ih =>
    rw [chunksGo]
    split
    · simp
    · exact List.forall_mem_cons.2 ⟨List.length_take_le .., ih _⟩

end

/-- Each slot has 4,096 bytes and the poison of its command (R186, R187). -/
theorem galSlots_slot (f : MeF) (es : List (List Acc)) (p : Bool) : ∀ g ∈ galSlots f es p, g.bytes.length = 4096 ∧ g.poison = p := by
  intro g hg
  obtain ⟨ch, hch, rfl⟩ := List.mem_map.1 hg
  have := length_of_mem_chunksGo 4096 _ _ ch hch
  refine ⟨?_, rfl⟩
  rw [List.length_append, List.length_replicate]
  omega

/-- The slots begin with the bytes of the rows, one row after another. -/
theorem rowBytes_prefix_galSlots (f : MeF) (es : List (List Acc)) (p : Bool) :
    es.flatMap (rowBytes f) <+: (galSlots f es p).flatMap (·.bytes) := by
  rw [galSlots, List.flatMap_map]
  exact prefix_chunksGo 4096 0 (by decide) _ _ le_rfl

/-- Byte j of the row i of what begins with the rows of a list. -/
theorem getD_of_flatMap_prefix {α β : Type} {g : α → List β} {es : List α} {l : List β} (h : es.flatMap g <+: l) (d : β) (x : α)
    {i j : Nat} (hi : i < es.length) (hj : j < (g (es.getD i x)).length) :
    l.getD (((es.take i).flatMap g).length + j) d = (g (es.getD i x)).getD j d := by
  obtain ⟨rest, rfl⟩ := h
  rw [List.getD_eq_getElem _ _ hi] at hj ⊢
  have rows : es.flatMap g = (es.take i).flatMap g ++ (g es[i] ++ (es.drop (i + 1)).flatMap g) := by
    rw [← List.flatMap_cons, List.getElem_cons_drop, ← List.flatMap_append, List.take_append_drop]
  rw [rows, List.append_assoc, List.append_assoc, List.getD_append_right _ _ _ _ (Nat.le_add_right ..), Nat.add_sub_cancel_left,
    List.getD_append _ _ _ _ hj]

/-- Settles O58: the elements do not depend on C_GALLEY; the slots begin with the rows' bytes, and so does each row of C. -/
theorem galleySlotsHoldTheRows : Obligations.GalleySlotsHoldTheRows := by
  refine ⟨fun s c f gal blocks => ⟨rfl, rfl⟩, fun f es p => ?_⟩
  have rows := rowBytes_prefix_galSlots f es p
  exact ⟨⟨(List.prefix_iff_eq_take.1 rows).symm, galSlots_slot f es p⟩, fun s k i j hn hi hj =>
    (storeByte_writeC s k hn hi hj).trans (getD_of_flatMap_prefix rows 0 [] hi hj).symm⟩

/-! ### Taking a command from MQ (R126, R155, R167, R193) -/

/-- Row `i` is the ME's row of MMA, or with `ew` that of MEWMA. -/
def IsMeRow (i : Nat → Instr) (ew : Bool) : Prop :=
  ∀ n s, exec (i n) s = whenUp s (engineRow n .mq (fun x => w0Op x.w0 == (if ew then 2 else 1) || meReserved x) meBusy (meRun ew) s)

/-- The head that the row takes carries its opcode. -/
theorem op_of_head {ew : Bool} {s : State} {e : Ex} (h : HeadAt .mq (fun x => w0Op x.w0 == (if ew then 2 else 1)) meBusy s e) :
    w0Op e.x.w0 = if ew then 2 else 1 := by
  have ⟨_, _, _, _, _, _, own⟩ := h
  exact eq_of_beq own

/-- A row at the head of MQ gives what `meRun` makes of its command. -/
theorem gives_meRun {i : Nat → Instr} {ew : Bool} {s t : State} {e : Ex} (hi : IsMeRow i ew)
    (h : HeadAt .mq (fun x => w0Op x.w0 == (if ew then 2 else 1)) meBusy s e) (ht : meRun ew e (taken s e) = t) : Gives (i e.n) s t := by
  have own : (w0Op e.x.w0 == if ew then 2 else 1) = true := beq_iff_eq.2 (op_of_head h)
  exact gives_of_whenUp h.1.1 (hi e.n s) ((engineRow_at h (meRun ew) (by rw [own, Bool.true_or])).trans ht)

/-- The gather window that a command names: GWIN of an MMA, 0 of another (R193). -/
def meWindow (x : Cmd) : Nat := if w0Op x.w0 = 1 then fld x.w1 11 0 else 0

theorem meWindow_mma {x : Cmd} (hop : w0Op x.w0 = 1) : meWindow x = fld x.w1 11 0 := if_pos hop

theorem meWindow_eq_zero {x : Cmd} {ew : Bool} (hop : w0Op x.w0 = if ew then 2 else 1) (hw : ew = false → fld x.w1 11 0 = 0) :
    meWindow x = 0 := by
  cases ew with
  | true => exact if_neg (by rw [hop]; decide)
  | false => exact (meWindow_mma hop).trans (hw rfl)

/-- What the checks of a command say, with `wbad` where its gather window breaks R194: the code of the first that applies (R19, R175, R194). -/
def meCheck (ew wbad : Bool) (s : State) (x : Cmd) (f : MeF) : Option Nat :=
  firstSkip [(w0Op x.w0 != (if ew then 2 else 1), stIllegal), (meIllegal x ew (some f) || wbad, stIllegal), (meFused s f, stFused),
    ((meSrcs f ew ++ meDst f).any (fun r => !inStore r.1 r.2), stBounds)]

section
variable {ew : Bool} {s : State} {x : Cmd} {f : MeF} (hop : w0Op x.w0 = if ew then 2 else 1)
include hop

/-- The command's opcode is no check that stops it. -/
theorem meCheck_own (wbad : Bool) : meCheck ew wbad s x f =
    firstSkip [(meIllegal x ew (some f) || wbad, stIllegal), (meFused s f, stFused),
      ((meSrcs f ew ++ meDst f).any (fun r => !inStore r.1 r.2), stBounds)] :=
  firstSkip_miss (by simp [hop]) _ _

theorem meCheck_illegal (h : meIllegal x ew (some f) = true) : meCheck ew false s x f = some stIllegal :=
  (meCheck_own hop _).trans (firstSkip_hit (by rw [h, Bool.true_or]) _ _)

theorem meCheck_window : meCheck ew true s x f = some stIllegal :=
  (meCheck_own hop _).trans (firstSkip_hit (Bool.or_true _) _ _)

theorem meCheck_fused (h : meIllegal x ew (some f) = false) (hf : meFused s f = true) : meCheck ew false s x f = some stFused := by
  rw [meCheck_own hop, h]
  exact firstSkip_hit hf _ _

theorem meCheck_bounds (h : meIllegal x ew (some f) = false) (hf : meFused s f = false)
    (hb : (meSrcs f ew ++ meDst f).any (fun r => !inStore r.1 r.2) = true) : meCheck ew false s x f = some stBounds := by
  rw [meCheck_own hop, h, hf]
  exact firstSkip_hit hb _ _

theorem meCheck_clear (h : meClear ew s x f) : meCheck ew false s x f = none := by
  obtain ⟨legal, whole, inside⟩ := h
  rw [meCheck_own hop, legal, whole, inside]
  rfl

end

section
variable {ew : Bool} {s : State} {e : Ex} {f : MeF}

/-- A command without a gather window that names no fields (R54). -/
theorem meRun_unread (hw : meWindow e.x = 0) (hf : meFields s e.x = none) : meRun ew e s = exEnd e s stIllegal := by
  rw [meWindow] at hw
  simp only [meRun, hw, hf, bne_self_eq_false, Bool.and_false, Bool.false_eq_true, if_false, decide_true, Bool.or_true, if_true]

/-- One that names them computes, or is skipped with the code of a check. -/
theorem meRun_windowless (hw : meWindow e.x = 0) (hf : meFields s e.x = some f) {o : Option Nat} (hc : meCheck ew false s e.x f = o) :
    meRun ew e s = o.elim (meCompute e.k (dcount s kMeCommands 1) e.x f ew (List.range (cdiv f.k 16)) false) (exEnd e s) := by
  rw [meWindow] at hw
  rw [meCheck] at hc
  simp only [meRun, hw, hf, hc, bne_self_eq_false, Bool.and_false, Bool.false_eq_true, if_false, decide_true, Bool.or_true, if_true]
  cases o <;> rfl

end

/-! ### Gather windows (R193–R196) -/

/-- The state in which an MMA of core `k` has bound the all-gather `g`. -/
def gatherBound (s : State) (k : Nat) (g : Cmd) : State :=
  dcount (modCore s k (fun c => { c with boundUids := c.boundUids ++ [g.uid] })) kGatherBindings 1

/-- The binding is released. -/
def gatherReleased (s : State) (k : Nat) (g : Cmd) : State :=
  modCore s k (fun c => { c with boundUids := c.boundUids.filter (· != g.uid) })

/-- The segments of the all-gather `g` that were ready before an MMA of core `k` bound it. -/
def readyBefore (s : State) (k : Nat) (g : Cmd) : List Nat :=
  if (coreAt s k).collCmd.map (·.uid) = some g.uid then unionNat (coreAt s k).collReady [] else []

section
variable {s : State} {e : Ex} {f : MeF} {g : Cmd} (hop : w0Op e.x.w0 = 1) (hw : fld e.x.w1 11 0 ≠ 0)
include hop hw

/-- An MMA whose window no all-gather binds is counted, and computes at once or is skipped (R193). -/
theorem meRun_unbound (hg : gatherFor (coreAt s e.k) (fld e.x.w1 11 0) = none) (hf : meFields s e.x = some f) {o : Option Nat}
    (hc : meCheck false false s e.x f = o) :
    meRun false e s = o.elim
      (meCompute e.k (dcount (dcount s kGatherUnbound 1) kMeCommands 1) e.x f false (List.range (cdiv f.k 16)) false)
      (exEnd e (dcount s kGatherUnbound 1)) := by
  simp only [meCheck, Bool.false_eq_true, if_false] at hc
  have named : (fld e.x.w1 11 0 != 0) = true := bne_iff_ne.2 hw
  simp only [meRun, hg, hf, hc, if_pos hop, named, hw, Bool.not_false, Bool.and_true, Bool.false_or, decide_false, Bool.false_eq_true,
    if_true, if_false]
  cases o <;> rfl

/-- One that binds an all-gather releases it where a check stops the command, ends OK where C has no elements, and takes its segments
elsewhere (R193, R194, R196). -/
theorem meRun_bound (hg : gatherFor (coreAt s e.k) (fld e.x.w1 11 0) = some g) (hf : meFields s e.x = some f) {o : Option Nat}
    (hc : meCheck false (windowBad s f g) s e.x f = o) :
    meRun false e s = o.elim
      (if f.m = 0 ∨ f.n = 0 then meEnd e.k (dcount (gatherBound s e.k g) kMeCommands 1) e.x stOk
       else gatherGo (segsNeeded f.k (fld g.w3 63 32 / pitch f.b f.n) + 1) e.k
        (modCore (dcount (gatherBound s e.k g) kMeCommands 1) e.k (fun c => { c with
          meJob := some { cmd := e.x, bound := some g.uid, seg := fld g.w3 63 32 / pitch f.b f.n, order := readyBefore s e.k g } })))
      (exEnd e (gatherReleased (gatherBound s e.k g) e.k g)) := by
  simp only [meCheck, Bool.false_eq_true, if_false] at hc
  have named : (fld e.x.w1 11 0 != 0) = true := bne_iff_ne.2 hw
  simp only [meRun, hg, hf, hc, if_pos hop, named, hw, Bool.not_false, Bool.and_true, Bool.false_or, decide_false, Bool.false_eq_true,
    if_true, if_false, Bool.or_eq_true, decide_eq_true_eq]
  cases o <;> rfl

end

section
variable {s : State} {k : Nat} {j : MeJob} {f : MeF} (hj : (coreAt s k).meJob = some j) (hb : j.bound.isSome = true)
  (hf : meFields s j.cmd = some f)
include hj hb hf

/-- A bound MMA takes the segment that is next. -/
theorem gatherGo_takes {g : Nat} (fuel : Nat) (hl : j.taken.length ≠ segsNeeded f.k j.seg)
    (hg : nextSeg s j (segsNeeded f.k j.seg) = some g) : gatherGo (fuel + 1) k s = gatherGo fuel k (gatherSeg k s j f g) := by
  have bound : j.bound.isNone = false := by rw [← Option.not_isSome, hb, Bool.not_true]
  simp only [gatherGo, hj, bound, hf, hl, hg, Bool.false_eq_true, if_false]

/-- It ends when all are taken. -/
theorem gatherGo_ends (fuel : Nat) (hl : j.taken.length = segsNeeded f.k j.seg) (ht : j.taken ≠ []) :
    gatherGo (fuel + 1) k s = gatherEnd k s j f := by
  have bound : j.bound.isNone = false := by rw [← Option.not_isSome, hb, Bool.not_true]
  have terms : segsNeeded f.k j.seg ≠ 0 := fun h0 => ht (List.length_eq_zero_iff.1 (hl.trans h0))
  simp only [gatherGo, hj, bound, hf, hl, terms, Bool.false_eq_true, if_false, if_true]

end

/-! ### The rows of the matrix engine and the galley -/

theorem isMeRow_mma : IsMeRow .mma false := fun _ _ => rfl
theorem isMeRow_mewma : IsMeRow .mewma true := fun _ _ => rfl

/-- A command without a gather window is skipped where a check stops it. -/
theorem skips_of_isMeRow {i : Nat → Instr} {ew : Bool} (hi : IsMeRow i ew) {s : State} {e : Ex} {f : MeF}
    (h : HeadAt .mq (fun x => w0Op x.w0 == (if ew then 2 else 1)) meBusy s e) (hw : ew = false → fld e.x.w1 11 0 = 0) :
    (meFields (taken s e) e.x = none → Gives (i e.n) s (exEnd e (taken s e) stIllegal)) ∧ (meFields (taken s e) e.x = some f →
    (meIllegal e.x ew (some f) = true → Gives (i e.n) s (exEnd e (taken s e) stIllegal)) ∧
    (meIllegal e.x ew (some f) = false → meFused (taken s e) f = true → Gives (i e.n) s (exEnd e (taken s e) stFused)) ∧
    (meIllegal e.x ew (some f) = false → meFused (taken s e) f = false →
      (meSrcs f ew ++ meDst f).any (fun r => !inStore r.1 r.2) = true → Gives (i e.n) s (exEnd e (taken s e) stBounds))) := by
  have hop := op_of_head h
  have window := meWindow_eq_zero hop hw
  refine ⟨fun hf => gives_meRun hi h (meRun_unread window hf), fun hf => ⟨fun hl => ?_, fun hl hu => ?_, fun hl hu hb => ?_⟩⟩
  · exact gives_meRun hi h (meRun_windowless window hf (meCheck_illegal hop hl))
  · exact gives_meRun hi h (meRun_windowless window hf (meCheck_fused hop hl hu))
  · exact gives_meRun hi h (meRun_windowless window hf (meCheck_bounds hop hl hu hb))

/-! Bringing TIME forward changes no core and no descriptor. -/

theorem keyOf_atTime (s : State) (t n : Nat) : keyOf (atTime s t) n = keyOf s n := rfl
theorem coreAt_atTime (s : State) (t k : Nat) : coreAt (atTime s t) k = coreAt s k := rfl
theorem veFields_atTime (s : State) (t : Nat) (x : Cmd) : veFields (atTime s t) x = veFields s x := rfl

section
variable {s : State} {n k : Nat} (hup : CoreUp s n k)
include hup

/-- Out of a hold the row takes segments while they are ready (R195, R450). -/
theorem gives_gatherSegmentTake {t : State} (hh : heldEngine s k = false) (ht : gatherGo 65537 k s = t) :
    Gives (.gatherSegmentTake n) s t := by
  refine gives_of_whenUp hup.1 rfl ?_
  simp only [hup.2, hh, Bool.false_eq_true, if_false]
  exact ht

variable {j : MeJob} (hj : (coreAt s k).meJob = some j) (hb : j.bound = none)
include hj hb

/-- A galley result goes on where its next block row has room and issue is not held, or where all have entered (R187, R450). -/
theorem gives_galleySlotReserve (h : j.groups = [] ∨ heldEngine s k = false ∧ galFits (coreAt s k) j.groups = true) :
    Gives (.galleySlotReserve n) s (galRun k s j.cmd j.groups j.status) := by
  refine gives_of_whenUp hup.1 rfl ?_
  rcases h with all | ⟨free, room⟩
  · simp [hup.2, hj, hb, all]
  · simp [hup.2, hj, hb, free, room]

/-- A wait for room that has lasted longer than the limit ends the command (R190). -/
theorem gives_galleyStallRelease {at_ : Nat} (hl : dget s kTokenStallLimit ≠ 0)
    (ht : j.since + dget s kTokenStallLimit < timeNs (atTime s at_)) (hg : galFits (coreAt s k) j.groups = false) :
    Gives (.galleyStallRelease n at_) s (meEnd k (dcount (tallySkip (modCore (atTime s at_) k (fun c => { c with galleyRes := [] })) k)
      kGalleyStallReleases 1) j.cmd (worse j.status stPartial)) := by
  refine gives_of_whenUp hup.1 rfl ?_
  simp [keyOf_atTime, coreAt_atTime, hup.2, hj, hb, hl, hg, Nat.not_le.2 ht]

end

/-- A wait for a FINISHED slot that has lasted longer than the limit is served a phantom slot (R191). -/
theorem gives_galleyPhantomSlot {s : State} {n k : Nat} {j : VeJob} {f : VeF} {at_ : Nat} (hup : CoreUp s n k)
    (hj : (coreAt s k).veJob = some j) (hf : veFields s j.cmd = some f) (hw : j.slots.length < slotsNeeded f)
    (hl : dget s kTokenStallLimit ≠ 0) (ht : j.since + dget s kTokenStallLimit < timeNs (atTime s at_)) (hg : (coreAt s k).galley = []) :
    Gives (.galleyPhantomSlot n at_) s (phantom k (atTime s at_) j) := by
  refine gives_of_whenUp hup.1 rfl ?_
  simp [keyOf_atTime, coreAt_atTime, veFields_atTime, hup.2, hj, hf, hw, hl, hg, Nat.not_le.2 ht]

/-- Settles O25: an MMA by its gather window, and each other row by what lets it go on. -/
theorem matrixAndGalleyRows : Obligations.MatrixAndGalleyRows := by
  refine ⟨⟨fun s e f h hf hc => ?mma, fun s e f h hf hc => ?mewma, fun p hp => ?skips⟩,
    fun s n k j f hup hj hb hf hh => ⟨fun g hl hg => ?takes, fun hl ht => ?ends⟩,
    fun s n k j hup hj hb hh hg => gives_galleySlotReserve hup hj hb (.inr ⟨hh, hg⟩),
    fun s n k j hup hj hb hg => hg ▸ gives_galleySlotReserve hup hj hb (.inl hg),
    fun s n k j at_ hup hj hb => gives_galleyStallRelease hup hj hb, fun s n k j f at_ => gives_galleyPhantomSlot⟩
  case mma =>
    have hop := op_of_head (ew := false) h
    have clear := meCheck_clear hop hc
    dsimp only
    refine ⟨fun hw => ?_, fun hw hg => ?_, fun g hw hg => ⟨fun bad => ?_, fun fits h0 => ?_, fun fits hm hn => ?_⟩⟩
    · exact gives_meRun isMeRow_mma h (meRun_windowless ((meWindow_mma hop).trans hw) hf clear)
    · exact gives_meRun isMeRow_mma h (meRun_unbound hop hw hg hf clear)
    · exact gives_meRun isMeRow_mma h (meRun_bound hop hw hg hf (o := some stIllegal) (bad ▸ meCheck_window hop))
    · exact gives_meRun isMeRow_mma h ((meRun_bound hop hw hg hf (o := none) (fits ▸ clear)).trans (if_pos h0))
    · exact gives_meRun isMeRow_mma h ((meRun_bound hop hw hg hf (o := none) (fits ▸ clear)).trans (if_neg (not_or.2 ⟨hm, hn⟩)))
  case mewma =>
    have hop := op_of_head (ew := true) h
    exact gives_meRun isMeRow_mewma h (meRun_windowless (meWindow_eq_zero hop nofun) hf (meCheck_clear hop hc))
  case skips =>
    simp only [List.mem_cons, List.not_mem_nil, or_false] at hp
    rcases hp with rfl | rfl
    · exact fun s e f h hw => skips_of_isMeRow isMeRow_mma h hw
    · exact fun s e f h hw => skips_of_isMeRow isMeRow_mewma h hw
  case takes => exact gives_gatherSegmentTake hup hh (gatherGo_takes hj hb hf 65536 hl hg)
  case ends => exact gives_gatherSegmentTake hup hh (gatherGo_ends hj hb hf 65536 hl ht)

end Sys2Proof.MatrixEngine
end

section
/-! SUPPORT. The family of chapter 06: the rows of the vector engine that never wait for galley slots, which are the table load and the
indexed moves. -/
namespace Sys2Proof.VectorEngine
open Sys2Proof Machine Config Safety Laws Scope CommandEncodings

/-! ### Taking a command from VQ (R126, R206) -/

/-- Row `i` takes the commands of opcode `op` at the head of VQ, and of the reserved opcodes, and does `run`. -/
def IsVqRow (i : Nat → Instr) (op : Nat) (run : Ex → State → State) : Prop :=
  ∀ n s, exec (i n) s = whenUp s (engineRow n .vq (fun x => isOp op x || 0x18 ≤ w0Op x.w0) veBusy run s)

theorem isVqRow_vlutload : IsVqRow .vlutload 0x0E lutLoad := fun _ _ => rfl
theorem isVqRow_vperm : IsVqRow .vperm 0x14 indexedRun := fun _ _ => rfl
theorem isVqRow_vgather : IsVqRow .vgather 0x15 indexedRun := fun _ _ => rfl
theorem isVqRow_vscatter : IsVqRow .vscatter 0x16 indexedRun := fun _ _ => rfl

/-- A row at the head of VQ gives what `run` makes of its command. -/
theorem gives_run {i : Nat → Instr} {op : Nat} {run : Ex → State → State} {s t : State} {e : Ex} (hi : IsVqRow i op run)
    (h : HeadAt .vq (isOp op) veBusy s e) (ht : run e (taken s e) = t) : Gives (i e.n) s t := by
  have ⟨_, _, _, _, _, _, own⟩ := h
  exact gives_of_whenUp h.1.1 (hi e.n s) ((engineRow_at h run (by rw [own, Bool.true_or])).trans ht)

/-! ### The checks that come before every access (R14, R206) -/

/-- `body` behind the checks of a VE command: a command that one stops is skipped, one of COUNT 0 ends OK. -/
def veChecked (body : Ex → State → VeF → State) (e : Ex) (s : State) : State :=
  match veFields s e.x with
  | none => exEnd e s stIllegal
  | some f =>
    match veCheck s e f with
    | some code => exEnd e s code
    | none => if f.cnt = 0 then exEnd e (dcount s kVeCommands 1) stOk else body e s f

theorem lutLoad_checked : ∃ body, lutLoad = veChecked body := ⟨_, rfl⟩
theorem indexedRun_checked : ∃ body, indexedRun = veChecked body := ⟨_, rfl⟩

/-- A row behind the checks skips where one stops its command, and ends one of COUNT 0. -/
theorem skips_and_empty {i : Nat → Instr} {op : Nat} {run : Ex → State → State} (hi : IsVqRow i op run)
    (hr : ∃ body, run = veChecked body) : VeSkips i (isOp op) ∧
    ∀ s e f, VeAt (isOp op) s e f → f.cnt = 0 → Gives (i e.n) s (exEnd e (dcount (taken s e) kVeCommands 1) stOk) := by
  obtain ⟨body, rfl⟩ := hr
  refine ⟨fun s e h => ⟨fun hf => gives_run hi h ?_, fun f code hf hc => gives_run hi h ?_⟩,
    fun s e f ⟨head, hf, hc⟩ h0 => gives_run hi head ?_⟩
  · simp only [veChecked, hf]
  · simp only [veChecked, veCheck, hf, hc]
  · simp only [veChecked, veCheck, hf, hc, if_pos h0]

/-! ### The table load (R222, R225, R426) -/

section
variable {s : State} {e : Ex} {f : VeF} (hf : veFields s e.x = some f) (hc : veCheck s e f = none) (h0 : f.cnt ≠ 0)
include hf hc h0

/-- A bad table is found when the header's tiles have been verified. -/
theorem lutLoad_bad (hb : lutBad (storeRead (coreAt s e.k) f.aA (256 + 4 * f.cnt)) (bitsOf f.imm 22 20 + 1) f.cnt = true) :
    lutLoad e s = exEnd e (verifyTiles s e.k (tilesOf f.aA 256)).1 stIllegal := by
  rw [veCheck] at hc
  simp only [lutLoad, hf, hc, if_neg h0, if_pos hb]

/-- A good one is put in the buffer, and its leaf in the colophon's program. -/
theorem lutLoad_good (hb : lutBad (storeRead (coreAt s e.k) f.aA (256 + 4 * f.cnt)) (bitsOf f.imm 22 20 + 1) f.cnt = false) :
    let bs := storeRead (coreAt s e.k) f.aA (256 + 4 * f.cnt)
    let hv := verifyTiles s e.k (tilesOf f.aA 256)
    let v := verifyTiles hv.1 e.k ((tilesOf f.aA (256 + 4 * f.cnt)).filter (fun q => !(tilesOf f.aA 256).contains q))
    let u := modCore v.1 e.k (fun c => { veStrips c f with lut := ⟨some (f.aA, bitsOf f.imm 22 20 + 1), worse hv.2 v.2 != 0, bs⟩ })
    lutLoad e s = exEnd e (dcount (dcount (contribute u (bindOf (coreAt u e.k)) (fun x => addProgLeaf x (sha384 (0x11 :: bs))))
      kVeLutLoads 1) kVeCommands 1) (worse hv.2 v.2) := by
  rw [veCheck] at hc
  simp only [lutLoad, hf, hc, if_neg h0, hb, if_neg Bool.false_ne_true]

end

/-! ### The two stages of an indexed move (R217) -/

/-- The address that an index counts from: the destination of VSCATTER, the source of the others. -/
def indexBase (f : VeF) : Nat := if f.op = 0x16 then f.dA else f.aA

/-- An index is out of range: VPERM's past COUNT, another's past the end of the core store. -/
def indexOut (c : Core) (f : VeF) : Bool :=
  (indices c f).any (fun j => if f.op = 0x14 then f.cnt ≤ j else 0x80000 < indexBase f + (j + 1) * (nfW f.s / 8))

/-- The range that the indices reach meets another extent of the command. -/
def indexMeets (c : Core) (f : VeF) : Bool :=
  (if f.op = 0x14 then [] else reach (indexBase f) (nfW f.s / 8) (indices c f)).any (fun r =>
    (if f.op = 0x15 then [(f.dA, nfBytes f.s f.cnt)] else [(f.aA, nfBytes f.s f.cnt), (f.bA, 4 * f.cnt)]).any (ovl r))

/-- The tiles of the index vector are verified first. -/
def indexTiles (e : Ex) (s : State) (f : VeF) : State × Nat := verifyTiles s e.k (tilesOf f.bA (4 * f.cnt))

/-- Then those of the operands: of A, or of each element that VGATHER reads. -/
def operandTiles (e : Ex) (s : State) (f : VeF) : State × Nat :=
  let read := ((idx (indices (coreAt s e.k) f)).filter (fun q => active (coreAt s e.k) f q.1)).map
    (fun q => (f.aA + q.2 * (nfW f.s / 8), nfW f.s / 8))
  verifyTiles (indexTiles e s f).1 e.k ((tilesOfRanges (veA f ++ (if f.op = 0x15 then read else []))).filter
    (fun q => !(tilesOf f.bA (4 * f.cnt)).contains q))

/-- What VSCATTER writes: element i of A at the place of index i. -/
def scattered (c : Core) (f : VeF) : VeOut :=
  let xs := getElems (nfW f.s) f.cnt (storeRead c f.aA (nfBytes f.s f.cnt))
  ⟨[], [], (((idx (indices c f)).zip xs).filter (fun p => active c f p.1.1)).map
    (fun p => (f.dA + p.1.2 * (nfW f.s / 8), leBytes (nfW f.s / 8) p.2))⟩

/-- The elements of A that the indices name. -/
def gathered (c : Core) (f : VeF) : List Nat :=
  (indices c f).map (fun j => leNat (storeRead c (f.aA + j * (nfW f.s / 8)) (nfW f.s / 8)))

/-- An index out of range ends BOUNDS, then an overlap that the indices bring is illegal; past both stages the elements move. -/
theorem indexedRun_passed {s : State} {e : Ex} {f : VeF} (hf : veFields s e.x = some f) (hc : veCheck s e f = none) (h0 : f.cnt ≠ 0) :
    indexedRun e s =
      if indexOut (coreAt s e.k) f = true then exEnd e (indexTiles e s f).1 stBounds
      else if indexMeets (coreAt s e.k) f = true then exEnd e (indexTiles e s f).1 stIllegal
      else veDeliver e.k (dcount (operandTiles e s f).1 kVeCommands 1) e.x f (worse (indexTiles e s f).2 (operandTiles e s f).2)
        (if f.op = 0x16 then scattered (coreAt s e.k) f
         else moveOut (dcount (operandTiles e s f).1 kVeCommands 1) (coreAt s e.k) f (gathered (coreAt s e.k) f)) := by
  rw [veCheck] at hc
  rw [apply_ite (veDeliver _ _ _ _ _)]
  simp only [indexedRun, hf, hc, if_neg h0]
  rfl

/-- What becomes of an indexed command that its checks pass, stage by stage. -/
theorem gives_indexed {i : Nat → Instr} {op : Nat} (hi : IsVqRow i op indexedRun) {s : State} {e : Ex} {f : VeF}
    (h : VeAt (isOp op) s e f) (h0 : f.cnt ≠ 0) :
    let t := taken s e
    let c := coreAt t e.k
    let u := dcount (operandTiles e t f).1 kVeCommands 1
    (indexOut c f = true → Gives (i e.n) s (exEnd e (indexTiles e t f).1 stBounds)) ∧
    (indexOut c f = false → indexMeets c f = true → Gives (i e.n) s (exEnd e (indexTiles e t f).1 stIllegal)) ∧
    (indexOut c f = false → indexMeets c f = false → Gives (i e.n) s
      (veDeliver e.k u e.x f (worse (indexTiles e t f).2 (operandTiles e t f).2)
        (if f.op = 0x16 then scattered c f else moveOut u c f (gathered c f)))) := by
  obtain ⟨head, hf, hc⟩ := h
  have run := indexedRun_passed hf hc h0
  refine ⟨fun ho => gives_run hi head (run.trans ?_), fun ho hm => gives_run hi head (run.trans ?_),
    fun ho hm => gives_run hi head (run.trans ?_)⟩
  · rw [if_pos ho]
  · rw [ho, if_neg Bool.false_ne_true, if_pos hm]
  · rw [ho, hm, if_neg Bool.false_ne_true, if_neg Bool.false_ne_true]

/-! The indices of VPERM and VGATHER name elements of A, those of VSCATTER places of D. -/

section
variable (c : Core) {f : VeF}

theorem indexOut_source (hop : f.op ≠ 0x16) : indexOut c f =
    (indices c f).any (fun j => if f.op = 0x14 then f.cnt ≤ j else 0x80000 < f.aA + (j + 1) * (nfW f.s / 8)) := by
  rw [indexOut, indexBase, if_neg hop]

theorem indexMeets_source (hop : f.op ≠ 0x16) : indexMeets c f =
    (if f.op = 0x14 then [] else reach f.aA (nfW f.s / 8) (indices c f)).any (fun r =>
      (if f.op = 0x15 then [(f.dA, nfBytes f.s f.cnt)] else [(f.aA, nfBytes f.s f.cnt), (f.bA, 4 * f.cnt)]).any (ovl r)) := by
  rw [indexMeets, indexBase, if_neg hop]

theorem indexOut_scatter (hop : f.op = 0x16) : indexOut c f =
    (indices c f).any (fun j => 0x80000 < f.dA + (j + 1) * (nfW f.s / 8)) := by
  simp [indexOut, indexBase, hop]

theorem indexMeets_scatter (hop : f.op = 0x16) : indexMeets c f =
    (reach f.dA (nfW f.s / 8) (indices c f)).any (fun r => [(f.aA, nfBytes f.s f.cnt), (f.bA, 4 * f.cnt)].any (ovl r)) := by
  simp [indexMeets, indexBase, hop]

end

theorem operandTiles_scatter (e : Ex) (s : State) {f : VeF} (hop : f.op = 0x16) : operandTiles e s f =
    verifyTiles (indexTiles e s f).1 e.k ((tilesOfRanges (veA f ++ [])).filter (fun q => !(tilesOf f.bA (4 * f.cnt)).contains q)) := by
  simp [operandTiles, hop]

/-- Settles O27: each row makes the checks of every VE command first; then a table is bad or is loaded, and an indexed command passes both
stages of R217 or ends in one. -/
theorem indexedVectorRows : Obligations.IndexedVectorRows := by
  refine ⟨?checks, fun s e f h h0 => ?table, fun p hp s e f h hop h0 => ?source, fun s e f h hop h0 => ?scatter⟩
  case checks =>
    simp only [List.forall_mem_cons, List.not_mem_nil, false_imp_iff, implies_true, and_true]
    exact ⟨skips_and_empty isVqRow_vlutload lutLoad_checked, skips_and_empty isVqRow_vperm indexedRun_checked,
      skips_and_empty isVqRow_vgather indexedRun_checked, skips_and_empty isVqRow_vscatter indexedRun_checked⟩
  case table =>
    obtain ⟨head, hf, hc⟩ := h
    exact ⟨fun bad => gives_run isVqRow_vlutload head (lutLoad_bad hf hc h0 bad),
      fun good => gives_run isVqRow_vlutload head (lutLoad_good hf hc h0 good)⟩
  case source =>
    have ⟨row, names_source⟩ : IsVqRow p.1 p.2 indexedRun ∧ p.2 ≠ 0x16 := by
      simp only [List.mem_cons, List.not_mem_nil, or_false] at hp
      rcases hp with rfl | rfl
      · exact ⟨isVqRow_vperm, by decide⟩
      · exact ⟨isVqRow_vgather, by decide⟩
    rw [← hop] at names_source
    have moves := gives_indexed row h h0
    simp only [indexOut_source _ names_source, indexMeets_source _ names_source, if_neg names_source] at moves
    exact moves
  case scatter =>
    have moves := gives_indexed isVqRow_vscatter h h0
    simp only [indexOut_scatter _ hop, indexMeets_scatter _ hop, operandTiles_scatter _ _ hop, if_pos hop] at moves
    exact moves

end Sys2Proof.VectorEngine
end

section
/-! SUPPORT. The family of chapter 07: the commands of the solver engines, the return of a reduction, and the course of a collective. -/
namespace Sys2Proof.SolverEngines
open Sys2Proof Machine Config Safety Laws Scope Sys2Proof.Composition MatrixEngine

/-! ### Taking a command from SQ (R237, R448) -/

/-- Row `i` takes the commands of opcode `op`, and then does `after`. -/
def IsSeRow (i : Nat → List Nat → Instr) (op : Nat) (after : State → State) : Prop :=
  ∀ e times s, exec (i e times) s = whenUp s (after (seRow op e times s))

/-- The rows of the solver engines: those whose solve may be joint send its partials up the tree. -/
def solverCommands : List ((Nat → List Nat → Instr) × Nat × (State → State)) :=
  [(.range, 1, solverUp), (.lu, 2, id), (.chol, 3, id), (.ldlt, 4, id), (.tridiag, 5, id), (.banded, 6, id), (.trsv, 7, id),
    (.cg, 8, solverUp), (.gmres, 9, solverUp)]

theorem isSeRow_of_mem : ∀ p ∈ solverCommands, IsSeRow p.1 p.2.1 p.2.2 ∧ p.2.1 ≠ 0 := by
  simp only [solverCommands, List.forall_mem_cons, List.not_mem_nil, false_imp_iff, implies_true, and_true, ne_eq,
    OfNat.ofNat_ne_zero, one_ne_zero, not_false_eq_true]
  exact ⟨fun _ _ _ => rfl, fun _ _ _ => rfl, fun _ _ _ => rfl, fun _ _ _ => rfl, fun _ _ _ => rfl, fun _ _ _ => rfl,
    fun _ _ _ => rfl, fun _ _ _ => rfl, fun _ _ _ => rfl⟩

/-- An engine that is free runs the head of the core that is next in turn. -/
theorem seRow_at {op e n k : Nat} {s : State} {x : Cmd} (h : SeHead op e s n k x) (hop : op ≠ 0) (times : List Nat) :
    seRow op e times s = seRun e n k x times (seTaken s e n k) := by
  obtain ⟨-, free, next, head, not_void, own⟩ := h
  cases hq : (coreAt s k).sq with
  | nil => simp [hq] at head
  | cons y rest =>
    simp only [hq, List.head?_cons, Option.some.injEq] at head
    subst head
    simp [seRow, free, next, hq, not_void, own, hop, seTaken]

/-- A row at its command gives what `seRun` makes of it. -/
theorem gives_seRun {i : Nat → List Nat → Instr} {op e n k : Nat} {after : State → State} {s t : State} {x : Cmd} {times : List Nat}
    (hi : IsSeRow i op after ∧ op ≠ 0) (h : SeHead op e s n k x) (ht : seRun e n k x times (seTaken s e n k) = t) :
    Gives (i e times) s (after t) :=
  gives_of_whenUp h.1 (hi.1 e times s) (congrArg after ((seRow_at h hi.2 times).trans ht))

theorem engines_dcount (s : State) (k n : Nat) : (dcount s k n).engines = s.engines := by
  rw [dcount]; split <;> rfl

theorem grade_dcount (s : State) (k n : Nat) : (dcount s k n).grade = s.grade := by
  rw [dcount]; split <;> rfl

theorem engineAt_setVstep (s : State) (d v e : Nat) : engineAt (setVstep s d v) e = engineAt s e := by
  rw [setVstep]; split
  · rfl
  · rw [engineAt, engines_dcount]; rfl

theorem grade_setVstep (s : State) (d v : Nat) : (setVstep s d v).grade = s.grade := by
  rw [setVstep]; split
  · rfl
  · rw [grade_dcount]; rfl

/-- Taking a command neither fuses the engine nor fails it. -/
theorem seLegal_seTaken (s : State) (e n k : Nat) (x : Cmd) : SeLegal e (seTaken s e n k) x ↔ SeLegal e s x := by
  have grade : (seTaken s e n k).grade = s.grade := grade_setVstep ..
  have failed : (engineAt (seTaken s e n k) e).failed = (engineAt s e).failed := by
    change (engineAt (setVstep _ _ _) e).failed = _
    rw [engineAt_setVstep, engineAt_modEngine]
    rfl
  rw [SeLegal, SeLegal, grade, failed]

/-! ### The checks of a command (R240, R244, R245) -/

section
variable {e n k : Nat} {x : Cmd} {times : List Nat} {s : State}

theorem seRun_illegal (h : seIllegal x = true) : seRun e n k x times s = retire s k 5 x stIllegal := by
  rw [seRun, if_pos h]

theorem seRun_fused (h : seIllegal x = false) (hl : ¬SeLegal e s x) : seRun e n k x times s = retire s k 5 x stFused := by
  have gone : (s.grade = 3 || (engineAt s e).failed) = true := by
    by_contra there
    simp only [Bool.or_eq_true, decide_eq_true_eq, not_or, Bool.not_eq_true] at there
    exact hl ⟨h, there⟩
  rw [seRun, if_neg (ne_true_of_eq_false h), if_pos gone]

/-- A legal command whose engine is there: one of no elements ends OK, any other meets the checks of its descriptor in their order. -/
theorem seRun_legal (h : SeLegal e s x) : seRun e n k x times s =
    let f0 := seFields x []
    let d := verifyTiles s k (tilesOfRanges [seDesc f0])
    let f := seFields x ((List.range 16).map (wAt (words64 (coreAt d.1 k) (seDesc f0))))
    let v := verifyNew d.1 k (tilesOfRanges [seDesc f0]) (seTable f)
    if f0.n = 0 ∨ f0.batch = 0 then retire (dcount s kSeCommands 1) k 5 x stOk
    else if inStore f0.aA 128 = false then retire s k 5 x stBounds
    else if seDescBad d.1 n x f = true then retire d.1 k 5 x stIllegal
    else if ([seScale f, seMat f, seFact f, seB f, seX f]).any (fun r => !inStore r.1 r.2) = true then retire d.1 k 5 x stBounds
    else if seScaleBad v.1 k f = true then retire v.1 k 5 x stIllegal
    else seExec e n k x f (tilesOfRanges (seDesc f0 :: seTable f)) (worse d.2 v.2) times (dcount v.1 kSeCommands 1) := by
  obtain ⟨legal, grade, not_failed⟩ := h
  simp only [seRun, legal, grade, not_failed, seTable, decide_false, Bool.or_self, Bool.false_eq_true, if_false, Bool.or_eq_true,
    decide_eq_true_eq, Bool.not_eq_true']
  rfl

end

/-! ### The return of a reduction (R260, R400, R403, R450) -/

/-- The reduction that an engine waits for returns once every member of this package has entered it. -/
theorem reductionReturn_at {e : Nat} {s : State} {j : SolveJob} (hj : (engineAt s e).job = some j) (hg : j.got = none)
    (hall : (collGroup s (j.jid / 256)).localCount ≤ (coMembers s j).length) (sums : List RedSum) (lapse : Nat) :
    reductionReturn e sums lapse s =
      let ms := coMembers s j
      let r := (ms.map (fun m => m.2.it.out), sums, lapse != 0 || ms.any (fun m => m.2.it.lapse))
      (ms.filter (fun m => timeNs s < m.2.since + dget s kCollTimeoutDefault)).foldl (fun u m =>
        if seHeld u m.1 = true then modEngine u m.1 (fun x => { x with job := some { m.2 with got := some r } })
        else jointReturn r u m) s := by
  simp [reductionReturn, hj, hg, Nat.not_lt.2 hall]

/-- Settles O28: each command by the first check that stops it, or by none; a reduction whose members have all entered returns. -/
theorem solverRows : Obligations.SolverRows := by
  refine ⟨fun p hp s e times n k x head => ?commands, fun s e sums lapse met at_ j hup hj hg hall => ?returns⟩
  case commands =>
    have row := isSeRow_of_mem p hp
    have legal_taken := seLegal_seTaken s e n k x
    have checks := fun legal => gives_seRun (times := times) row head (seRun_legal (legal_taken.2 legal))
    refine ⟨fun h => gives_seRun row head (seRun_illegal h), fun h hl => gives_seRun row head (seRun_fused h (mt legal_taken.1 hl)),
      fun hl h0 => ?empty, fun ⟨hl, hn, hb⟩ far => ?far, fun ⟨hl, hn, hb⟩ near bad => ?bad,
      fun ⟨hl, hn, hb⟩ near good => ⟨fun out => ?out, fun within scales => ?scales⟩,
      fun t ⟨_, hl, hn, hb, near, _, good, scales, within, ht⟩ => ?runs⟩
    case empty =>
      have none_of_them : (seFields x []).n = 0 ∨ (seFields x []).batch = 0 := by tauto
      simpa only [if_pos none_of_them] using checks hl
    all_goals
      have stages := checks hl
      dsimp only at stages
      rw [if_neg (not_or.2 ⟨hn, hb⟩)] at stages
    case far => rwa [if_pos far] at stages
    all_goals rw [if_neg (ne_false_of_eq_true near)] at stages
    case bad => rwa [if_pos bad] at stages
    all_goals rw [if_neg (ne_true_of_eq_false good)] at stages
    case out => rwa [if_pos out] at stages
    all_goals rw [if_neg (ne_true_of_eq_false within)] at stages
    case scales => rwa [if_pos scales] at stages
    case runs =>
      rw [if_neg (ne_true_of_eq_false scales)] at stages
      exact ht ▸ stages
  case returns =>
    exact gives_of_whenUp hup rfl (congrArg solverUp (reductionReturn_at hj hg hall sums lapse))

/-! ### Staging (R396) -/

/-- A reduction that waited for staging obtains it, and its wait is counted; reserving takes no time. -/
theorem gives_stagingReserved {s : State} {n k : Nat} {x : Cmd} {at_ : Nat} (hup : CoreUp s n k) (hx : (coreAt s k).collCmd = some x)
    (hw : (collAt s k).stage = 1) (hr : (collAt (reserveStaging (atTime s at_) k x) k).stage = 2) :
    Gives (.stagingReserved n at_) s (dcount (reserveStaging (atTime s at_) k x) kStagingWaitNs
      (timeNs (atTime s at_) - (collAt s k).waitFrom)) := by
  have same_time : timeNs (reserveStaging (atTime s at_) k x) = timeNs (atTime s at_) := by
    rw [reserveStaging]; split <;> rfl
  refine gives_of_whenUp hup.1 rfl ?_
  have waits : (collAt (atTime s at_) k).stage = 1 := hw
  simp only [keyOf_atTime, coreAt_atTime, hup.2, hx, waits, bne_self_eq_false, Bool.false_eq_true, if_false, hr, if_true, stagingWaited,
    same_time]
  rfl

/-! ### The entry round (R376, R382) -/

/-- The number of the oldest collective of a group that a local member has entered. -/
def oldestInst (s : State) (g : Nat) : Nat :=
  let at2 := running s g (fun c => c.stage == 2)
  at2.foldl (fun a m => min a (collAt s m.2.1).inst) ((at2.head?.map (fun m => (collAt s m.2.1).inst)).getD 0)

/-- The local members that have entered it. -/
def oldestMembers (s : State) (g : Nat) : List (Nat × Nat × Cmd) :=
  (running s g (fun c => c.stage == 2)).filter (fun m => (collAt s m.2.1).inst == oldestInst s g)

/-- The entry round of members that have all entered is a mismatch, or their data phase starts, or it waits for the memory. -/
theorem gives_entryRound {s : State} {g : Nat} {o : EntryRemote} {m : Nat × Nat × Cmd} {ms : List (Nat × Nat × Cmd)} (hup : s.up = true)
    (hms : oldestMembers s g = m :: ms) (hall : (collGroup s g).localCount ≤ (m :: ms).length)
    (ho : hasTree (collGroup s g) = true ∨ o.words = []) :
    let gr := collGroup s g
    let u := dcount ((m :: ms).foldl (fun s m => modColl s m.2.1 (fun c => { c with stage := 4 })) s) kCollMismatches 1
    Gives (.collEntryRoundResult g o) s
      (if entryMismatch s gr (w0Op m.2.2.w0) ((m :: ms).map (fun m => entryWords s gr m.1 m.2.2) ++ o.words.map (·.2)) = true then
        if gr.parent = 0xFFFF then acceptAbort u g (oldestInst s g) false (cqRec m.2.2 0x81 0xFFFFFFFF) else u
      else if (phaseReady s gr (m :: ms)).2 = true then
        collSettle (dataPhase (phaseReady s gr (m :: ms)).1 g (oldestInst s g) (m :: ms) m.2.2 o)
      else (phaseReady s gr (m :: ms)).1) := by
  have returns : ((m :: ms).length < (collGroup s g).localCount || (!hasTree (collGroup s g) && !o.words.isEmpty)) = false := by
    rcases ho with tree | alone
    · simpa [tree] using hall
    · simpa [alone] using hall
  rw [oldestMembers, oldestInst] at hms
  refine gives_of_whenUp hup rfl ?_
  simp only [hms, returns, Bool.false_eq_true, if_false]
  rfl

/-- A round that comes to a package with no member of its own is relayed. -/
theorem gives_relayRound {s : State} {g : Nat} {o : EntryRemote} (hup : s.up = true) (hn : running s g (fun c => c.stage == 2) = [])
    (hv : (collGroup s g).valid = true) (hl : (collGroup s g).localCount = 0) (ho : o.words ≠ []) :
    Gives (.collEntryRoundResult g o) s (relayRound s g o) := by
  refine gives_of_whenUp hup rfl ?_
  simp [hn, hv, hl, ho]

/-! ### Completion (R380, R397) -/

theorem collKnown_iff (s : State) (x : Cmd) (c : CollCtl) :
    collKnown s x c = true ↔ (c.known = true ∧ ∀ w ∈ c.wants, w ∈ c.segs) ∨ segsAll (collGroup s (qGroup x)) x c = true := by
  simp [collKnown]

/-- A member whose result is written is finished once its writes are acknowledged and none of them has failed. -/
def finishWritten (t : State) (n k : Nat) (x : Cmd) : State :=
  if (collAt t k).stage = 3 ∧ collWaits t k = false ∧ (collAt t k).lost = false then collFinish t n k x else t

section
variable {s u : State} {n k at_ : Nat} {x : Cmd} {met : Option (Nat × Flit)} (hup : s.up = true)
  (hu : collSettle (metAbort [] met (atTime s at_)) = u) (hk : keyOf u n = some k) (hx : (coreAt u k).collCmd = some x)
  (hs : (collAt u k).stage = 3) (ht : timeNs u < (collAt u k).taken + qTimeout u x) (hc : collKnown u x (collAt u k) = true)
  (hq : (collAt u k).sends = [])
include hup hu hk hx hs ht hc hq

theorem gives_collComplete_written (hw : (collAt u k).wrote = true) : Gives (.collComplete n ⟨met, at_⟩) s (finishWritten u n k x) := by
  refine gives_of_whenUp hup rfl ?_
  simp [hu, hk, hx, hs, ht, hc, hq, hw, finishWritten]

/-- A result that is not yet written is written when its lines can be accessed. -/
theorem gives_collComplete_unwritten (hw : (collAt u k).wrote = false) :
    let m := memReady u [] (resultRanges x (collAt u k)) (.coll k)
    Gives (.collComplete n ⟨met, at_⟩) s (if m.2 = true then finishWritten (collWrite m.1 n k x) n k x else m.1) := by
  refine gives_of_whenUp hup rfl ?_
  cases hr : (memReady u [] (resultRanges x (collAt u k)) (.coll k)).2 with
  | false => simp [hu, hk, hx, hs, ht, hc, hq, hw, hr]
  | true => simp [hu, hk, hx, hs, ht, hc, hq, hw, hr, finishWritten, and_assoc]

end

/-! ### Timeouts (R262, R400, R402) -/

theorem gives_collTimeoutExpiry {s u : State} {n k : Nat} {e : EndAt} (hup : s.up = true)
    (hu : metAbort [n] e.met (atTime s e.time) = u) (hk : keyOf u n = some k) :
    Gives (.collTimeoutExpiry n e) s (seExpire n (cqExpire n k u)) := by
  refine gives_of_whenUp hup rfl ?_
  subst hu
  simp only [hk]

/-- The timeout of a collective in progress has come: its member originates the abort. -/
theorem cqExpire_due {s : State} {n k : Nat} {x : Cmd} (hx : (coreAt s k).collCmd = some x) (hs : (collAt s k).stage ≠ 0)
    (ht : (collAt s k).taken + qTimeout s x ≤ timeNs s) :
    let r := cqRec x 0x80 (rankOf (collGroup s (qGroup x)) n)
    cqExpire n k s =
      originate (dcount (collAbortEnd s n k x r stCollTimeout) kCollTimeouts 1) (qGroup x) (collAt s k).inst false r := by
  simp [cqExpire, hx, hs, ht]

/-- The timeout of the reduction that a joint solve waits in has come: its member originates the abort. -/
theorem seExpire_due {s : State} {n : Nat} {j : SolveJob} (hj : (engineAt s (engineOf s n)).job = some j) (hn : j.n = n) (hi : j.jid ≠ 0)
    (hg : j.got = none) (ht : j.since + dget s kCollTimeoutDefault ≤ timeNs s) :
    let r := seRec j 0x80 (rankOf (collGroup s (j.jid / 256)) n)
    seExpire n s =
      originate (dcount (seAbortBy (engineOf s n) stCollTimeout r s) kCollTimeouts 1) (j.jid / 256) j.inst true r := by
  simp [seExpire, hj, hn, hi, hg, ht]

/-! ### The group table (R376) -/

theorem gives_collGroupValidSet {s : State} {g : Nat} (hup : s.up = true) (hg : g < 256) (v : Word) :
    Gives (.collGroupValidSet g v) s (groupSetValid s g (v.getLsbD 0)) :=
  gives_of_whenUp hup rfl (if_pos hg)

/-- Settles O31: each event of a collective where what it needs is there. -/
theorem collectiveCourseRows : Obligations.CollectiveCourseRows := by
  refine ⟨fun s n k x at_ hup hx => gives_stagingReserved hup hx, fun s g o m ms hup hms hall ho => ?entry,
    fun s g o hup hn hv hl ho => gives_relayRound hup hn hv hl ho,
    fun s n met at_ k x hup hk hx hs ht hc hq => ?complete,
    fun s n met at_ k hup hk => gives_collTimeoutExpiry hup.1 rfl hk,
    fun s n k x hx hs ht => cqExpire_due hx hs ht, fun s n j hj hn hi hg ht => seExpire_due hj hn hi hg ht,
    fun s g v hup hg => gives_collGroupValidSet hup hg v⟩
  case entry =>
    have round := gives_entryRound hup hms hall ho
    exact ⟨fun bad => gives_pos round bad, fun agree ready => gives_pos (gives_neg round (ne_true_of_eq_false agree)) ready,
      fun agree waits => gives_neg (gives_neg round (ne_true_of_eq_false agree)) (ne_true_of_eq_false waits)⟩
  case complete =>
    have known := (collKnown_iff ..).2 hc
    refine ⟨fun written drained kept => ?_, fun unwritten => ?_⟩
    · have ends := gives_collComplete_written hup.1 rfl hk hx hs ht known hq written
      rwa [finishWritten, if_pos ⟨hs, drained, kept⟩] at ends
    · have writes := gives_collComplete_unwritten hup.1 rfl hk hx hs ht known hq unwritten
      exact ⟨fun waits => gives_neg writes (ne_true_of_eq_false waits), fun ready => gives_pos writes ready⟩

end Sys2Proof.SolverEngines
end

section
/-! SUPPORT. The family of chapter 08: what a range of a byte memory reads after a write, and the bytes that an engine's write leaves in
the core stores. -/
namespace Sys2Proof.StoredBytes
open Sys2Proof Machine Config Safety Laws Scope ControlCore MatrixEngine

/-! ### What a range reads (R61) -/

/-- Cells that all lie above `a` leave the byte at `a` zero. -/
theorem memTake_of_above {l : List Host.Cell} {a : Nat} (h : ∀ e ∈ l, a < e.1) (n : Nat) :
    memTake (n + 1) a l = 0 :: memTake n (a + 1) l := by
  cases l with
  | nil => rfl
  | cons c l => exact if_neg (by have := h c List.mem_cons_self; omega)

/-- The cells of a write read as its bytes, whatever lies behind them. -/
theorem memTake_cellsOf {r : List Host.Cell} (bs : List Byte) {a : Nat} (hr : ∀ e ∈ r, a + bs.length ≤ e.1) :
    memTake bs.length a (cellsOf a bs ++ r) = bs := by
  induction bs generalizing a with
  | nil => rfl
  | cons b bs ih =>
    rw [List.length_cons] at hr
    have rest := ih (a := a + 1) fun e he => by have := hr e he; omega
    rw [List.length_cons, cellsOf]
    split
    · next zero =>
      rw [memTake_of_above, rest, zero]
      intro e he
      rcases List.mem_append.1 he with he | he
      · exact ((cellsOf_wf (a + 1) bs).1 e he).1
      · have := hr e he
        omega
    · rw [List.cons_append, memTake, if_pos rfl, rest]

/-- A range read of cells that rise from its start, byte by byte. -/
theorem memTake_eq_map {l : List Host.Cell} (hp : l.Pairwise (fun x y => x.1 < y.1)) (n a : Nat) (ha : ∀ e ∈ l, a ≤ e.1) :
    memTake n a l = (List.range n).map (fun i => memGet l (a + i)) := by
  induction n generalizing a l with
  | zero => rfl
  | succ n ih =>
    have bytes : (List.range (n + 1)).map (fun i => memGet l (a + i)) =
        memGet l a :: (List.range n).map (fun i => memGet l (a + 1 + i)) := by
      simp [List.range_succ_eq_map, Nat.add_comm, Nat.add_left_comm]
    rw [bytes]
    by_cases here : ∃ b r, l = (a, b) :: r
    · obtain ⟨b, r, rfl⟩ := here
      obtain ⟨above, rising⟩ := List.pairwise_cons.1 hp
      rw [memTake, if_pos rfl, ih rising (a + 1) above]
      refine congrArg₂ _ (by simp [memGet, tblGet]) (List.map_congr_left fun i _ => ?_)
      rw [memGet, memGet, tblGet, if_neg (by omega)]
    · have gap : ∀ e ∈ l, a < e.1 := by
        cases l with
        | nil => simp
        | cons c r =>
          obtain ⟨k, b⟩ := c
          have first : a ≤ k := ha (k, b) List.mem_cons_self
          have second : k ≠ a := fun h => here ⟨b, r, h ▸ rfl⟩
          refine List.forall_mem_cons.2 ⟨by dsimp only; omega, fun e he => ?_⟩
          have : k < e.1 := (List.pairwise_cons.1 hp).1 e he
          omega
      rw [memTake_of_above gap, ih hp (a + 1) gap, memGet, tblGet_of_ne _ _ _ fun e he => by have := gap e he; omega]
      rfl

/-- What a read from `a` begins with: the cells of a canonical memory at and above `a`. -/
theorem dropWhile_below {m : List Host.Cell} (hp : m.Pairwise (fun x y => x.1 < y.1)) (a : Nat) :
    (∀ e ∈ m.dropWhile (fun c => c.1 < a), a ≤ e.1) ∧ ∀ j, a ≤ j → memGet (m.dropWhile (fun c => c.1 < a)) j = memGet m j := by
  induction m with
  | nil => simp
  | cons c m ih =>
    obtain ⟨k, b⟩ := c
    obtain ⟨above, rising⟩ := List.pairwise_cons.1 hp
    by_cases low : k < a
    · rw [List.dropWhile_cons_of_pos (by simpa using low)]
      refine ⟨(ih rising).1, fun j hj => ((ih rising).2 j hj).trans ?_⟩
      rw [memGet, memGet, tblGet, if_neg (by omega)]
    · rw [List.dropWhile_cons_of_neg (by simpa using low)]
      refine ⟨List.forall_mem_cons.2 ⟨by dsimp only; omega, fun e he => ?_⟩, fun j _ => rfl⟩
      have : k < e.1 := above e he
      omega

/-- A range of a canonical memory reads as its bytes one by one. -/
theorem memRead_eq_map {m : List Host.Cell} (h : memWf m = true) (a n : Nat) :
    memRead m a n = (List.range n).map (fun i => memGet m (a + i)) := by
  have rising := ((tblWf_iff _ m).1 h).2
  obtain ⟨from_a, same⟩ := dropWhile_below rising a
  rw [memRead, memTake_eq_map (rising.sublist (List.dropWhile_sublist _)) n a from_a]
  exact List.map_congr_left fun i _ => same _ (Nat.le_add_right a i)

/-- A range that is read after its write holds what was written. -/
theorem memRead_memWrite_same (m : List Host.Cell) (a : Nat) (bs : List Byte) : memRead (memWrite m a bs) a bs.length = bs := by
  have behind : ∀ e ∈ m.filter (fun c => decide (a + bs.length ≤ c.1)), a + bs.length ≤ e.1 := fun e he => by
    simpa using (List.mem_filter.1 he).2
  have below : ∀ e ∈ m.filter (fun c => decide (c.1 < a)), decide (e.1 < a) = true := fun e he => (List.mem_filter.1 he).2
  have at_a : ∀ e ∈ cellsOf a bs ++ m.filter (fun c => decide (a + bs.length ≤ c.1)), a ≤ e.1 := fun e he => by
    rcases List.mem_append.1 he with he | he
    · exact ((cellsOf_wf a bs).1 e he).1
    · exact Nat.le_of_add_right_le (behind e he)
  rw [memRead, memWrite, List.append_assoc, List.dropWhile_append_of_pos below, List.dropWhile_eq_self_iff.2]
  · exact memTake_cellsOf bs behind
  · intro some_left
    simpa using at_a _ (List.getElem_mem some_left)

/-- A range outside of a write reads as before. -/
theorem memRead_memWrite_other {m : List Host.Cell} (hm : memWf m = true) {a b n : Nat} {bs : List Byte}
    (h : b + n ≤ a ∨ a + bs.length ≤ b) : memRead (memWrite m a bs) b n = memRead m b n := by
  rw [memRead_eq_map (memWrite_wf m a bs hm), memRead_eq_map hm]
  refine List.map_congr_left fun i hi => memGet_memWrite_other m a (b + i) bs ?_
  have := List.mem_range.1 hi
  omega

/-- Settles O54: a write's own cells stand first at its address, and elsewhere every byte is as before. -/
theorem memoryReadAfterWrite : Obligations.MemoryReadAfterWrite := fun m a bs =>
  ⟨memRead_memWrite_same m a bs, fun _ _ h hm => memRead_memWrite_other hm h⟩

/-! ### An engine's write (R275) -/

theorem storeByte_engineWrite_same (s : State) (k a : Nat) {bs : List Byte} {i : Nat} (hi : i < bs.length) :
    storeByte (engineWrite s k a bs) k (a + i) = bs.getD i 0 := by
  rw [engineWrite, (bytes_of_storage (storage_engineWrites s k [(a, bs)])).2, storeByte, coreAt_modCore]
  exact memGet_storeWrite_same _ a hi

theorem storeByte_engineWrite_other (s : State) {k a j b : Nat} {bs : List Byte} (h : ¬(j = k ∧ a ≤ b ∧ b < a + bs.length)) :
    storeByte (engineWrite s k a bs) j b = storeByte s j b :=
  storeByte_engineWrites_other s k [(a, bs)] (by simpa using h)

/-- Settles O55: an engine's write is one write of the CC's, which changes its own bytes alone. -/
theorem engineWriteBytes : Obligations.EngineWriteBytes := fun s k a bs =>
  ⟨fun _ hi => storeByte_engineWrite_same s k a hi, fun _ _ h => storeByte_engineWrite_other s h, mem_engineWrites s k [(a, bs)]⟩

end Sys2Proof.StoredBytes
end

section
/-! SUPPORT. The DMA engines: the take of a descriptor from DQ or from a chain, its start by opcode, its end, and the stop of a DE. -/
namespace Sys2Proof.DmaEngines
open Sys2Proof Machine Config Safety Laws Scope Sys2Proof.Composition CommandEncodings

/-! ### Taking a descriptor (R309, R310) -/

/-- Row `i` takes the descriptors `mine`. -/
def IsDqRow (i : Nat → Instr) (mine : Cmd → Bool) : Prop := ∀ n s, exec (i n) s = whenUp s (deRow n mine s)

theorem isDqRow_of_mem : ∀ p ∈ deTable, IsDqRow p.1 p.2 := by
  simp only [deTable, List.forall_mem_cons, List.not_mem_nil, false_imp_iff, implies_true, and_true]
  and_intros <;> exact fun _ _ => rfl

section
variable {s : State} {k : Nat}

/-- Nothing of a chain is read while none is open. -/
theorem chainRead_closed (h : (deAt s k).chain = none) : chainRead s k = s := by
  have one_more (fuel : Nat) : chainGo (fuel + 1) k s = s := by simp only [chainGo, h]
  exact one_more 65539

/-- Nothing more of a chain is read while an entry waits. -/
theorem chainRead_waiting {ch : ChainSt} {x : Cmd} (h : (deAt s k).chain = some ch) (hx : ch.entry = some x) : chainRead s k = s := by
  have one_more (fuel : Nat) : chainGo (fuel + 1) k s = s := by simp [chainGo, h, hx]
  exact one_more 65539

end

section
variable {i : Nat → Instr} {mine : Cmd → Bool} {s t : State}

/-- A row at a head of DQ that the DE takes gives what the start of the descriptor makes. -/
theorem gives_head {e : Ex} (hi : IsDqRow i mine) (h : DqAt mine s e) (ht : deStart (taken s e) e.n e.k e.x none = t) :
    Gives (i e.n) s t := by
  obtain ⟨job, stop, chain, head⟩ := h
  have ⟨⟨up, key⟩, _, _, _, _, free, own⟩ := head
  have prepared : dqPrep s e.k mine = s := by
    unfold dqPrep
    dsimp only
    split
    · rw [free, Bool.and_false, if_neg Bool.false_ne_true]
    · rfl
  refine gives_of_whenUp up (hi e.n s) (Eq.trans ?_ ht)
  simp only [deRow, key, chainRead_closed chain, job, stop, chain, Option.isSome_none, Bool.or_self, Bool.false_eq_true, if_false,
    prepared]
  exact engineRow_at head _ own

/-- So does a row at an entry of a chain that can be executed. -/
theorem gives_entry {n k : Nat} {ch : ChainSt} {x : Cmd} (hi : IsDqRow i mine) (h : CoreUp s n k) (hj : (deAt s k).job = none)
    (hs : (deAt s k).stop = false) (hc : (deAt s k).chain = some ch) (hx : ch.entry = some x) (hm : mine x = true)
    (hr : (deReady s k x).2 = true) : Gives (i n) s
      (deStart (modDe s k (fun d => { d with chain := some { ch with entry := none } })) n k x (some (ch.count - 1))) := by
  refine gives_of_whenUp h.1 (hi n s) ?_
  simp [deRow, h.2, chainRead_waiting hc hx, hj, hs, hc, hx, hm, hr]

end

/-! ### The start of a descriptor (R309, R314, R315) -/

/-- The descriptor in execution, with the clusters of its places awake (R441). -/
def begun (s : State) (k : Nat) (x : Cmd) (c : Option Nat) (src dst : Loc) : State :=
  wakeLoc (wakeLoc (modDe s k (fun d => { d with job := some { x := x, cidx := c, takenAt := timeNs s } })) src) dst

theorem timeNs_wakeLoc (s : State) (l : Loc) : timeNs (wakeLoc s l) = timeNs s := by
  cases l with
  | store k _ => exact timeNs_dcount s _ _
  | _ => rfl

theorem timeNs_begun (s : State) (k : Nat) (x : Cmd) (c : Option Nat) (src dst : Loc) : timeNs (begun s k x c src dst) = timeNs s :=
  (timeNs_wakeLoc _ dst).trans (timeNs_wakeLoc _ src)

section
variable {s : State} {n k : Nat} {x : Cmd} {c : Option Nat}

theorem deStart_skipped {st : Nat} (h : dSkip s k x = some st) : deStart s n k x c = deSkip s k x c st := by
  simp only [deStart, h]

variable (hs : dSkip s k x = none)
include hs

/-- A LENGTH of 0 makes no access (R315). -/
theorem deStart_empty (he : dEmpty x = true) : deStart s n k x c =
    modJob (dcount (modDe s k (fun d => { d with job := some { x := x, cidx := c, takenAt := timeNs s } }))
      kNmuOperations (if w0Op x.w0 = 3 then 1 else 0)) k (fun j =>
        { j with writing := true, amax := if w0Op x.w0 = 3 ∧ dNmu x = 4 then some 0 else none }) := by
  simp only [deStart, hs, he, if_true, b2n, beq_iff_eq, Bool.and_eq_true]

variable (he : dEmpty x = false)
include he

/-- A FENCE has nothing to wait for (R320, log entry 50). -/
theorem deStart_fence (hop : w0Op x.w0 = 5) : deStart s n k x c =
    modJob (modDe s k (fun d => { d with job := some { x := x, cidx := c, takenAt := timeNs s } })) k (fun j => { j with writing := true }) := by
  simp only [deStart, hs, he, hop, Bool.false_eq_true, if_false, if_true]

variable {src dst : Loc} (hl : dLocs s k x = some (src, dst))
include hl

theorem deStart_copy (hop : w0Op x.w0 = 1 ∨ w0Op x.w0 = 2) : deStart s n k x c = startCopy (begun s k x c src dst) k x src := by
  rcases hop with hop | hop <;> simp [deStart, hs, he, hl, hop, begun]

/-- A near-memory operation whose index check fails is skipped after all (R298). -/
theorem deStart_nmu (hop : w0Op x.w0 = 3) : deStart s n k x c =
    (startNmu (begun s k x c src dst) n k x src dst).elim id
      (fun v => deSkip (modDe v k (fun d => { d with job := none })) k x c stBounds) := by
  simp only [deStart, hs, he, hl, hop, begun, Bool.false_eq_true, if_false, Nat.reduceEqDiff]
  cases startNmu _ n k x src dst <;> rfl

theorem deStart_chain (hop : w0Op x.w0 = 4) : deStart s n k x c = chainRead (modDe (begun s k x c src dst) k (fun d =>
    { d with job := none, chain := some { x := x, loc := dSrcL x, at_ := dSrc x, takenAt := timeNs (begun s k x c src dst) } })) k := by
  rw [timeNs_begun]
  simp [deStart, hs, he, hl, hop, begun]

theorem deStart_atomic (hop : w0Op x.w0 = 6) : deStart s n k x c = startAtomic (begun s k x c src dst) n k x dst := by
  simp [deStart, hs, he, hl, hop, begun]

end

/-- A row of DQ does what the start of its descriptors does. -/
theorem deDoes_of_isDqRow {i : Nat → Instr} {mine : Cmd → Bool} {op : Nat} {go : State → Ex → Loc → Loc → State → Prop}
    (hi : IsDqRow i mine)
    (hgo : ∀ (s : State) (e : Ex) (src dst : Loc) (t : State), w0Op e.x.w0 = op → dSkip s e.k e.x = none → dEmpty e.x = false →
      dLocs s e.k e.x = some (src, dst) → go (begun s e.k e.x none src dst) e src dst t → deStart s e.n e.k e.x none = t) :
    DeDoes i mine op go := by
  refine fun s e h hop => ⟨fun st hs => gives_head hi h (deStart_skipped hs), fun hs => ⟨fun he => gives_head hi h ?_, ?_⟩⟩
  · rw [deStart_empty hs he, hop]
    rfl
  · exact fun src dst t he hl ht => gives_head hi h (hgo _ e src dst t hop hs he hl ht)

theorem deDoes_copy {i : Nat → Instr} {op : Nat} (hop : op = 1 ∨ op = 2) (hi : IsDqRow i (deMine op)) :
    DeDoes i (deMine op) op (fun u e src _ t => t = startCopy u e.k e.x src) :=
  deDoes_of_isDqRow hi fun _ _ _ _ _ h hs he hl ht => (deStart_copy hs he hl (h ▸ hop)).trans ht.symm

theorem deDoes_nmu {i : Nat → Instr} {m : Nat} (hi : IsDqRow i (nmuMine m)) :
    DeDoes i (nmuMine m) 3 (fun u e src dst t => startNmu u e.n e.k e.x src dst = .inl t ∨
      ∃ v, startNmu u e.n e.k e.x src dst = .inr v ∧ t = deSkip (modDe v e.k (fun d => { d with job := none })) e.k e.x none stBounds) := by
  refine deDoes_of_isDqRow hi fun _ _ _ _ _ h hs he hl ht => (deStart_nmu hs he hl h).trans ?_
  obtain started | ⟨v, refused, rfl⟩ := ht
  · rw [started]
    rfl
  · rw [refused]
    rfl

theorem deDoes_atomic {i : Nat → Instr} {m : Nat} (hi : IsDqRow i (aopMine m)) :
    DeDoes i (aopMine m) 6 (fun u e _ dst t => t = startAtomic u e.n e.k e.x dst) :=
  deDoes_of_isDqRow hi fun _ _ _ _ _ h hs he hl ht => (deStart_atomic hs he hl h).trans ht.symm

/-! ### The end of a descriptor, and the stop of a DE (R316, R318, R322) -/

section
variable {s : State} {n k : Nat} (h : CoreUp s n k)
include h

theorem gives_complete {j : DeJob} (hj : (deAt s k).job = some j) : Gives (.deDescriptorComplete n) s
    (if j.writing = false then deNext s k else if deBusyNow s k = false then deFinish s k j else s) := by
  refine gives_of_whenUp h.1 rfl ?_
  simp [h.2, hj]

theorem gives_deStop (v : Word) : Gives (.deStop n v) s
    (touchMod s k (fun c => settle (timeNs s) { c with de := deStopWrite c.de (v.getLsbD 0) })) := by
  refine gives_of_whenUp h.1 rfl ?_
  simp only [h.2]

/-- At a descriptor boundary a stop that was requested takes effect. -/
theorem gives_deStopped (hs : (deAt s k).stop = true) (hj : (deAt s k).job = none) :
    Gives (.deStopped n) s (modCore s k (fun c => { c with de := { c.de with stopped := true } })) := by
  have stop : (coreAt s k).de.stop = true := hs
  have job : (coreAt s k).de.job = none := hj
  refine gives_of_whenUp h.1 rfl ?_
  simp [h.2, modCore, stop, job]

end

/-- Settles O29: each row takes its descriptor, whose start goes by the checks and the opcode. -/
theorem dmaDescriptors : Obligations.DmaDescriptors := by
  refine ⟨⟨deDoes_copy (.inl rfl) fun _ _ => rfl, deDoes_copy (.inr rfl) fun _ _ => rfl, ?nmu, ?chain, ?atomic, ?entry, ?fence_skipped, ?fence⟩,
    ?complete, fun s n k v h hv => ?stop, fun s n k v h hv => ?go_on, fun s n k h hs hj => gives_deStopped h hs hj⟩
  case nmu =>
    simp only [List.forall_mem_cons, List.not_mem_nil, false_imp_iff, implies_true, and_true]
    exact ⟨deDoes_nmu fun _ _ => rfl, deDoes_nmu fun _ _ => rfl, deDoes_nmu fun _ _ => rfl, deDoes_nmu fun _ _ => rfl,
      deDoes_nmu fun _ _ => rfl⟩
  case chain =>
    exact deDoes_of_isDqRow (fun _ _ => rfl) fun _ _ _ _ _ h hs he hl ht => (deStart_chain hs he hl h).trans ht.symm
  case atomic =>
    simp only [List.forall_mem_cons, List.not_mem_nil, false_imp_iff, implies_true, and_true]
    exact ⟨deDoes_atomic fun _ _ => rfl, deDoes_atomic fun _ _ => rfl, deDoes_atomic fun _ _ => rfl, deDoes_atomic fun _ _ => rfl,
      deDoes_atomic fun _ _ => rfl, deDoes_atomic fun _ _ => rfl⟩
  case entry => exact fun p hp s n k ch x h hj hs hc hx hm hr => gives_entry (isDqRow_of_mem p hp) h hj hs hc hx hm hr
  case fence_skipped => exact fun s e st h _ hs => gives_head (fun _ _ => rfl) h (deStart_skipped hs)
  case fence => exact fun s e h hop hs he => gives_head (fun _ _ => rfl) h (deStart_fence hs he hop)
  case complete =>
    refine fun s n k j h hj => ⟨fun hw hb => ?_, fun hw => gives_pos (gives_complete h hj) hw⟩
    exact gives_pos (gives_neg (gives_complete h hj) (ne_false_of_eq_true hw)) hb
  case stop =>
    have row := gives_deStop h v
    rwa [hv] at row
  case go_on =>
    have row := gives_deStop h v
    rwa [hv] at row

end Sys2Proof.DmaEngines
end

section
/-! SUPPORT. Stack memory: scrub, training and clearing, the atomics at an NMU, and the writes that wait for a line. -/
namespace Sys2Proof.Stacks
open Sys2Proof Machine Config Safety Laws Scope Sys2Proof.Composition

/-! ### Scrub, retraining and clearing (R282, R283, R293) -/

theorem retrainPhase_iff (s : State) : retrainPhase s = true ↔ phase s = phIdle ∨ phase s = phTest ∨ phase s = phRecovery := by
  simp [retrainPhase, or_assoc]

section
variable {s : State} (hup : s.up = true)
include hup

theorem gives_scrubRead {line : Nat} (hi : dget s kScrubInterval ≠ 0) (hl : 128 * line < 2 ^ 40)
    (hf : stackFree s (stackOf s (128 * line)) = true) : Gives (.scrubRead line) s (lineRead s (128 * line)).1 := by
  have in_stack : ¬2 ^ 40 ≤ 128 * line := Nat.not_le_of_lt hl
  refine gives_of_whenUp hup rfl (if_neg ?_)
  simp only [hi, hf, in_stack, decide_false, Bool.not_true, Bool.or_self, Bool.false_eq_true, not_false_eq_true]

section
variable (ho : dictOpen s = true) (v : BitVec 16)
include ho

theorem gives_stackRetrain (hp : retrainPhase s = true) : Gives (.stackRetrain v) s (stackRetrain s v.toNat) :=
  gives_of_whenUp hup rfl ((dictWrite_open ho _ _ _).trans (if_pos hp))

theorem stackRetrain_refused (hp : ¬retrainPhase s = true) : exec (.stackRetrain v) s = .next s :=
  exec_unchanged hup rfl ((dictWrite_open ho _ _ _).trans (if_neg hp))

theorem gives_stackClear (hp : phase s = phIdle) : Gives (.stackClear v) s (stackClear s v.toNat) :=
  gives_of_whenUp hup rfl ((dictWrite_open ho _ _ _).trans (if_pos hp))

theorem stackClear_refused (hp : phase s ≠ phIdle) : exec (.stackClear v) s = .next s :=
  exec_unchanged hup rfl ((dictWrite_open ho _ _ _).trans (if_neg hp))

end

end

/-! ### The ends of the work on a stack (R283, R289, R293) -/

theorem trainingEnds_at {s : State} {st w : Nat} {ws : List Nat} (h : workOf s st = w :: ws) (o : StackEyes) :
    trainingEnds w st o s = drainIngress (setWork (stackTrained s st o) st ws) := by
  simp only [trainingEnds, h, if_true]

theorem zeroingEnds_at {s : State} {st w : Nat} {ws : List Nat} (h : workOf s st = w :: ws) :
    zeroingEnds w st s = drainIngress (setWork (zeroStack s st) st ws) := by
  simp only [zeroingEnds, h, if_true]

/-! ### Atomics and held writes (R302, R303, R353, R361) -/

section
variable {s : State} (hup : s.up = true)
include hup

/-- The first atomic that can go on at the NMU of a stack: too old it is dropped, otherwise it is applied once its line can be had. -/
theorem gives_nmuAtomicApply {st : Nat} {q : AtomicOp}
    (hq : (heldCow s).atomics.find? (fun q => q.st == st && (atomicOld (heldCow s) q || atomicFree (heldCow s) q)) = some q) :
    let t := heldCow s
    let m := memReady t [] [(q.addr / 128 * 128, 128)] q.who
    let r := atomicApply (atomicGone m.1 q) q (atomicFrom m.1 q.who)
    Gives (.nmuAtomicApply st) s (if atomicOld t q = true then drainIngress (atomicDrop t q)
      else if m.2 = false then m.1 else drainIngress (atomicGive r.1 q r.2.1 r.2.2)) := by
  refine gives_of_whenUp hup rfl ?_
  simp only [hq, Bool.not_eq_true']

/-- The first held write that may go on: a write-back at once, another write once its line can be had. -/
theorem gives_cowHeldWriteRelease {h : HeldWrite} (hn : heldNext s [] s.held = some h) :
    let m := memReady s [] [(h.line, 128)] h.who
    Gives .cowHeldWriteRelease s
      (if h.back = true then heldProceeds s h else if m.2 = true then heldProceeds m.1 h else m.1) := by
  refine gives_of_whenUp hup rfl ?_
  cases hb : h.back <;> simp [hn, hb]

end

/-- Settles O32: what each event at a stack does where its condition holds. -/
theorem stackRows : Obligations.StackRows := by
  refine fun s hup => ⟨fun line hi hl hf => gives_scrubRead hup hi hl hf, fun v => ?writes,
    fun st o w h => gives_of_whenUp hup rfl (trainingEnds_at h o), fun st o w h => gives_of_whenUp hup rfl (trainingEnds_at h o),
    fun st w h => gives_of_whenUp hup rfl (zeroingEnds_at h), fun st w h => gives_of_whenUp hup rfl (zeroingEnds_at h),
    fun st q hq => ?atomic, fun h hn => ?held⟩
  case writes =>
    exact ⟨fun ho hp => gives_stackRetrain hup ho v ((retrainPhase_iff s).2 hp), fun ho hp => gives_stackClear hup ho v hp,
      fun ho hp => stackRetrain_refused hup ho v (mt (retrainPhase_iff s).1 hp), fun ho hp => stackClear_refused hup ho v hp,
      fun ho => ⟨gives_of_whenUp hup rfl (dictWrite_shut ho _ _ _), gives_of_whenUp hup rfl (dictWrite_shut ho _ _ _)⟩⟩
  case atomic =>
    have row := gives_nmuAtomicApply hup hq
    exact ⟨fun old => gives_pos row old, fun new waits => gives_pos (gives_neg row (ne_true_of_eq_false new)) waits,
      fun new ready => gives_neg (gives_neg row (ne_true_of_eq_false new)) (ne_false_of_eq_true ready)⟩
  case held =>
    have row := gives_cowHeldWriteRelease hup hn
    exact ⟨fun back => gives_pos row back, fun write => gives_neg row (ne_true_of_eq_false write)⟩

end Sys2Proof.Stacks
end

section
/-! SUPPORT. The snapshot block: what leaves it as it is, and the rows of a snapshot and of a restore. -/
namespace Sys2Proof.Snapshots
open Sys2Proof Machine Config Safety Laws Scope Sys2Proof.Composition

/-! ### What leaves the snapshot block as it is

Accesses to stack memory, with their checks, the flits of their snoops and the errors that they meet, count, log and mark, but change
nothing of the generation that is being taken or restored. Where a proof forgets what an intermediate state is (`clear_value`,
`generalize`), its next step would otherwise compare whole states field by field. -/

section
variable (s : State)

/-! Single fields, and the small updates of an access. -/

theorem snap_setMem (m : List Host.Cell) : State.snap { s with mem := m } = s.snap := rfl
theorem snap_setSnoops (l : List Snoop) : State.snap { s with snoops := l } = s.snap := rfl
theorem snap_setMark (la : Nat) (b : Bool) : (setMark s la b).snap = s.snap := rfl
theorem snap_eccFresh (la : Nat) (cws : List Nat) : (eccFresh s la cws).snap = s.snap := rfl
theorem snap_hdieDrop (pl : Nat) : (hdieDrop s pl).snap = s.snap := rfl
theorem snap_hdieMod (pl : Nat) (f : HLine → HLine) : (hdieMod s pl f).snap = s.snap := rfl
theorem snap_freeBytes (n : Nat) : (freeBytes s n).1.snap = s.snap := rfl
theorem snap_nextTag (fd : Nat) : (nextTag s fd).2.snap = s.snap := rfl

/-! Counts and errors (R98, R463–R465). -/

@[simp] theorem snap_dcount (k n : Nat) : (dcount s k n).snap = s.snap := by
  unfold dcount; split <;> rfl

@[simp] theorem snap_errEntry (cls unit detail outcome : Nat) : (errEntry s cls unit detail outcome).snap = s.snap := by
  unfold errEntry; dsimp only; split <;> simp

@[simp] theorem snap_detect (cls unit detail : Nat) (u : ProofUnit) : (detect s cls unit detail u).snap = s.snap := by
  unfold detect; split <;> simp

/-! Links between dies, and the ports (R340, R344, R371, R460). -/

@[simp] theorem snap_linkTry (l : Nat) : (linkTry s l).1.snap = s.snap := by
  unfold linkTry
  split
  next kind rem _ =>
    split
    · rfl
    · extract_lets miss d s1 s2
      have h : s2.snap = s.snap := (foldl_keeps (g := State.snap) (fun s _ => snap_detect s _ _ _ _) _ _).trans (snap_dcount s1 _ _)
      split <;> simp [h]

@[simp] theorem snap_routeTry (ls : List Nat) : (routeTry s ls).1.snap = s.snap := by
  unfold routeTry
  split
  · rfl
  · refine foldl_keeps (g := fun x : State × Nat => x.1.snap) (fun x l => ?_) ls (s, 0)
    split <;> simp

@[simp] theorem snap_dieTry (who : Owner) (d : Nat) : (dieTry s who d).1.snap = s.snap := by
  unfold dieTry; split <;> simp

@[simp] theorem snap_bufferCheck (p v : Nat) : (bufferCheck s p v).1.snap = s.snap := by
  unfold bufferCheck; split <;> simp

@[simp] theorem snap_toEgress (fd p : Nat) (f : Flit) : (toEgress s fd p f).1.snap = s.snap := by
  unfold toEgress
  extract_lets x
  have h : x.1.snap = s.snap := by unfold x; split <;> simp
  split <;> simp [h]

@[simp] theorem snap_inputFree (inp : Option Nat) (f : Flit) : (inputFree s inp f).snap = s.snap := by
  cases inp <;> rfl

@[simp] theorem snap_leave (fd p : Nat) (f : Flit) (inp : Option Nat) : (leave s fd p f inp).snap = s.snap := by
  unfold leave
  rw [snap_inputFree]
  split <;> exact snap_toEgress s fd p f

@[simp] theorem snap_stallSettle : (stallSettle s).snap = s.snap :=
  foldl_keeps (g := State.snap) (fun s k => by dsimp only; split <;> simp) [1, 2, 3, 5, 6, 7] s

@[simp] theorem snap_emit (f : Flit) (fd : Nat) (inp : Option Nat) : (emit s f fd inp).1.snap = s.snap := by
  unfold emit
  split
  · simp
  · split <;> simp

@[simp] theorem snap_sendFlit (f : Flit) (fd : Nat) : (sendFlit s f fd).1.snap = s.snap := by
  unfold sendFlit
  split
  · simp
  · split
    · rfl
    · split
      · simp
      · extract_lets d t g
        split
        · rfl
        · exact snap_emit _ _ _ _

/-! The checks of a line, and what an access that fails reports (R280–R282, R290–R292, R537). -/

@[simp] theorem snap_parityTry (la : Nat) : (parityTry s la).1.snap = s.snap := by
  unfold parityTry
  extract_lets c st j sus
  split
  next kind rem _ =>
    split
    · rfl
    · extract_lets miss groups sus' s1 s2 s3
      have h : s3.snap = s.snap :=
        (foldl_keeps (g := State.snap) (fun s _ => foldl_keeps (fun s _ => snap_detect s _ _ _ _) _ s) _ s2).trans (snap_dcount s1 _ _)
      split
      · exact (snap_dcount s3 _ _).trans h
      · exact h

@[simp] theorem snap_eccCheck (la : Nat) (cws : List Nat) : (eccCheck s la cws).1.snap = s.snap := by
  unfold eccCheck
  extract_lets pl e d cor unc s1 s2 c s3
  have h1 : s1.snap = s.snap := by unfold s1; split <;> rfl
  have h3 : s3.snap = s.snap := by unfold s3 s2; split <;> simp [h1]
  split
  · simp [setMark, h3]
  · exact h3

@[simp] theorem snap_lineRead (la : Nat) : (lineRead s la).1.snap = s.snap := by
  unfold lineRead
  split
  · rfl
  · extract_lets p e
    have h : e.snap = s.snap := by unfold e p; split <;> simp
    split
    · exact h
    · exact h

@[simp] theorem snap_lineRun (la : Nat) (ms : List (List (Option Byte) × Bool)) : (lineRun s la ms).1.snap = s.snap := by
  unfold lineRun
  split
  · rfl
  · split
    · rfl
    · extract_lets p bs m0 ecc e s1 s2
      have hp : p.1.snap = s.snap := snap_parityTry s la
      split
      · exact (snap_setMark p.1 la true).trans hp
      · split
        · exact hp
        · have he : e.1.snap = s.snap := (snap_eccCheck p.1 la (runPart ms)).trans hp
          have h1 : s1.snap = s.snap := (snap_eccFresh e.1 la _).trans he
          have h2 : s2.snap = s.snap := (snap_setMem s1 _).trans h1
          clear_value s2
          exact (snap_setMark s2 la _).trans h2

@[simp] theorem snap_lineGet (la : Nat) : (lineGet s la).1.snap = s.snap := by
  unfold lineGet
  rcases hr : lineRead s la with ⟨u, bs, st⟩
  have h : u.snap = s.snap := by rw [← snap_lineRead s la, hr]
  dsimp only
  split <;> exact h

@[simp] theorem snap_lineFrom (la : Nat) (who : Owner) : (lineFrom s la who).1.snap = s.snap := by
  unfold lineFrom
  extract_lets p
  split
  · exact (snap_lineGet p.1 la).trans (snap_dieTry ..)
  · exact snap_dieTry ..

@[simp] theorem snap_lineOver (la : Nat) (ms : List (List (Option Byte) × Bool)) (who : Owner) :
    (lineOver s la ms who).1.snap = s.snap := by
  unfold lineOver
  extract_lets p
  split
  · exact (snap_lineRun _ _ _).trans (snap_dieTry ..)
  · exact snap_dieTry ..
  · exact snap_dieTry ..

@[simp] theorem snap_hartPoll (h : Nat) : (hartPoll s h).snap = s.snap := by
  unfold hartPoll
  split
  · rfl
  · split <;> rfl

@[simp] theorem snap_hostFail (h pa status : Nat) : (hostFail s h pa status).snap = s.snap := by
  unfold hostFail hartAsync hdieRecord
  split
  · rw [snap_hartPoll]; split <;> rfl
  · rfl

@[simp] theorem snap_noteLine (la : Nat) (who : Owner) : (noteLine s la who).snap = s.snap := by
  unfold noteLine notePoison
  split <;> rfl

/-! The board coherence directory (R359–R362). -/

@[simp] theorem snap_lineBack (la : Nat) (bs : List Byte) (poison : Bool) (who : Owner) :
    (lineBack s la bs poison who).snap = s.snap := by
  unfold lineBack
  split
  · rfl
  · extract_lets w
    split
    · split <;> simp [w]
    · simp [w]

@[simp] theorem snap_lineWords (key : Nat) (ws : List Nat) : (lineWords s key ws).snap = s.snap := by
  unfold lineWords
  extract_lets l
  split
  · rfl
  · exact foldl_keeps (g := State.snap) (fun s _ => snap_detect s _ _ _ _) _ s

@[simp] theorem snap_hdieBack (la : Nat) : (hdieBack s la).snap = s.snap := by
  unfold hdieBack
  extract_lets h
  split <;> simp

@[simp] theorem snap_snoopOne (d : DirLine) (inv : Bool) (w : Nat) (who : Owner) (ag : Nat) :
    (snoopOne s d inv w who ag).snap = s.snap := by
  unfold snoopOne
  extract_lets la s1 r fd dst a
  have h1 : s1.snap = s.snap := snap_hdieBack s la
  split
  · split
    · exact (snap_hdieDrop s1 _).trans h1
    · exact (snap_hdieMod s1 _ _).trans h1
  · split
    · split
      · exact (snap_lineBack r.1 _ _ _ _).trans (snap_freeBytes s 128)
      · rfl
    · rcases ht : nextTag s fd with ⟨tag, s2⟩
      have h2 : s2.snap = s.snap := by rw [← snap_nextTag s fd, ht]
      dsimp only
      generalize mkFlit _ _ _ _ _ _ _ _ _ _ _ = f
      have hq : (sendFlit s2 f fd).1.snap = s.snap := (snap_sendFlit s2 f fd).trans h2
      generalize sendFlit s2 f fd = q at hq ⊢
      split
      · exact (snap_setSnoops q.1 _).trans hq
      · exact h2

@[simp] theorem snap_dirSet (la : Nat) (hs : List Nat) (excl : Bool) : (dirSet s la hs excl).snap = s.snap := by
  unfold dirSet
  extract_lets l
  split
  · rfl
  · split <;> rfl

@[simp] theorem snap_dirAccess (la : Nat) (write : Bool) (who : Owner) : (dirAccess s la write who).snap = s.snap := by
  have snooped (d : DirLine) (inv : Bool) (hs : List Nat) :
      (hs.foldl (fun s a => snoopOne s d inv d.line who a) s).snap = s.snap :=
    foldl_keeps (g := State.snap) (fun s a => snap_snoopOne s _ _ _ _ a) hs s
  unfold dirAccess
  split
  · rfl
  · split
    · rw [snap_dirSet, snooped]
    · split
      · rw [snap_dirSet, snooped]
      · rfl

@[simp] theorem snap_memReady (rs ws : List (Nat × Nat)) (who : Owner) : (memReady s rs ws who).1.snap = s.snap := by
  have prepared : (dirPrep s rs ws who).snap = s.snap :=
    foldl_keeps (g := State.snap) (fun s d => by
      split
      · exact snap_dirAccess ..
      · split
        · exact snap_dirAccess ..
        · rfl) s.dir s
  unfold memReady
  split
  · rfl
  · split
    · rfl
    · exact prepared

/-! A line read and a line written (R302, R361, R492, R496). -/

@[simp] theorem snap_readLine (la : Nat) (who : Owner) : (readLine s la who).1.snap = s.snap := by
  unfold readLine
  extract_lets r
  have h : r.1.snap = s.snap := (snap_lineFrom _ la who).trans (snap_dirAccess ..)
  split
  · exact (snap_noteLine ..).trans h
  · exact h

@[simp] theorem snap_writeLine (la : Nat) (bs : List (Option Byte)) (poison : Bool) (who : Owner) (off rep : Nat) :
    (writeLine s la bs poison who off rep).1.snap = s.snap := by
  unfold writeLine putRun
  split
  · rfl
  · dsimp only; split <;> simp

theorem snap_copyLine (src dst : Nat) : (copyLine s src dst).snap = s.snap := by
  simp [copyLine]

end

/-! ### TAKE and its snapshot, up to the record (R302, R488–R493) -/

section
variable {s : State}

/-- A TAKE outside RUN, in a generation under way, or where the memory map or the groups are wrong is refused (R485, R486, R488). -/
theorem snapTake_refused :
    (¬phase s = phRun → snapTake s = snapRefuse s stPhase) ∧
    (phase s = phRun → s.snap.state ≠ 0 → snapTake s = snapRefuse s 0x80) ∧
    (phase s = phRun → s.snap.state = 0 → ¬(snapGeometry s = true ∧ snapGroupOk s = true) → snapTake s = snapRefuse s 0x81) := by
  refine ⟨fun hp => by simp [snapTake, hp], fun hp h0 => by simp [snapTake, hp, h0], fun hp h0 hg => ?_⟩
  have bad : (!snapGeometry s || !snapGroupOk s) = true := by simpa [Classical.or_iff_not_imp_left] using hg
  simp [snapTake, hp, h0, bad]

theorem snapTake_accepted (hp : phase s = phRun) (h0 : s.snap.state = 0) (hg : snapGeometry s = true) (hm : snapGroupOk s = true) :
    let n := if s.snap.commitValid then (s.snap.commitGen + 1) % 2 ^ 32 else 1
    snapTake s = heldCow (modSnap s (fun x => { x with
      gen := n, localComplete := false, state := 1, copied := [], takenAt := timeNs s, striped := false, stripeFail := false, abortSent := false,
      decided := if x.early = some (n % 2 ^ 24) then some 2 else none, early := none, lines := [] })) := by
  simp [snapTake, hp, h0, hg, hm]

/-- The lines that a part holds, copied into the local area (R489). -/
def partCopied (s : State) (part : List Nat) (t : State) : State :=
  part.foldl (fun t o => match imageAddr (stateRegions s) o with
    | some a => copyLine (copyLine t a (dget s kSnapLocalBase + o)) (a + 128) (dget s kSnapLocalBase + o + 128)
    | none => t) t

section
variable (hup : s.up = true)
include hup

/-- The next part of a stack is copied as a whole, once its lines can be had (log entry 51). -/
theorem gives_snapshotPartCopied {st page : Nat} (h1 : s.snap.state = 1) (hs : st < 16) (hf : stackFree s st = true)
    (hn : nextPart s st = some page) :
    let part := partOf s st page
    let m := memReady s (part.filterMap (fun o => (imageAddr (stateRegions s) o).map (·, 256)))
      (part.map (dget s kSnapLocalBase + ·, 256)) .nobody
    Gives (.snapshotPartCopied st page) s (if m.2 = false then m.1 else
      modSnap (partCopied s part m.1) (fun x => { x with copied := x.copied ++ [(st, page)] })) := by
  have due : (s.snap.state != 1 || 16 ≤ st || !stackFree s st || nextPart s st != some page) = false := by
    simp [h1, hs, hf, hn]
  refine gives_of_whenUp hup rfl ?_
  simp only [due, Bool.not_eq_true', Bool.false_eq_true, if_false]
  rfl

/-- The local copy is complete, and its stripes leave, once its lines can be had. -/
theorem gives_snapshotLocalCopyDone (h1 : s.snap.state = 1) (hc : allCopied s = true) :
    let m := memReady s [localArea s] [] .nobody
    Gives .snapshotLocalCopyDone s (if m.2 = false then m.1 else
      stripeAll (modSnap m.1 (fun x => { x with localGen := x.gen, localComplete := true, state := 2, striped := true }))) := by
  refine gives_of_whenUp hup rfl ?_
  cases hm : (memReady s [localArea s] [] .nobody).2 <;> simp [h1, hc, hm]

theorem gives_stripeLinesDone (h2 : s.snap.state = 2) (hr : s.reqs.any (fun r => r.who == .stripe) = false)
    (hq : s.issueQ.any (fun r => r.who == .stripe) = false) :
    Gives .stripeLinesDone s (snapTry (modSnap s (fun x => { x with state := 3 }))) :=
  gives_of_whenUp hup rfl (if_neg (by simp only [h2, hr, hq]; decide))

/-- A decision is recorded where it is known here; elsewhere a package that is not the root records it once it may have come (R490). -/
theorem gives_snapConfirmDecision {d : SnapDecision} (h0 : s.snap.state ≠ 0) (h4 : s.snap.state ≠ 4)
    (hd : s.snap.decided = some (decisionCode d) ∨
      s.snap.decided = none ∧ (collGroup s (dget s kSnapHbGroup)).parent ≠ 0xFFFF ∧ (d = .abort ∨ s.snap.state = 3)) :
    Gives (.snapConfirmDecision d) s (snapRecord s (decisionCode d)) := by
  refine gives_of_whenUp hup rfl ?_
  obtain known | ⟨unknown, below, may⟩ := hd
  · simp [h0, h4, known]
  · have comes : (decisionCode d == 2 || s.snap.state == 3) = true := by
      obtain rfl | third := may
      · rfl
      · simp [third]
    simp [h0, h4, unknown, below, comes]

theorem gives_snapTimeoutExpiry {at_ : Nat} (h0 : s.snap.state ≠ 0) (h4 : s.snap.state ≠ 4) (hd : s.snap.decided = none)
    (ha : s.snap.abortSent = false) (ht : s.snap.takenAt + dget s kSnapTimeout ≤ timeNs (atTime s at_)) :
    Gives (.snapTimeoutExpiry at_) s
      (snapAbort (modSnap (atTime s at_) (fun x => { x with abortSent := true })) s.snap.gen (dget s kOwnLogicalId)) := by
  have late : ¬timeNs (atTime s at_) < s.snap.takenAt + dget s kSnapTimeout := Nat.not_lt_of_le ht
  refine gives_of_whenUp hup rfl ?_
  simp [h0, h4, hd, ha, late]

end

end

/-! ### RESTORE (R495–R497) -/

theorem restorePhase_iff (s : State) :
    (phase s == phStart || phase s == phRecovery) = true ↔ phase s = phStart ∨ phase s = phRecovery := by simp

section
variable {s : State}

/-- A RESTORE is refused likewise, and where no generation is named. -/
theorem snapRestore_refused :
    (¬(phase s = phStart ∨ phase s = phRecovery) → snapRestore s = snapRefuse s stPhase) ∧
    (phase s = phStart ∨ phase s = phRecovery → s.snap.state ≠ 0 → snapRestore s = snapRefuse s 0x80) ∧
    (phase s = phStart ∨ phase s = phRecovery → s.snap.state = 0 →
      ¬(snapGeometry s = true ∧ snapGroupOk s = true ∧ s.snap.restoreGen ≠ 0) → snapRestore s = snapRefuse s 0x81) := by
  rw [← restorePhase_iff, Bool.not_eq_true]
  refine ⟨fun hp => by simp [snapRestore, hp], fun hp h0 => by simp [snapRestore, hp, h0], fun hp h0 hg => ?_⟩
  have bad : (!snapGeometry s || !snapGroupOk s || decide (s.snap.restoreGen = 0)) = true := by
    simpa [Classical.or_iff_not_imp_left, and_assoc] using hg
  simp only [snapRestore, hp, h0, bad, Bool.not_true, Bool.false_eq_true, bne_self_eq_false, if_true, if_false]

/-- The generation to restore becomes the current one, from the local copy where that is of it (R495). -/
def restoreBegun (s : State) (remote : Bool) : State :=
  modSnap s (fun x => { x with
    state := 4, gen := x.restoreGen, decided := if x.gen = x.restoreGen then x.decided else none, rebuilt := 0, lost := 0, remote := remote,
    striped := !remote, lines := [], localComplete := x.localComplete && !remote })

section
variable (hp : (phase s == phStart || phase s == phRecovery) = true) (h0 : s.snap.state = 0) (hg : snapGeometry s = true)
  (hm : snapGroupOk s = true) (hr : s.snap.restoreGen ≠ 0)
include hp h0 hg hm hr

theorem snapRestore_busy (hq : quiet s = false) : snapRestore s = snapRefuse s 0x85 := by
  simp [snapRestore, hp, h0, hg, hm, hr, hq]

theorem snapRestore_local (hq : quiet s = true) (hl : s.snap.localGen = s.snap.restoreGen ∧ s.snap.localComplete = true) :
    snapRestore s = restoreBegun s false := by
  simp [snapRestore, hp, h0, hg, hm, hr, hq, hl, restoreBegun]

theorem snapRestore_remote (hq : quiet s = true) (hl : ¬(s.snap.localGen = s.snap.restoreGen ∧ s.snap.localComplete = true)) :
    snapRestore s = restoreReads (restoreBegun s true) := by
  have away : (s.snap.localGen == s.snap.restoreGen && s.snap.localComplete) = false := by simpa using hl
  simp [snapRestore, hp, h0, hg, hm, hr, hq, away, restoreBegun]

end

/-- The parity lines that are still to be read: those of offsets at which a data line must be formed (R496, R497). -/
def parityNeeded (s : State) : List Nat :=
  ((((dataLines s).filter (fun l => mustForm s l.1 l.2)).map (·.2)).eraseDups).filter
    (fun o => (gotLine s 6 o).2 == 0 && excluded s != some 6)

/-- The image copied from the local area into the state regions. -/
def imageRestored (s t : State) : State :=
  (List.range (imageSize t / 128)).foldl (fun t i =>
    match imageAddr (stateRegions s) (128 * i) with
    | some a => copyLine t (dget s kSnapLocalBase + 128 * i) a
    | none => t) t

theorem snap_imageRestored (t : State) : (imageRestored s t).snap = t.snap :=
  foldl_keeps (g := State.snap) (fun t i => by split <;> simp [snap_copyLine]) _ t

/-- The generation restored is committed, and the restore counts (R497). -/
def restoreEnded (t : State) : State :=
  let u := modSnap t (fun x => { x with
    commitValid := true, commitGen := x.gen, commitSlot := x.gen % 2, commitTag := x.stepTag, commitTime := timeNs t,
    state := 0, last := if x.lost = 0 then 0 else 0x86 })
  dcount (dcount (dcount u (if t.snap.remote then kRestoresRemote else kRestoresLocal) 1) kRestoreLinesRebuilt t.snap.rebuilt)
    kRestoreLinesLost t.snap.lost

theorem snap_restoreEnded (t : State) : (restoreEnded t).snap = { t.snap with
    commitValid := true, commitGen := t.snap.gen, commitSlot := t.snap.gen % 2, commitTag := t.snap.stepTag, commitTime := timeNs t,
    state := 0, last := if t.snap.lost = 0 then 0 else 0x86 } := by
  simp [restoreEnded, modSnap]

section
variable (hup : s.up = true)
include hup

/-- The parity lines that are still needed are read; then every line is formed, and the local area is of the generation (R496, R497). -/
theorem gives_restoreRemoteDone (h4 : s.snap.state = 4) (hr : s.snap.remote = true) (hs : s.snap.striped = false)
    (hn : (s.reqs ++ s.issueQ).any (fun r => match r.who with | .restore _ _ => true | _ => false) = false) :
    let m := memReady s [] [localArea s] .nobody
    Gives .restoreRemoteDone s (if parityNeeded s ≠ [] then (parityNeeded s).foldl (fun s o => stripeRead s 6 o) s
      else if m.2 = false then m.1
      else modSnap ((dataLines s).foldl (fun t l => placeLine t l.1 l.2) m.1) (fun x => { x with
        localGen := x.gen, localComplete := true, striped := true, lines := [] })) := by
  refine gives_of_whenUp hup rfl ?_
  rw [List.any_append, Bool.or_eq_false_iff] at hn
  obtain ⟨hreqs, hissue⟩ := hn
  refine (if_neg (ne_true_of_eq_false ?_)).trans ?_
  · simp only [Bool.or_eq_false_iff]
    exact ⟨⟨⟨⟨by simp [h4], by simp [hr]⟩, hs⟩, hreqs⟩, hissue⟩
  · show (if (!(parityNeeded s).isEmpty) = true then (parityNeeded s).foldl (fun s o => stripeRead s 6 o) s else _) = _
    cases parityNeeded s <;> simp

/-- The copy into the state regions ends the restore, once the lines of both can be had (log entry 51). -/
theorem gives_restoreComplete (h4 : s.snap.state = 4) (hs : s.snap.striped = true) :
    let m := memReady s [localArea s] (stateRegions s) .nobody
    Gives .restoreComplete s (if m.2 = false then m.1 else restoreEnded (imageRestored s m.1)) := by
  refine gives_of_whenUp hup rfl ?_
  simp only [h4, hs, Bool.not_eq_true']
  rfl

end

end

/-- Settles O48: each row of a snapshot and of a restore where it applies; what a restore copies leaves the generation restored. -/
theorem snapshotRows : Obligations.SnapshotRows := by
  refine fun s hup => ⟨fun hp h0 hg hm => gives_of_whenUp hup rfl (snapTake_accepted hp h0 hg hm), ⟨?take, ?restore⟩,
    fun st page h1 hs hf hn => gives_snapshotPartCopied hup h1 hs hf hn, fun h1 hc => gives_snapshotLocalCopyDone hup h1 hc,
    fun h2 hr hq => gives_stripeLinesDone hup h2 hr hq, fun d h0 h4 hd => gives_snapConfirmDecision hup h0 h4 hd,
    fun at_ h0 h4 hd ha ht => gives_snapTimeoutExpiry hup h0 h4 hd ha ht, fun hp h0 hg hm hr => ?begun, fun h4 hr hs hn => ?stripes,
    fun h4 hs => ?complete⟩
  case take =>
    obtain ⟨shut, busy, misfit⟩ := snapTake_refused (s := s)
    exact ⟨fun hp => gives_of_whenUp hup rfl (shut hp), fun hp h0 => gives_of_whenUp hup rfl (busy hp h0),
      fun hp h0 hg => gives_of_whenUp hup rfl (misfit hp h0 (by simpa using hg))⟩
  case restore =>
    obtain ⟨shut, busy, misfit⟩ := snapRestore_refused (s := s)
    exact ⟨fun hp => gives_of_whenUp hup rfl (shut hp), fun hp h0 => gives_of_whenUp hup rfl (busy hp h0),
      fun hp h0 hg => gives_of_whenUp hup rfl (misfit hp h0 hg)⟩
  case begun =>
    have accepts := (restorePhase_iff s).2 hp
    refine ⟨fun busy => gives_of_whenUp hup rfl (snapRestore_busy accepts h0 hg hm hr busy), fun idle here => ?_, fun idle away => ?_⟩
    · exact gives_of_whenUp hup rfl ((snapRestore_local accepts h0 hg hm hr idle here).trans (by simp [restoreBegun]))
    · exact gives_of_whenUp hup rfl ((snapRestore_remote accepts h0 hg hm hr idle away).trans (by simp [restoreBegun]))
  case stripes =>
    have row := gives_restoreRemoteDone hup h4 hr hs hn
    exact ⟨fun some_left => gives_pos row some_left, fun none_left => gives_neg row (not_not.2 none_left)⟩
  case complete =>
    have row := gives_restoreComplete hup h4 hs
    refine ⟨fun waits => gives_pos row waits, fun ready => ⟨_, gives_neg row (ne_false_of_eq_true ready), ?_⟩⟩
    have kept : (imageRestored s (memReady s [localArea s] (stateRegions s) .nobody).1).snap = s.snap := by
      rw [snap_imageRestored, snap_memReady]
    simp [snap_restoreEnded, kept]

end Sys2Proof.Snapshots
end

section
/-! SUPPORT. The fabric: what the link hands on of a flit and what it discards, requests at their home, and the rows of links, ports and
the timers of requests. -/
namespace Sys2Proof.Fabric
open Sys2Proof Machine Config Safety Laws Scope Sys2Proof.Composition Stacks

/-! ### Arrival (R334, R344, R345, R460) -/

/-- A flit as the link hands it on: without its trailer. -/
def unsealed (f : Flit) : Flit := { f with trailer := 0, fec := 0 }

theorem malformed_unsealed (f : Flit) : malformed (unsealed f) = malformed f := rfl

theorem flitFilter_malformed {f : Flit} (hm : malformed f = true) (s : State) (p : Nat) :
    flitFilter s p f = (creditBack (dcount s kFlitsMalformed 1) p f, none) :=
  if_pos hm

/-- A flit that passes the filters is handed on as it is. -/
theorem flitFilter_served {s t : State} {p : Nat} {f g : Flit} (h : flitFilter s p f = (t, some g)) : g = f := by
  unfold flitFilter at h
  split at h
  · cases h
  · split at h
    · split at h <;> cases h
    · split at h
      · cases h
      · dsimp only at h
        generalize (if (pChassis (fSrc f) != pChassis (ownPkg s) && fKind f != fkSysAck) = true then sysReceive s f else (s, true)) = received at h
        split at h
        · cases h
        · split at h <;> cases h
          rfl

section
variable {s : State} {p : Nat} {f : Flit} (hp : p < 64) (hu : portUp s p = true)
include hp hu

/-- A flit whose CRC fails is discarded, and its LSEQ awaited again. -/
theorem arrive_crc (hc : crcOk f = false) :
    arrive s p f = (modPort (dcount s kFecCorrected f.fec) p (fun x => { x with bad := some x.rxNext }), none) := by
  simp [arrive, hp, hu, hc]

/-- So is every flit but the one awaited. -/
theorem arrive_order (hc : crcOk f = true) (hl : tLseq f.trailer ≠ awaited (portAt s p)) :
    arrive s p f = (dcount s kFecCorrected f.fec, none) := by
  simp [arrive, hp, hu, hc, hl]

/-- One that is awaited is discarded where its buffer fails its ECC, and otherwise passes the filters. -/
theorem arrive_awaited (hc : crcOk f = true) (hl : tLseq f.trailer = awaited (portAt s p)) :
    let b := bufferCheck (dcount s kFecCorrected f.fec) p (fVl f)
    arrive s p f = if b.2 = true then (modPort b.1 p (fun x => { x with bad := some x.rxNext }), none)
      else flitFilter (drainOut (modPort b.1 p (fun x => linkAccept x f.trailer))) p (unsealed f) := by
  simp [arrive, hp, hu, hc, hl, unsealed]

end

/-- What the link hands on is the flit without its trailer. -/
theorem arrive_served {s t : State} {p : Nat} {f g : Flit} (h : arrive s p f = (t, some g)) : g = unsealed f := by
  unfold arrive at h
  split at h
  · cases h
  · dsimp only at h
    split at h
    · cases h
    · split at h
      · cases h
      · split at h
        · cases h
        · exact flitFilter_served h

/-! ### Rows of flits -/

/-- What a row of flits of one kind does: `serve` to a flit that the link hands on, and nothing more to one that it does not. -/
def linkRow (kind : Nat) (serve : Nat → State → Flit → State) (port : Nat) (f : Flit) (s : State) : State :=
  if fKind f != kind && !malformed f then s
  else match arrive s port f with
    | (t, some g) => serve port t g
    | (t, none) => t

/-- Row `i` is the row of flits of kind `kind`; `after` follows whatever it does. -/
def IsFlitRow (i : Nat → Flit → Instr) (kind : Nat) (serve : Nat → State → Flit → State) (after : State → State) : Prop :=
  ∀ port f s, exec (i port f) s = whenUp s (after (linkRow kind serve port f s))

section
variable {i : Nat → Flit → Instr} {kind port : Nat} {serve : Nat → State → Flit → State} {after : State → State}
variable {s t : State} {f g : Flit}

/-- A malformed flit is dropped by whichever row it comes with. -/
theorem gives_discarded (hi : IsFlitRow i kind serve after) (hup : s.up = true) (hm : malformed f = true) (ha : arrive s port f = (t, none)) :
    Gives (i port f) s (after t) :=
  gives_of_whenUp hup (hi port f s) (by simp [linkRow, hm, ha])

theorem gives_served (hi : IsFlitRow i kind serve after) (h : FlitAt kind port s f g t) : Gives (i port f) s (after (serve port t g)) := by
  obtain ⟨hup, hk, ha⟩ := h
  exact gives_of_whenUp hup (hi port f s) (by simp [linkRow, hk, ha])

/-- A row whose handler gets the flit once its buffer is free. -/
theorem isFlitRow_of_flitRow {h : Nat → State → Flit → State}
    (hi : ∀ port f s, exec (i port f) s = whenUp s (after (flitRow kind port f s (h port)))) :
    IsFlitRow i kind (fun p s g => h p (creditBack s p g) g) after :=
  hi

end

/-- What a request row does with a flit at its home: a line request may name the snapshot block (R484), an atomic does not. -/
def atHome (kind port : Nat) (t : State) (g : Flit) : State :=
  match (if kind ≤ 3 then snapLine t g else none) with
  | some o => snapServe t port g o
  | none => homeRequest t port g

/-- The rows of requests, with the kinds of their flits. -/
def requestRows : List ((Nat → Flit → Instr) × Nat) :=
  [(.read, 1), (.write, 2), (.writeMask, 3), (.atomicIadd, 4), (.atomicFadd, 5), (.atomicMin, 6), (.atomicMax, 7), (.atomicSwap, 8),
   (.atomicCas, 9)]

theorem isFlitRow_request : ∀ p ∈ requestRows, IsFlitRow p.1 p.2 (atHome p.2) id := by
  simp only [requestRows, List.forall_mem_cons, List.not_mem_nil, false_imp_iff, implies_true, and_true]
  and_intros <;> exact fun _ _ _ => rfl

/-- The other rows of flits, HB_ABORT apart, with what goes on after them: what waited for a reply or a SEG_DONE (R397, R502, R525). -/
def answerRows : List ((Nat → Flit → Instr) × (State → State)) :=
  [(.readResp, fovisPump), (.writeAck, fovisPump ∘ collSettle), (.atomicResp, fovisPump), (.snpInv, id), (.snpRd, id), (.snpAck, id),
   (.snpData, id), (.sysAck, id), (.hbUp, id), (.hbDown, id), (.segDone, collSettle)]

theorem isFlitRow_answer : ∀ p ∈ answerRows, ∃ kind serve, IsFlitRow p.1 kind serve p.2 := by
  simp only [answerRows, List.forall_mem_cons, List.not_mem_nil, false_imp_iff, implies_true, and_true]
  and_intros <;> exact ⟨_, _, isFlitRow_of_flitRow fun _ _ _ => rfl⟩

theorem atTime_zero (s : State) : atTime s 0 = s := by
  simp only [atTime, Nat.mul_zero, Nat.max_zero]

/-- HB_ABORT at no later TIME than the package's is a row like the others. -/
theorem isFlitRow_hbAbort : IsFlitRow (fun p f => .hbAbort p f 0) 0x1A (fun p s g => hbAbortFlit (creditBack s p g) g) id :=
  isFlitRow_of_flitRow (h := fun _ => hbAbortFlit) fun port f s =>
    congrArg (fun t => whenUp s (flitRow 0x1A port f t hbAbortFlit)) (atTime_zero s)

/-- Every row of flits, with what goes on after it. -/
def flitRows : List ((Nat → Flit → Instr) × (State → State)) :=
  requestRows.map (fun p => (p.1, id)) ++ answerRows ++ [(fun p f => .hbAbort p f 0, id)]

theorem isFlitRow_of_mem : ∀ p ∈ flitRows, ∃ kind serve, IsFlitRow p.1 kind serve p.2 := by
  simp only [flitRows, List.forall_mem_append, List.forall_mem_map, List.forall_mem_singleton]
  exact ⟨⟨fun p hp => ⟨_, _, isFlitRow_request p hp⟩, isFlitRow_answer⟩, ⟨_, _, isFlitRow_hbAbort⟩⟩

/-- Settles O35: what the link discards, and what the filters drop, is done with whichever row it comes with. -/
theorem malformedFlitsAreDropped : Obligations.MalformedFlitsAreDropped := by
  intro p hp s port f hup hport hportUp hm u
  obtain ⟨kind, serve, row⟩ := isFlitRow_of_mem p hp
  refine ⟨fun bad => ?crc, fun good early => ?order, fun good next => ?_⟩
  case crc => exact gives_discarded row hup hm (arrive_crc hport hportUp bad)
  case order => exact gives_discarded row hup hm (arrive_order hport hportUp good early)
  have arrives := arrive_awaited hport hportUp good next
  refine ⟨fun lost => gives_discarded row hup hm (arrives.trans (if_pos lost)), fun sound => gives_discarded row hup hm ?_⟩
  rw [arrives, if_neg (ne_true_of_eq_false sound), flitFilter_malformed ((malformed_unsealed f).trans hm)]
  rfl

/-! ### Requests at their home (R350, R353, R357, R361, R368) -/

section
variable {t : State} {port : Nat} {g : Flit}

theorem atHome_snap {kind o : Nat} (hk : kind ≤ 3) (ho : snapLine t g = some o) : atHome kind port t g = snapServe t port g o := by
  simp [atHome, hk, ho]

theorem atHome_home {kind : Nat} (h : 3 < kind ∨ snapLine t g = none) : atHome kind port t g = homeRequest t port g := by
  obtain atomic | elsewhere := h
  · simp [atHome, Nat.not_le_of_lt atomic]
  · simp [atHome, elsewhere]

theorem homeRequest_line {la : Nat} (hl : lineOf t g = some la) :
    let h := hotTouch t (homeFd t la) false (g.w1.toNat / 128)
    let u := noteLanding h.1 la g
    homeRequest t port g = if fKind g = 2 ∧ g.co = 3 then agentWriteBack (creditBack h.1 port g) (homeFd t la) la g
      else drainIngress { u with ingress := u.ingress ++ [⟨homeFd t la, port, h.2, g⟩] } := by
  simp only [homeRequest, hl]

theorem homeRequest_elsewhere (hl : lineOf t g = none) :
    let h := hotTouch t (port / 32) false (g.w1.toNat / 128)
    homeRequest t port g = drainIngress { h.1 with ingress := h.1.ingress ++ [⟨port / 32, port, h.2, g⟩] } := by
  simp only [homeRequest, hl]

end

/-- A flit at its handler is of the kind of its row. -/
theorem fKind_of_flitAt {kind port : Nat} {s t : State} {f g : Flit} (h : FlitAt kind port s f g t) : fKind g = kind := by
  obtain ⟨-, hk, ha⟩ := h
  rw [arrive_served ha]
  exact hk

/-- The state with its home F-dies' queue of requests replaced. -/
def queued (s : State) (l : List Ingress) : State := { s with ingress := l }

section
variable {s : State} {q : Ingress}

/-- With no segment to be passed on and one request waiting, one pass over the queue serves that request. -/
theorem drainIngress_one (hr : s.relayQ = []) (hq : s.ingress = [q]) {t : State} {kept : List Ingress}
    (h : ingressGo 2 (queued s []) [] [q] = (t, kept)) : drainIngress s = queued t kept := by
  have no_relay : relayGo s = s := by rw [relayGo, hr]; rfl
  have pass : drainIngress s = (fun x => queued x.1 x.2) (ingressGo 2 (queued s []) [] [q]) := by
    simp only [drainIngress, no_relay, hq]
    rfl
  rw [pass, h]

theorem ingressGo_done (n : Nat) (kept : List Ingress) : ingressGo n s kept [] = (s, kept) := by
  cases n <;> simp [ingressGo]

theorem ingressGo_old (ho : tooOld s q.f = true) (n : Nat) (kept rest : List Ingress) :
    ingressGo (n + 1) s kept (q :: rest) = ingressGo n (creditBack (dcount s kLifetimeDrops 1) q.port q.f) kept rest :=
  if_pos ho

/-- A request with none before it is served, with those that its service takes along, or waits. -/
theorem ingressGo_first (ho : tooOld s q.f = false) (n : Nat) (rest : List Ingress) :
    ingressGo (n + 1) s [] (q :: rest) =
      (let r := ingressServe s q rest
       if r.2.1 then ingressGo n (r.2.2.1.foldl (fun s h => creditBack s h.port h.f) r.1) [] r.2.2.2 else ingressGo n r.1 [q] rest) := by
  simp [ingressGo, ho]

end

/-- Settles O33: a request takes its place by its line and its kind, and alone in the queue it is served, waits or is dropped. -/
theorem fabricRequestRows : Obligations.FabricRequestRows := by
  refine ⟨fun p hp s port f g t h => ?arrives, fun s q hr hq => ?alone⟩
  case arrives =>
    have row := gives_served (isFlitRow_request p hp) h
    refine ⟨fun o hk ho => atHome_snap (port := port) hk ho ▸ row, fun home => ?_⟩
    have kind := fKind_of_flitAt h
    have row : Gives (p.1 port f) s (homeRequest t port g) := atHome_home (port := port) home ▸ row
    refine ⟨fun la hl hk co => ?_, fun hl => ?_, fun la hl other => ?_⟩
    · rw [homeRequest_line hl] at row
      simpa only [hl] using gives_pos row ⟨kind.trans hk, co⟩
    · rw [homeRequest_elsewhere hl] at row
      simpa only [hl] using row
    · rw [homeRequest_line hl] at row
      simpa only [hl] using gives_neg row (fun back => other.elim (· (kind.symm.trans back.1)) (· back.2))
  case alone =>
    refine ⟨fun old => drainIngress_one hr hq ?_, fun young now only => drainIngress_one hr hq ?_, fun young waits => drainIngress_one hr hq ?_⟩
    · exact (ingressGo_old (s := queued s []) old 1 [] []).trans (ingressGo_done 1 [])
    · obtain ⟨served, rest⟩ := only
      refine (ingressGo_first (s := queued s []) young 1 []).trans ((if_pos now).trans ?_)
      rw [queued, served, rest]
      exact ingressGo_done 1 []
    · exact (ingressGo_first (s := queued s []) young 1 []).trans ((if_neg (ne_true_of_eq_false waits)).trans (ingressGo_done 1 [q]))

/-! ### Links and ports (R333, R334, R335, R338) -/

section
variable {s : State} (hup : s.up = true) {port : Nat}
include hup

section
variable (hport : port < 64) (hportUp : portUp s port = true)
include hport hportUp

theorem gives_linkFlitReceiveFail (lseq : Nat) : Gives (.linkFlitReceiveFail port lseq) s
    (detect (dcount (modPort s port (fun x => if lseq % 4096 = x.rxNext then { x with bad := some x.rxNext } else x)) kFecUncorrected 1) 6
      (unitCoord s (portFd port) 0x7E0) (if portSt s port = 3 then 0x1FF else 0xFF) (.port port)) :=
  gives_of_whenUp hup rfl (if_neg (by simp [hport, hportUp]))

/-- The sender resends what is not acknowledged; a 16th sending without an acknowledgement takes the port down. -/
theorem gives_linkRetryResend (hw : (portAt s port).unacked ≠ []) : Gives (.linkRetryResend port) s
    (if (portAt s port).tries.any (15 ≤ ·) = true then portDown s port
     else dcount (modPort s port (fun x => { x with tries := x.tries.map (· + 1) })) kLinkRetries (portAt s port).unacked.length) :=
  gives_of_whenUp hup rfl (if_neg (by simp [hport, hportUp, hw]))

end

section
variable (ho : dictOpen s = true) (v : Word)
include ho

theorem gives_portRetrain (hp : retrainPhase s = true) : Gives (.portRetrain v) s (portRetrain s v.toNat) :=
  gives_of_whenUp hup rfl ((dictWrite_open ho _ _ _).trans (if_pos hp))

theorem portRetrain_refused (hp : ¬retrainPhase s = true) : exec (.portRetrain v) s = .next s :=
  exec_unchanged hup rfl ((dictWrite_open ho _ _ _).trans (if_neg hp))

end

section
variable (hport : port < 64) (training : portSt s port = 1) {o : PortEyes}
include hport training

/-- A port that no peer answers stays DOWN (R335, log entry 70). -/
theorem gives_portTrainingDone_alone (hn : o.peer = none) :
    Gives (.portTrainingDone port o) s (calEvent (dset s (kPortState + port) 0) 0x06 (unitCoord s (portFd port) 0x7E0) port) :=
  gives_of_whenUp hup rfl ((if_neg (by simp [hport, training])).trans (by simp [hn, b2n]))

/-- A port with a peer: DOWN where a direction misses two lanes, MISWIRED where its level is not the peer's, and otherwise UP, with the
lanes that spares replace in the calendar. -/
theorem gives_portTrainingDone_peer {q : Nat × Nat} (hq : o.peer = some q) :
    let rx := failedLanes o.rxFailed
    let tx := failedLanes o.txFailed
    let unit := unitCoord s (portFd port) 0x7E0
    Gives (.portTrainingDone port o) s
      (if 2 ≤ rx.length ∨ 2 ≤ tx.length then calEvent (dset s (kPortState + port) (peerBits q)) 0x06 unit port
       else if peerOk s port q.1 = false then calEvent (dset s (kPortState + port) (4 * 2 ^ 24 + peerBits q)) 0x06 unit (port + 2 ^ 31)
       else drainOut ((rx ++ tx).foldl (fun s l => calEvent s 0x04 unit (port * 256 + l))
         (dset s (kPortState + port) ((if rx ++ tx = [] then 2 else 3) * 2 ^ 24 + peerBits q)))) := by
  intro rx tx unit
  refine gives_of_whenUp hup rfl ((if_neg (by simp [hport, training])).trans ?_)
  have spared : (if (rx ++ tx).isEmpty then dset s (kPortState + port) (2 * 2 ^ 24 + peerBits q)
      else dset s (kPortState + port) (3 * 2 ^ 24 + peerBits q)) =
      dset s (kPortState + port) ((if rx ++ tx = [] then 2 else 3) * 2 ^ 24 + peerBits q) := by
    by_cases none_failed : rx ++ tx = []
    · rw [if_pos none_failed, none_failed]; rfl
    · rw [if_neg none_failed, if_neg (by simpa using none_failed)]
  rw [← spared]
  simp [hq, b2n, rx, tx, unit]

end

end

/-! ### The timers of requests (R354, R356, R357, R371) -/

/-- A request without a reply in time ends NO_REPLY. -/
theorem replyTimeout_due {s : State} {fd tag at_ : Nat} {r : Req} (hr : s.reqs.find? (fun r => r.fd == fd && r.tag == tag) = some r)
    (due : r.first + dget s kReplyTimeout ≤ timeNs (atTime s at_)) :
    replyTimeout fd tag (atTime s at_) =
      epochTry (failEnds { atTime s at_ with reqs := s.reqs.filter (fun q => !(q.fd == fd && q.tag == tag)) } r 0x84) := by
  simp only [replyTimeout, atTime_reqs, hr]
  exact if_neg (Nat.not_lt.2 due)

section
variable {s : State} (hup : s.up = true) {fd tag at_ : Nat}
include hup

/-- A flit that is not acknowledged leaves the window when it is too old, and is sent again at each interval. -/
theorem gives_sysResend {dst seq : Nat} {u : Nat × Nat × Flit} (hu : (sysTxAt (atTime s at_) dst).un.find? (fun u => u.1 == seq) = some u) :
    let t := atTime s at_
    Gives (.sysResend dst seq at_) s
      (if dget t kRequestLifetime ≤ ageNs t u.2.2 then
        sysRefill (modSysTx t dst (fun q => { q with un := q.un.filter (fun v => v.1 != seq) })) dst
       else if timeNs t < u.2.1 + dget t kSysRetryInterval then t
       else dcount (emit (modSysTx t dst (fun q => { q with un := q.un.map (fun v => if v.1 == seq then (seq, timeNs t, u.2.2) else v) }))
         u.2.2 (pChassis dst % 2)).1 kE2eRetries 1) :=
  gives_of_whenUp hup rfl (by simp only [hu])

theorem gives_e2eRetry {r : Req} (hr : s.reqs.find? (fun r => r.fd == fd && r.tag == tag) = some r) (h2 : fKind r.f ≠ 2) (h3 : fKind r.f ≠ 3)
    (young : (r.retries + 1) * dget s kE2eRetryInterval < dget s kRequestLifetime)
    (due : r.first + (r.retries + 1) * dget s kE2eRetryInterval ≤ timeNs (atTime s at_)) :
    Gives (.e2eRetry fd tag at_) s (dcount (post { atTime s at_ with reqs := s.reqs.map (fun q =>
      if q.fd == fd && q.tag == tag then { q with retries := q.retries + 1 } else q) } (withRetry r.f) r.fd) kE2eRetries 1) := by
  refine gives_of_whenUp hup rfl ?_
  simp only [atTime_reqs, hr]
  refine if_neg (ne_true_of_eq_false ?_)
  simp only [h2, h3, decide_false, Bool.false_or]
  exact Bool.or_eq_false_iff.2 ⟨decide_eq_false (Nat.not_le.2 young), decide_eq_false (Nat.not_lt.2 due)⟩

theorem gives_replayEntryExpiry {src : Nat} {r : Replay} (hr : s.replay.find? (fun r => r.fd == fd && r.src == src && r.tag == tag) = some r)
    (due : r.expiry ≤ timeNs (atTime s at_)) :
    Gives (.replayEntryExpiry fd src tag at_) s (drainIngress { atTime s at_ with replay := s.replay.erase r }) := by
  refine gives_of_whenUp hup rfl ?_
  simp only [atTime_replay, hr]
  exact if_neg (Nat.not_lt.2 due)

end

/-- Settles O36: each event of a link, a port or a timer by the condition on which it acts. -/
theorem linkRows : Obligations.LinkRows := by
  refine fun s hup => ⟨fun port lseq hp hu => gives_linkFlitReceiveFail hup hp hu lseq, fun port hp hu hw => gives_linkRetryResend hup hp hu hw,
    fun v => ⟨fun ho hp => gives_portRetrain hup ho v ((retrainPhase_iff s).2 hp),
      fun ho hp => portRetrain_refused hup ho v (mt (retrainPhase_iff s).1 hp),
      fun ho => gives_of_whenUp hup rfl (dictWrite_shut ho _ _ _)⟩,
    fun port o hp training => ⟨fun hn => gives_portTrainingDone_alone hup hp training hn, fun q hq => ?trained⟩,
    fun dst seq at_ u hu => ?resend, fun fd tag at_ r hr h2 h3 young due => gives_e2eRetry hup hr h2 h3 young due,
    fun fd tag at_ r hr due => gives_of_whenUp hup rfl (congrArg (fovisPump ∘ collSettle) (replyTimeout_due hr due)),
    fun fd src tag at_ r hr due => gives_replayEntryExpiry hup hr due, fun fd eg line at_ => gives_of_whenUp hup rfl rfl,
    fun l v hl => gives_of_whenUp hup rfl (if_pos hl)⟩
  case trained =>
    have row := gives_portTrainingDone_peer hup hp training hq
    have lanes {a b : Nat} (ha : a < 2) (hb : b < 2) : ¬(2 ≤ a ∨ 2 ≤ b) := by omega
    exact ⟨fun failed => gives_pos row failed, fun rx tx miswired => gives_pos (gives_neg row (lanes rx tx)) miswired,
      fun rx tx agrees => gives_neg (gives_neg row (lanes rx tx)) (ne_false_of_eq_true agrees)⟩
  case resend =>
    have row := gives_sysResend hup hu
    exact ⟨fun old => gives_pos row old, fun young due => gives_neg (gives_neg row (Nat.not_le_of_lt young)) (Nat.not_lt.2 due)⟩

end Sys2Proof.Fabric
end

section
/-! SUPPORT. The rows of a colophon context, from its opening to the attachment of its record. -/
namespace Sys2Proof.Colophons
open Sys2Proof Machine Config Safety Laws Scope Sys2Proof.Composition

/-! ### Opening, closing and abandoning (R423) -/

theorem ctxOpenOk_iff (s : State) (c : Nat) : ctxOpenOk s c = true ↔
    ((ctxAt s c).state = 0 ∨ (ctxAt s c).state = 3) ∧ (ctxAt s c).ownerBase + (ctxAt s c).ownerCount ≤ 16384 ∧ (ctxAt s c).ownerShift ≤ 32 ∧
      (ctxAt s c).ownerBase ≤ dget s kOwnLogicalId ∧ dget s kOwnLogicalId < (ctxAt s c).ownerBase + (ctxAt s c).ownerCount := by
  simp [ctxOpenOk, and_assoc]

section
variable {s : State} {c : Nat} (hup : s.up = true) (hc : c < 16)
include hup hc

theorem gives_contextOpen (h : ctxOpenOk s c = true) : Gives (.contextOpen c) s (epochTry (ctxOpen s c)) :=
  gives_of_whenUp hup rfl ((if_pos hc).trans (if_pos h))

theorem contextOpen_refused (h : ¬ctxOpenOk s c = true) : exec (.contextOpen c) s = .next s :=
  exec_unchanged hup rfl ((if_pos hc).trans (if_neg h))

section
variable (h : (ctxAt s c).state = 1)
include h

theorem gives_contextClose : Gives (.contextClose c) s (modCtx s c (fun i => { i with
    state := 2, closeAt := timeNs s, settingsChanged := fingerprint s != i.fingerprint, fingerprint := fingerprint s,
    leafCount := dget s kLeafCount })) :=
  gives_of_whenUp hup rfl ((if_pos hc).trans (if_pos h))

theorem gives_contextAbandon : Gives (.contextAbandon c) s (epochTry (ctxDiscard s c)) :=
  gives_of_whenUp hup rfl ((if_pos hc).trans (if_pos h))

end

section
variable (h : (ctxAt s c).state ≠ 1)
include h

theorem contextClose_refused : exec (.contextClose c) s = .next s :=
  exec_unchanged hup rfl ((if_pos hc).trans (if_neg h))

theorem contextAbandon_refused : exec (.contextAbandon c) s = .next s :=
  exec_unchanged hup rfl ((if_pos hc).trans (if_neg h))

end

/-! ### Draining, sealing and the record (R430, R431) -/

section
variable (h2 : (ctxAt s c).state = 2)
include h2

theorem gives_contextDrained (hd : ctxDrained s c = true) (hl : (ctxAt s c).localDone = false) :
    let t := modCtx s c (fun i => { i with localDone := true })
    Gives (.contextDrained c) s (if (ctxAt s c).ownIndex = 0 then t else colSend t c 0 .drained) :=
  gives_of_whenUp hup rfl (if_pos ⟨hc, h2, hd, by simp [hl]⟩)

theorem gives_contextSeal {dr : List Nat} (hl : (ctxAt s c).localDone = true) (hs : (ctxAt s c).sealed = false) :
    let t := modCtx s c (fun i => { i with sealed := true })
    Gives (.contextSeal c dr) s (if (ctxAt s c).ownIndex ≠ 0 then colSend t c 0 (.part (ownPartial s c))
      else if (List.range (ctxAt s c).ownerCount).all (fun i => i == 0 || dr.contains i) = true then colSendAll t c .seal else s) :=
  gives_of_whenUp hup rfl (if_pos ⟨hc, h2, hl, by simp [hs]⟩)

theorem gives_contextRecordForm {ps : List Partial} (hr : (ctxAt s c).ownIndex = 0) (hs : (ctxAt s c).sealed = true)
    (hp : partsFull (ctxAt s c) ps = true) : Gives (.contextRecordForm c ps) s (rootRecord s c ps true) :=
  gives_of_whenUp hup rfl (if_pos ⟨hc, h2, hr, hs, hp⟩)

theorem gives_contextRecordReceive {r : List Byte} (hr : (ctxAt s c).ownIndex ≠ 0) (hl : r.length = 256) :
    Gives (.contextRecordReceive c r) s (modCtx s c (fun i => { i with state := 3, record := r })) :=
  gives_of_whenUp hup rfl (if_pos ⟨hc, h2, hr, hl⟩)

theorem gives_closeRootTimeout {at_ : Nat} {ps : List Partial} (hr : (ctxAt s c).ownIndex = 0)
    (due : (ctxAt s c).closeAt + dget s kCloseTimeout ≤ timeNs (atTime s at_)) :
    Gives (.closeRootTimeout c at_ ps) s (rootRecord (atTime s at_) c ps ((ctxAt s c).sealed && partsFull (ctxAt s c) ps)) :=
  gives_of_whenUp hup rfl (if_pos ⟨hc, h2, hr, due⟩)

theorem gives_closePackageTimeout {at_ : Nat} (due : (ctxAt s c).closeAt + 2 * dget s kCloseTimeout ≤ timeNs (atTime s at_)) :
    Gives (.closePackageTimeout c at_) s (closeWith (atTime s at_) c (loneRecord (atTime s at_) c) true false) :=
  gives_of_whenUp hup rfl (if_pos ⟨hc, h2, due⟩)

end

/-! ### Leaves (R366, R427, R428) -/

/-- A leaf message whose fields fit: dropped where it is of another epoch, and otherwise a leaf that comes or the end of one that went. -/
theorem gives_leafArrival {l : LeafMsg} (hcls : l.cls < 2) (hd : l.digest.length = 48) (ho : l.off < 2 ^ 32) :
    Gives (.leafArrival c l) s (if l.epoch ≠ dget s kJobEpoch then dcount s kEpochDrops 1
      else match l.ended with
        | some st => epochTry (leafEnds s c l.cls l.off st)
        | none => leafArrives s c l) :=
  gives_of_whenUp hup rfl (if_neg (by omega))

end

section
variable {s : State} {c : Nat}

theorem leafEnds_awaited {cls o st : Nat} (h : (ctxAt s c).awaits.contains (cls, o) = true) :
    leafEnds s c cls o st =
      (let t := modCtx s c (fun i => { i with awaits := i.awaits.erase (cls, o) })
       if st = stOk then t else markClass t c cls 4) :=
  if_pos h

theorem leafArrives_own {l : LeafMsg} (h : ownerOf (ctxAt s c) l.off = (ctxAt s c).ownIndex) :
    leafArrives s c l =
      (let r := leafEnter s c l.cls l.off l.digest l.poisoned
       { r.1 with colOut := r.1.colOut ++ [⟨l.src, c, l.epoch, .leafEnd l.cls l.off (if r.2 = true then stOk else stBounds)⟩] }) := by
  simp only [leafArrives, h, if_true]

theorem leafArrives_astray {l : LeafMsg} (h : ownerOf (ctxAt s c) l.off ≠ (ctxAt s c).ownIndex) :
    leafArrives s c l =
      (let t := dcount s kLeavesLost 1
       { t with colOut := t.colOut ++ [⟨l.src, c, l.epoch, .leafEnd l.cls l.off stBounds⟩] }) := by
  simp only [leafArrives, h, if_false]
  rfl

end

/-! ### Attachments (R436) -/

theorem land_ones64 (v : Word) : Nat.land v.toNat (2 ^ 64 - 1) = v.toNat :=
  (Nat.and_two_pow_sub_one_eq_mod v.toNat 64).trans (Nat.mod_eq_of_lt v.isLt)

theorem bitOf_toNat (v : Word) (n : Nat) : bitOf v.toNat n = v.getLsbD n := by
  rw [BitVec.getLsbD, Nat.testBit_eq_decide_div_mod_eq]
  rfl

/-- A write of the whole command word names a context, and takes its record where it asks for one and there is one. -/
theorem gives_attach {s : State} {a : Nat} (hup : s.up = true) (ha : a < 4096) (v : Word) :
    let k := v.toNat % 16
    Gives (.attach a v) s
      (if v.getLsbD 8 = true then
        if (ctxAt s k).state = 3 then
          modAttach s a (fun _ => { attachAt s a with context := k, valid := true, record := (ctxAt s k).record })
        else modAttach s a (fun _ => { attachAt s a with context := k, valid := false })
       else modAttach s a (fun _ => { attachAt s a with context := k })) := by
  refine gives_of_whenUp hup rfl ((if_pos ha).trans ?_)
  have command_written : Nat.land (2 ^ 64 - 1) 15 = 15 := by decide
  simp only [attachWrite, land_ones64, bitOf_toNat, command_written, if_true]

/-- Settles O37: each row of a context in the state in which it acts. -/
theorem colophonRows : Obligations.ColophonRows := by
  intro s c hup hc x own zero
  refine ⟨⟨fun ok => gives_contextOpen hup hc ((ctxOpenOk_iff s c).2 ok), fun bad => contextOpen_refused hup hc (mt (ctxOpenOk_iff s c).1 bad)⟩,
    ⟨fun h1 => gives_contextClose hup hc h1, fun h1 => gives_contextAbandon hup hc h1,
      fun h1 => ⟨contextClose_refused hup hc h1, contextAbandon_refused hup hc h1⟩⟩,
    fun h2 hd hl => gives_contextDrained hup hc h2 hd hl, fun dr h2 hl hs => ?seals,
    fun ps h2 hr hs hp => gives_contextRecordForm hup hc h2 hr hs hp, fun r h2 hr hl => gives_contextRecordReceive hup hc h2 hr hl,
    fun at_ ps h2 hr due => gives_closeRootTimeout hup hc h2 hr due, fun at_ h2 due => gives_closePackageTimeout hup hc h2 due,
    fun l hcls hd ho => ?leaf, fun a v ha => ?attach⟩
  case seals =>
    have row := gives_contextSeal hup hc h2 hl hs (dr := dr)
    exact ⟨fun other => gives_pos row other, fun root drained => gives_pos (gives_neg row (not_not.2 root)) drained,
      fun root waits => gives_neg (gives_neg row (not_not.2 root)) (ne_true_of_eq_false waits)⟩
  case leaf =>
    have row := gives_leafArrival hup hc hcls hd ho
    refine ⟨fun stale => gives_pos row stale, fun fresh => ?_⟩
    replace row := gives_neg row (not_not.2 fresh)
    refine ⟨fun st hst awaited => ?_, fun hn mine => ?_, fun hn other => ?_⟩
    · simpa only [hst, leafEnds_awaited awaited] using row
    · simpa only [hn, leafArrives_own mine] using row
    · simpa only [hn, leafArrives_astray other] using row
  case attach =>
    have row := gives_attach hup ha v
    exact ⟨fun unasked => gives_neg row (ne_true_of_eq_false unasked), fun asked closed => gives_pos (gives_pos row asked) closed,
      fun asked open_ => gives_neg (gives_pos row asked) open_⟩

end Sys2Proof.Colophons
end

section
/-! SUPPORT. The CXL host: decoders, accesses to memory, snoops of lines that the H-die caches, and DOE. -/
namespace Sys2Proof.CxlHost
open Sys2Proof Machine Config Safety Laws Scope Sys2Proof.Composition

/-! ### Decoders (R547) -/

section
variable {s : State} (hup : s.up = true) {k : Nat} (d : HdmDecoder)
include hup

theorem gives_hdmDecoderCommit (hk : k < 2) (hc : (hdmAt s k).committed = false) :
    Gives (.hdmDecoderCommit k d) s { s with cxl := { s.cxl with
      hdm := tblSet (fun _ => {}) s.cxl.hdm k ⟨d.base, d.size, d.ways, d.gran, d.dpa, hdmOk s k d, !hdmOk s k d⟩ } } :=
  gives_of_whenUp hup rfl (if_neg (by simp [hk, hc]))

theorem gives_hdmDecoderCommit_locked (hc : (hdmAt s k).committed = true) : Gives (.hdmDecoderCommit k d) s s :=
  gives_of_whenUp hup rfl (if_pos (by simp [hc]))

end

/-! ### CXL.mem (R361, R547) -/

/-- The host reads the 64 bytes at offset `o` of a line that is to be had. -/
def hostRead (t : State) (la o : Nat) : State :=
  let r := lineFrom t la hostOwner
  { r.1 with cxl := { r.1.cxl with resp := (r.2.1.drop o).take 64, respPoison := r.2.2 != 0 } }

/-- The bytes of a line that a 64-byte write at offset `o` enables. -/
def hostMask (o : Nat) (d : List Byte) (en : List Bool) : List (Option Byte) :=
  (List.range 128).map (fun i => if o ≤ i ∧ i < o + 64 ∧ en.getD (i - o) false = true then some (d.getD (i - o) 0) else none)

/-- The host writes a line that it owns, and reports a write that fails. -/
def hostWrite (t : State) (la : Nat) (bs : List (Option Byte)) (p : Bool) : State :=
  let w := writeLine (dirSet t la [] false) la bs p hostOwner
  if w.2 = true then { w.1 with cxl := { w.1.cxl with aer := w.1.cxl.aer + 1 } } else w.1

section
variable {s : State} (hup : s.up = true) {hpa : Nat}
include hup

theorem gives_cxlMemAccess_unmapped (hd : hdmDecode s hpa = none) (acc : CxlAccess) : Gives (.cxlMemAccess hpa acc) s s :=
  gives_of_whenUp hup rfl (by simp only [hd])

variable {a : Nat} (hd : hdmDecode s hpa = some a) (hf : stackFree s (stackOf s (a / 128 * 128)) = true)
  (hi : dirIdle s [(a / 128 * 128, 128)] = true)
include hd hf hi

/-- A read, for ownership too, is answered once the snoops of its line are. -/
theorem gives_cxlMemAccess_read (own : Bool) :
    let t := agentRead s (a / 128 * 128) (ownAgent s + 1) own hostOwner
    Gives (.cxlMemAccess hpa (if own = true then CxlAccess.readOwn else .read)) s
      (if dirIdle t [(a / 128 * 128, 128)] = false then t else hostRead t (a / 128 * 128) (a % 128 / 64 * 64)) := by
  refine gives_of_whenUp hup rfl ?_
  cases own <;> simp [hd, hf, hi, hostRead]

theorem gives_cxlMemAccess_write (d : List Byte) (en : List Bool) (p : Bool) :
    let t := agentRead s (a / 128 * 128) (ownAgent s + 1) true hostOwner
    Gives (.cxlMemAccess hpa (.write d en p)) s
      (if dirIdle t [(a / 128 * 128, 128)] = false then t else hostWrite t (a / 128 * 128) (hostMask (a % 128 / 64 * 64) d en) p) := by
  refine gives_of_whenUp hup rfl ?_
  simp [hd, hf, hi, hostWrite, hostMask, and_assoc]

end

/-! ### Snoops of the host (R548) -/

/-- A snooped line gives up what is modified: its words pass their check, and the answer has its bytes and its poison. -/
def snooped (s : State) (key : Nat) : State :=
  let l := hLine s key
  let u := if l.dirty then lineWords s key (List.range 16) else s
  { u with cxl := { u.cxl with resp := if l.dirty then l.bytes else [], respPoison := l.dirty && l.bad != 0 } }

section
variable {s : State} (hup : s.up = true) {line : Nat}
include hup

theorem gives_cxlCacheHostSnoop_absent (h : (hLine s (3 * 2 ^ 47 + line)).bytes = []) (inv : Bool) : Gives (.cxlCacheHostSnoop line inv) s s :=
  gives_of_whenUp hup rfl (if_pos (by rw [h]; rfl))

/-- A line that is held leaves, or stays as a clean and shared one. -/
theorem gives_cxlCacheHostSnoop_held (h : (hLine s (3 * 2 ^ 47 + line)).bytes ≠ []) (inv : Bool) :
    let key := 3 * 2 ^ 47 + line
    Gives (.cxlCacheHostSnoop line inv) s (if inv = true then hdieDrop (snooped s key) key
      else hdieMod (snooped s key) key (fun l => { l with dirty := false, excl := false })) :=
  gives_of_whenUp hup rfl (if_neg (by rwa [List.isEmpty_iff]))

end

/-! ### DOE (R549) -/

/-- What ends the answer to a request: that of a key exchange, the signature of the identity keys over its bytes. -/
def doeSignature (s : State) (b : List Byte) : DoeRequest → List Byte
  | .keyExchange _ => (List.range 384).map (signByte (dget s kIdentityPublicKeys) (leNat b) s.freeCount)
  | _ => []

/-- The package has answered a request, with bytes that are free and the signature. -/
def doeAnswered (s : State) (m : DoeRequest) : State :=
  let t := (freeBytes s 64).1
  { t with cxl := { t.cxl with doe := (freeBytes s 64).2 ++ doeSignature s (freeBytes s 64).2 m } }

/-- A key-management message reaches the key of its stream inside a session alone. -/
def ideKeySet (s u : State) (mem : Bool) (k : Option Nat) : State :=
  if s.cxl.session = false then u else if mem then { u with cxl := { u.cxl with ideMem := k } } else { u with cxl := { u.cxl with ideIo := k } }

theorem gives_doeSpdmRequest {s : State} (hup : s.up = true) (m : DoeRequest) :
    let u := doeAnswered s m
    Gives (.doeSpdmRequest m) s (match m with
      | .keyExchange ok => { u with cxl := { u.cxl with session := ok } }
      | .endSession => { u with cxl := { u.cxl with session := false } }
      | .ideKey mem k => ideKeySet s u mem (some (k % 2 ^ 256))
      | .ideStop mem => ideKeySet s u mem none
      | _ => u) := by
  refine gives_of_whenUp hup rfl ?_
  have shut : ((!s.cxl.session) = true) ↔ s.cxl.session = false := iff_of_eq (Bool.not_eq_true' _)
  cases m with
  | ideKey mem k => exact if_congr shut rfl rfl
  | ideStop mem => exact if_congr shut rfl rfl
  | _ => rfl

/-- Settles O50: each row of the host in the state in which it acts. -/
theorem cxlRows : Obligations.CxlRows := by
  refine fun s hup => ⟨fun k d hk => ⟨fun hc => gives_hdmDecoderCommit hup d hk hc, fun hc => gives_hdmDecoderCommit_locked hup d hc⟩,
    fun hpa acc hd => gives_cxlMemAccess_unmapped hup hd acc, fun hpa a hd => ?access, fun line => ?snoop, fun m => ?doe⟩
  case access =>
    intro la hf hi
    refine ⟨fun own => ?_, fun d en p => ?_⟩
    · have row := gives_cxlMemAccess_read hup hd hf hi own
      exact ⟨fun waits => gives_pos row waits, fun ready => gives_neg row (ne_false_of_eq_true ready)⟩
    · have row := gives_cxlMemAccess_write hup hd hf hi d en p
      exact ⟨fun waits => gives_pos row waits, fun ready => gives_neg row (ne_false_of_eq_true ready)⟩
  case snoop =>
    intro key l u t
    exact ⟨fun absent inv => gives_cxlCacheHostSnoop_absent hup absent inv, fun held =>
      ⟨gives_pos (gives_cxlCacheHostSnoop_held hup held true) rfl, gives_neg (gives_cxlCacheHostSnoop_held hup held false) Bool.false_ne_true⟩⟩
  case doe =>
    have row := gives_doeSpdmRequest hup m
    cases m <;> exact row

end Sys2Proof.CxlHost
end

section
/-! SUPPORT. The family of chapter 11: how the head of CQ enters its collective, is skipped, or meets an abort of its instance. -/
namespace Sys2Proof.Collectives
open Sys2Proof Machine Config Safety Laws Scope

/-! ### Taking a command from CQ (R380) -/

/-- Row `i` takes the collective commands of opcode `op`, of operator `rop` where one is given. -/
def IsCqRow (i : Nat → Instr) (op : Nat) (rop : Option Nat) : Prop := ∀ n s, exec (i n) s = whenUp s (collRow op rop n s)

/-- A row at a head of CQ gives what the take of its command makes, once the snoops for its reads have gone out (R361). -/
theorem gives_collTake {i : Nat → Instr} {op : Nat} {rop : Option Nat} {s0 s t : State} {e : Ex} (hi : IsCqRow i op rop) (hup : s0.up = true)
    (hs : s = cqPrep s0 e.n (collMine op rop)) (h : HeadAt .cq (collMine op rop) collBusy s e) (ht : collTake e (taken s e) = t) :
    Gives (i e.n) s0 t := by
  subst hs
  have ⟨_, _, _, _, _, _, own⟩ := h
  exact gives_of_whenUp hup (hi e.n s0) ((engineRow_at h collTake own).trans ht)

/-! ### The skips and the entry (R379, R381, R383, R399, R402) -/

/-- A command that a check skips keeps its place, and aborts the others, unless it is stale or not a member's of a valid group. -/
theorem collTake_skipped {e : Ex} {t : State} {st : Nat} (h : collSkip t e.n e.k e.x = some st) :
    collTake e t =
      if st = stEpochStale ∨ (collGroup t (qGroup e.x)).valid = false ∨ isMember (collGroup t (qGroup e.x)) e.n = false then
        collSkipEnd t e.k e.x st
      else peerSkipped t e.n e.k (qGroup e.x) e.x st := by
  simp only [collTake, h, Bool.or_eq_true, decide_eq_true_eq, Bool.not_eq_true', or_assoc]

/-- Abort `a` is of the collective that the head of CQ is to enter. -/
def abortsEntry (s : State) (e : Ex) (a : HeldAbort) : Bool :=
  a.g == qGroup e.x && a.inst == cqTakenOf (taken s e) e.n (qGroup e.x) && !a.solver

/-- A command that has entered ends with the abort `held` of its instance; with none it reserves staging. -/
def meetsAbort (u : State) (e : Ex) (held : Option HeldAbort) : State :=
  match held with
  | some a => collAbortEnd u e.n e.k e.x a.ar stCollAbort
  | none => reserveStaging u e.k e.x

section
variable {s : State} {e : Ex} (hc : collSkip (taken s e) e.n e.k e.x = none)
include hc

/-- The sizes that an ALLTOALLV reads can still skip it, with its place kept (R399). -/
theorem collTake_sizes_skip {st : Nat} (hr : (collRead0 s e).skip = some st) :
    collTake e (taken s e) = peerSkipped (collRead0 s e).s e.n e.k (qGroup e.x) e.x st := by
  rw [collRead0] at hr ⊢
  simp only [collTake, hc, hr]

variable (hr : (collRead0 s e).skip = none)
include hr

/-- A command that nothing skips enters its collective, and then meets the abort that is held of it, if any. -/
theorem collTake_entered {held : Option HeldAbort} (ha : (collEntered s e).collAborts.find? (abortsEntry s e) = held) :
    collTake e (taken s e) = meetsAbort (collEntered s e) e held := by
  subst ha
  rw [collRead0] at hr
  simp only [collTake, hc, hr]
  rfl

end

/-! ### The rows -/

/-- A row of CQ skips its command, enters its collective, or ends with the abort record that its instance has. -/
theorem collDoes_of_isCqRow {i : Nat → Instr} {op : Nat} {rop : Option Nat} (hi : IsCqRow i op rop) : CollDoes i op rop := by
  intro s0 s e hup hs head
  have row {t : State} : collTake e (taken s e) = t → Gives (i e.n) s0 t := gives_collTake hi hup hs head
  exact ⟨fun _ skipped => row (collTake_skipped skipped), fun clear => ⟨fun _ sizes => row (collTake_sizes_skip clear sizes),
    fun read => ⟨fun free => row (collTake_entered clear read free), fun _ aborted => row (collTake_entered clear read aborted)⟩⟩⟩

/-- Settles O30: each instruction listed is the row of CQ of its opcode, or of HBREDUCE and its operator. -/
theorem collectiveRows : Obligations.CollectiveRows := by
  refine ⟨fun p hp => collDoes_of_isCqRow ?_, fun p hp => collDoes_of_isCqRow ?_⟩
  all_goals
    revert p
    simp only [List.forall_mem_cons, List.not_mem_nil, false_imp_iff, implies_true, and_true]
    and_intros <;> exact fun _ _ => rfl

end Sys2Proof.Collectives
end

section
/-! SUPPORT. One step of the package, and what reset leaves (chapters 95 and 18): only three commands act on a package in reset, and entering
reset again changes nothing. -/
namespace Sys2Proof.Steps
open Sys2Proof Machine Config Safety Laws Scope

/-- Settles O1, by the definition of a step. -/
theorem stepRunsFrontCommand : Obligations.StepRunsFrontCommand := by
  intro c t s waiting
  rw [step, waiting]

/-- Settles O2: an empty queue idles, out of reset by one edge of the clock. -/
theorem stepIdles : Obligations.StepIdles := by
  intro s nothing
  have idles : step s = .next (idle s) := by rw [step, nothing]
  exact ⟨fun up => by simp [idles, idle, up], fun off => by simp [idles, idle, off]⟩

/-! ### In reset -/

/-- Settles O5: but for the three commands named every row answers through `whenUp`; readings trip no package that is in reset. -/
theorem resetHoldsThePackage : Obligations.ResetHoldsThePackage := by
  intro i s off notPower notVin notRst
  cases i with
  | powerUpResetRelease p b => exact absurd rfl (notPower p b)
  | vin48UnderVoltage ns => exact absurd rfl (notVin ns)
  | pkgrstNAssert ns => exact absurd rfl (notRst ns)
  | sensorReading r at_ => exact (if_neg (by simp [off])).trans (whenUp_off off _)
  | _ => exact whenUp_off off _

/-- The entries that reset keeps. -/
def keptEntries : List Nat :=
  [kAssetTag, kBundleSeq, kHdieWaysDisabled, kBootMinVersion, kOwnerState, kOwnerKeys, kOwnerKeyDigest, kPartNumber, kSerial, kMacAddress,
   kManufactureDay, kPolbexKeyDigest, kIdentityPublicKeys]

/-- A table into which the keys of a list are written reads as written at these keys, and as before elsewhere. -/
theorem tblGet_foldl_tblSet (d f : Nat → Nat) (l : List Nat) (t : Tbl Nat) (k : Nat) :
    tblGet d (l.foldl (fun t j => tblSet d t j (f j)) t) k = if k ∈ l then f k else tblGet d t k := by
  induction l generalizing t with
  | nil => simp
  | cons j l ih =>
    rw [List.foldl_cons, ih]
    by_cases later : k ∈ l
    · simp [later]
    · by_cases here : k = j
      · simp [here]
      · simp [later, here, tblGet_tblSet_other _ _ _ _ _ here]

theorem dget_enterReset {k : Nat} (kept : k ∈ keptEntries) (s : State) : dget (enterReset s) k = dget s k :=
  (tblGet_foldl_tblSet dictDflt (dget s) keptEntries [] k).trans (if_pos kept)

theorem resetDict_enterReset (s : State) : resetDict (enterReset s) = resetDict s :=
  List.foldl_ext _ _ _ (fun t k (kept : k ∈ keptEntries) => by rw [dget_enterReset kept])

/-- Entering reset in reset changes nothing. -/
theorem enterReset_enterReset (s : State) : enterReset (enterReset s) = enterReset s := by
  conv_lhs => rw [enterReset, resetDict_enterReset]
  simp [enterReset]

theorem off_enterReset (s : State) : Off (enterReset s) := fun _ => enterReset_enterReset s

/-- Settles O7: right after reset release the package is out of reset. -/
theorem offHoldsAtReset : Obligations.OffHoldsAtReset := ⟨fun inReset => absurd inReset (by decide), off_enterReset⟩

/-! ### The invariant -/

/-- A row that answers through `whenUp` leaves a package that is in reset after it as it was. -/
theorem whenUp_stays {s t u : State} (row : whenUp s u = .next t) (off : t.up = false) : t = s := by
  obtain ⟨-, -, sameUp, -⟩ := whenUp_keeps row
  rw [whenUp_off (sameUp ▸ off)] at row
  exact (Host.Outcome.next.inj row).symm

/-- A row that enters reset on a condition. -/
theorem enters_or_stays {c : Prop} [Decidable c] {s t u : State}
    (row : (.next (if c then enterReset u else s) : Host.Outcome State Fault Refusal) = .next t) : t = s ∨ ∃ u, t = enterReset u := by
  obtain rfl := Host.Outcome.next.inj row
  split
  · exact .inr ⟨u, rfl⟩
  · exact .inl rfl

/-- After any command a package in reset is as it was, or has just entered reset. -/
theorem exec_reset {i : Instr} {s t : State} (row : exec i s = .next t) (off : t.up = false) : t = s ∨ ∃ u, t = enterReset u := by
  cases i with
  | powerUpResetRelease p b =>
    by_cases stays : (s.up || s.tripped) = true
    · exact .inl ((Host.Outcome.next.inj row).symm.trans (if_pos stays))
    · obtain ⟨inReset, noTrip⟩ : s.up = false ∧ s.tripped = false := by simpa using stays
      obtain ⟨d, released⟩ := Composition.powerUpResetRelease_next inReset noTrip p b
      obtain rfl := Host.Outcome.next.inj (row.symm.trans released)
      cases off
  | vin48UnderVoltage ns => exact enters_or_stays row
  | pkgrstNAssert ns => exact enters_or_stays row
  | sensorReading r at_ =>
    rw [exec, execSensorReading] at row
    split at row
    · exact .inr ⟨_, (Host.Outcome.next.inj row).symm⟩
    · exact .inl (whenUp_stays row off)
  | _ => exact .inl (whenUp_stays row off)

/-- Waiting commands are no part of what reset leaves. -/
theorem off_pending {s : State} (h : Off s) (l : List Instr) : Off { s with pending := l } :=
  fun off => congrArg (fun u : State => { u with pending := l }) (h off)

/-- Settles O6: a package in reset after a step was so before it, or has entered reset in it. -/
theorem offIsInvariant : Obligations.OffIsInvariant := by
  intro s t held row off
  cases waiting : s.pending with
  | nil =>
    obtain ⟨edge, still⟩ := stepIdles s waiting
    cases up : s.up with
    | true =>
      obtain rfl := Host.Outcome.next.inj (row.symm.trans (edge up))
      exact absurd (up.symm.trans off) (by decide)
    | false =>
      obtain rfl := Host.Outcome.next.inj (row.symm.trans (still up))
      exact held off
  | cons c l =>
    rw [stepRunsFrontCommand c l s waiting] at row
    obtain rfl | ⟨u, rfl⟩ := exec_reset row off
    · exact off_pending held l off
    · exact off_enterReset u off

end Sys2Proof.Steps
end

section
/-! SUPPORT. The family of chapter 13: readings, the budget, thermal emergencies, power domains and the time base. -/
namespace Sys2Proof.Power
open Sys2Proof Machine Config Safety Laws Scope Sys2Proof.Composition

section
variable {s : State} (hup : s.up = true)
include hup

/-- A set of readings that trips nothing (R444, R450, R451). -/
theorem sensorReading_gives {r : Reading} (cool : r.temp.any (fun p => 1250 ≤ p.2) = false) (at_ : Nat) :
    Gives (.sensorReading r at_) s
      (holdReading (r.temp.foldl tempReading (r.power.foldl powerReading (monSample (p10Reading (atTime s at_) r.p10) 0x14 0 0 r.p10)))) :=
  (if_neg (by simp [cool])).trans (whenUp_up hup _)

/-! ### Thermal emergencies -/

/-- A step of an emergency, 20 µs after the last at or above the limit (R451). -/
theorem thermalEmergencyStep_gives {d at_ : Nat} {t : State} (ht : t = atTime s at_) (em : (domAt t d).em = true)
    (hot : tLimit t ≤ (domAt t d).temp) (late : (domAt t d).stepAt + 20000 ≤ timeNs t) :
    Gives (.thermalEmergencyStep d at_) s
      (if (domAt t d).vstep = 0 then (if d < 400 then modDom t d (fun x => { x with held := true }) else t)
       else modDom (setVstep t d ((domAt t d).vstep - 2)) d (fun x => { x with stepAt := timeNs t })) := by
  refine gives_of_whenUp hup rfl ?_
  rw [← ht]
  exact if_neg (by simp [em, hot, late])

/-- An emergency ends 100 µs after its domain has cooled; a solve held by it goes on (R452). -/
theorem thermalEmergencyEnd_gives {d at_ t0 : Nat} {t : State} (ht : t = atTime s at_) (em : (domAt t d).em = true)
    (cool : (domAt t d).coolFrom = some t0) (late : t0 + 100000 ≤ timeNs t) :
    let u := modDom (if 400 ≤ d then setVstep t d 3 else t) d (fun x => { x with em := false, held := false, coolFrom := none })
    Gives (.thermalEmergencyEnd d at_) s (if 336 ≤ d ∧ d < 400 then seResume u (d - 336) else u) := by
  refine gives_of_whenUp hup rfl ?_
  rw [← ht]
  simp [em, cool, late]

/-! ### Power domains -/

/-- What a domain does that is ON and has been idle for RETAIN_DELAY, by its kind (R441). -/
theorem domainRetainEntry_gives {d at_ : Nat} {t : State} (ht : t = atTime s at_) (delay : dget t kRetainDelay ≠ 0) (zeroed : t.zeroing = false)
    (on : (domAt t d).st = 2) (late : (domAt t d).idleFrom + dget t kRetainDelay ≤ timeNs t) :
    Gives (.domainRetainEntry d at_) s
      (if d < 336 then (if (!clusterIdle t d) = true then t else modDom t d (fun x => { x with st := if (clusterCores t d).isEmpty then 0 else 1 }))
       else if d < 400 then (if engineWanted t (d - 336) = true then t else modDom t d (fun x => { x with st := 1 }))
       else t) := by
  refine gives_of_whenUp hup rfl ?_
  rw [← ht]
  exact if_neg (by simp [delay, zeroed, on, late])

theorem domainWake_gives {d : Nat} (wake : wakeCause s d = true) (off : (domAt s d).st ≠ 2) :
    Gives (.domainWake d) s (dcount (modDom s d (fun x => { x with st := 2, idleFrom := timeNs s })) kDomainWakes 1) :=
  gives_of_whenUp hup rfl ((if_pos wake).trans (if_neg off))

/-- A write of HOST_DOMAINS_OFF that the dictionary serves (R458). -/
theorem hostDomainsOffWrite_gives (open_ : dictOpen s = true) (v : BitVec 16) (h : Option Nat) :
    Gives (.hostDomainsOffWrite v h) s (if hostDomainsOk s v.toNat h = true then hostDomains s (v.toNat % 1024) else s) :=
  gives_of_whenUp hup rfl (if_pos open_)

/-! ### The time base -/

/-- The clock without network time for 2 s (R456). -/
theorem timeHoldoverEntry_gives {at_ : Nat} {t : State} (ht : t = atTime s at_) (tracked : dget t kTimeState = 1 ∨ dget t kTimeState = 2)
    (late : t.lastSync + 2000000000 ≤ timeNs t) : Gives (.timeHoldoverEntry at_) s (dset t kTimeState 3) := by
  refine gives_of_whenUp hup rfl ?_
  rw [← ht]
  exact if_pos (by simp [tracked, late])

end

/-- Settles O39: each row where it acts. -/
theorem powerRows : Obligations.PowerRows := by
  intro s hup
  refine ⟨fun r at_ cool => sensorReading_gives hup cool at_, fun open_ zeroed => gives_of_whenUp hup rfl (if_neg (by simp [open_, zeroed])),
    fun d at_ => gives_of_whenUp hup rfl rfl, fun d at_ em hot late => ?_, fun d at_ t0 em cool late => thermalEmergencyEnd_gives hup rfl em cool late,
    fun d at_ delay zeroed on cluster late idle => ?_, fun d at_ delay zeroed on low high late => ?_,
    fun d wake off => domainWake_gives hup wake off,
    fun v h => ⟨fun open_ ok => ?_, fun open_ bad => ?_, fun shut => gives_of_whenUp hup rfl (if_neg (by simp [shut]))⟩,
    fun at_ tracked late => timeHoldoverEntry_gives hup rfl tracked late⟩
  · have row := thermalEmergencyStep_gives hup rfl em hot late
    exact ⟨fun lowest near => gives_pos (gives_pos row lowest) near, fun higher => gives_neg row higher⟩
  · have row := domainRetainEntry_gives hup rfl delay zeroed on late
    exact gives_neg (gives_pos row cluster) (by simp [idle])
  · have row := gives_pos (gives_neg (domainRetainEntry_gives hup rfl delay zeroed on late) (Nat.not_lt.2 low)) high
    exact ⟨fun unwanted => gives_neg row (by simp [unwanted]), fun wanted => gives_pos row wanted⟩
  · exact gives_pos (hostDomainsOffWrite_gives hup open_ v h) ok
  · exact gives_neg (hostDomainsOffWrite_gives hup open_ v h) (by simp [bad])

/-- What a frame of network time measures: the entries that it sets (R455, R456). -/
def timeMeasured (t : State) (o : Int) : State :=
  dset (dset { t with lastSync := timeNs t } kTimeOffsetNs (i64 o)) kTimeState (if o.natAbs ≤ 1000 then 1 else 2)

theorem phase_timeMeasured (t : State) (o : Int) : phase (timeMeasured t o) = phase t := by
  rw [phase, timeMeasured, dget_dset_other _ _ _ (by decide), dget_dset_other _ _ _ (by decide)]
  rfl

/-- The amount of a slew is a free value, below 100 ppm of the increment of TIME (R455). -/
def slewBy (u : State) (o : Int) : Nat := if o = 0 then 0 else (freeNat u 4).2 % 4294968

theorem slewBy_le (u : State) (o : Int) : slewBy u o ≤ 10 * 2 ^ 32 / 10000 := by
  unfold slewBy
  split
  · exact Nat.zero_le _
  · exact Nat.le_of_lt_succ (Nat.mod_lt _ (by decide))

/-- Settles O40: the frame is far ahead in IDLE, and TIME steps, or it is slewed. -/
theorem timeSyncRow : Obligations.TimeSyncRow := by
  intro s o at_ hup t u
  have same : phase u = phase s := phase_timeMeasured t o
  refine ⟨fun idle ahead => gives_of_whenUp hup rfl (if_pos ?_),
    fun slews => ⟨slewBy u o, slewBy_le u o, gives_of_whenUp hup rfl (if_neg ?_)⟩⟩
  · show (decide (phase u = phIdle) && decide (1000000 < o)) = true
    simp [same, idle, ahead]
  · show ¬(decide (phase u = phIdle) && decide (1000000 < o)) = true
    simpa [same, Classical.or_iff_not_imp_left] using slews

end Sys2Proof.Power
end

section
/-! SUPPORT. The family of chapter 14: the error log, proof passes and core sparing, monitors, and the records of the package's life. -/
namespace Sys2Proof.Checks
open Sys2Proof Machine Config Safety Laws Scope Sys2Proof.Composition

/-! ### The error log -/

/-- A count changes the dictionary alone. -/
theorem dcount_dict (s : State) (k n : Nat) : ∃ d, dcount s k n = { s with dict := d } := by
  unfold dcount
  split
  · exact ⟨s.dict, rfl⟩
  · exact ⟨_, rfl⟩

/-- An entry of the error log is the next one, and the error is counted (R463, R464). -/
theorem errEntry_eq (s : State) (cls unit detail outcome : Nat) : ∃ d, errEntry s cls unit detail outcome =
    { s with
      errLog := tblSet errDflt s.errLog (s.errCount % 1024) ⟨timeNs s, cls, outcome, unit, detail, s.errCount % 2 ^ 32⟩
      errCount := s.errCount + 1, dict := d } := by
  unfold errEntry
  extract_lets i s1 s2
  obtain ⟨d, counted⟩ : ∃ d, s2 = { s1 with dict := d } := dcount_dict s1 _ _
  split
  · obtain ⟨d', again⟩ := dcount_dict s2 kErrorLogOverwrites 1
    exact ⟨d', by rw [again, counted]⟩
  · exact ⟨d, counted⟩

/-- Settles O46: the pass of the unit is due already, or it becomes so. -/
theorem detectedErrorsAreLogged : Obligations.DetectedErrorsAreLogged := by
  intro s cls unit detail u t due
  obtain ⟨d, joined⟩ := errEntry_eq s cls unit detail 4
  obtain ⟨d', pending⟩ := errEntry_eq s cls unit detail 0
  cases isDue : due with
  | true =>
    have detected : t = errEntry s cls unit detail 4 := if_pos isDue
    rw [detected, joined]
    exact ⟨rfl, tblGet_tblSet_same _ _ _ _, rfl, rfl, rfl⟩
  | false =>
    have detected : t = { errEntry s cls unit detail 0 with proofs := s.proofs ++ [(u, s.errCount)] } := if_neg (ne_true_of_eq_false isDue)
    rw [detected, pending]
    exact ⟨rfl, tblGet_tblSet_same _ _ _ _, rfl, rfl, rfl⟩

/-! ### Proof passes -/

section
variable {s : State} {u : ProofUnit}

theorem passOpen_sound (due : passDue s u = true) : passOpen s u false = true := by simp [passOpen, due]

theorem passOpen_faulty (due : passDue s u = true) (changes : recordsSafe s = false) : passOpen s u true = true := by
  simp [passOpen, due, changes]

/-- A pass that finds a lasting fault waits while the records are SAFE (R481). -/
theorem passOpen_safe (safe : recordsSafe s = true) : passOpen s u true = false := by simp [passOpen, safe]

end

section
variable {s : State} (hup : s.up = true) {faulty : Bool}
include hup

/-- The row of a bank is tested, and a faulty one is spared or blocked (R466, R469). -/
theorem stackBankProofPass_gives {st row : Nat} (its : row / 2 ^ 23 / 32 = st) (open_ : passOpen s (.bank (row / 2 ^ 23)) faulty = true) :
    let b := ProofUnit.bank (row / 2 ^ 23)
    let r := takeSpare s (spareBank (row / 2 ^ 23)) 16
    Gives (.stackBankProofPass st row faulty) s (if (!faulty) = true then passFound s b 1 0 (nmuCoord s st) 0
      else if r.2 = true then passFound r.1 b 2 0x07 (nmuCoord s st) (row % 2 ^ 23)
      else passFound (blockRow s row) b 3 0x08 (nmuCoord s st) (row % 2 ^ 23)) :=
  gives_of_whenUp hup rfl (if_neg (by rw [open_, its]; simp))

theorem stackBankProofPass_waits {st row : Nat} (safe : recordsSafe s = true) : exec (.stackBankProofPass st row true) s = .next s :=
  exec_unchanged hup rfl (if_pos (by simp [passOpen_safe safe]))

/-- The macro of a core at its boundary is tested in its cluster woken for it, and a faulty row is spared or the core marked (R441, R466). -/
theorem coreStoreMacroProofPass_gives {n k m : Nat} (held : keyOf s n = some k) (below : m < 16) (rests : (coreAt s k).run = none)
    (open_ : passOpen s (.sram (16 * k + m)) faulty = true) :
    let u := ProofUnit.sram (16 * k + m)
    let t := touchCore s k
    let r := takeSpare t (spareSram k m) 4
    Gives (.coreStoreMacroProofPass n m faulty) s (if (!faulty) = true then passFound t u 1 0 (coreCoord t k) 0
      else if r.2 = true then passFound (freeNat r.1 1).1 u 2 0x07 (coreCoord t k) (freeNat r.1 1).2
      else passFound (markCore t k) u 3 0 (coreCoord t k) 0) := by
  refine gives_of_whenUp hup rfl ?_
  rw [held]
  exact if_neg (by simp [open_, rests, below])

/-- A core at its boundary is tested in its cluster woken for it, and marked if it is faulty (R441, R466). -/
theorem coreProofPass_gives {n k : Nat} (held : keyOf s n = some k) (rests : (coreAt s k).run = none)
    (open_ : passOpen s (.core k) faulty = true) :
    let t := touchCore s k
    Gives (.coreProofPass n faulty) s (if (!faulty) = true then passFound t (.core k) 1 0 (coreCoord t k) 0
      else passFound (markCore t k) (.core k) (if (usableSpares t (k / 1344)).isEmpty then 3 else 2) 0 (coreCoord t k) 0) := by
  refine gives_of_whenUp hup rfl ?_
  rw [held]
  exact if_neg (by simp [open_, rests])

theorem portProofPass_gives {p : Nat} (due : passDue s (.port p) = true) (f : Bool) : Gives (.portProofPass p f) s (passFound s (.port p)
    (if f = false then 1 else if portSt s p = 3 then 3 else 2) 0 (unitCoord s (portFd p) 0x7E0) 0) := by
  refine gives_of_whenUp hup rfl ((if_neg (by simp [due])).trans ?_)
  cases f <;> rfl

/-- The macro of an F-die, with the error that its row brings where none made its pass due (R462, R466). -/
theorem fdieMacroProofPass_gives {fd m : Nat} (below : fd < 2) {t : State}
    (ht : t = if passDue s (.fdieMacro (2 * m + fd)) = true then s else detect s 0x0B (unitCoord s fd 0x7E0) m (.fdieMacro (2 * m + fd)))
    (open_ : passOpen t (.fdieMacro (2 * m + fd)) faulty = true) :
    let u := ProofUnit.fdieMacro (2 * m + fd)
    let co := unitCoord s fd 0x7E0
    let r := takeSpare t (spareFdie (2 * m + fd)) 4
    Gives (.fdieMacroProofPass fd m faulty) s (if (!faulty) = true then passFound t u 1 0 co 0
      else if r.2 = true then passFound (freeNat r.1 1).1 u 2 0x07 co (freeNat r.1 1).2
      else passFound { t with banksOff := insNat (2 * m + fd) t.banksOff } u 3 0x0D co m) := by
  subst ht
  exact gives_of_whenUp hup rfl ((if_neg (Nat.not_le.2 below)).trans (if_neg (by simp [open_])))

/-- The lines of a cache way flushed for its pass (R534). -/
def wayFlushed (t : State) (u : ProofUnit) : State :=
  t.hcache.foldl (fun s x => if wayUnit x.1 x.2.way = u then hEvict s x.1
    else hdieMod s x.1 (fun l => { l with near := l.near.filter (fun c => wayUnit x.1 c.way != u) })) t

/-- A cache way, with the error that its row brings where none made its pass due: it is flushed, tested, and disabled if it fails (R534). -/
theorem hdieWayProofPass_gives {half way : Nat} (isHalf : half < 66) (isWay : way < 16)
    (on : bitOf (dget s kHdieWaysDisabled) (16 * half + way) = false) {t : State}
    (ht : t = if passDue s (.hdieWay (16 * half + way)) = true then s
      else detect s 0x0C (unitCoord s 0 0x7F0) (16 * half + way) (.hdieWay (16 * half + way)))
    (open_ : passOpen t (.hdieWay (16 * half + way)) faulty = true) :
    let b := 16 * half + way
    let co := unitCoord s 0 0x7F0
    let u := wayFlushed t (.hdieWay b)
    Gives (.hdieWayProofPass half way faulty) s (if (!faulty) = true then passFound u (.hdieWay b) 1 0 co 0
      else passFound (dset u kHdieWaysDisabled (dget u kHdieWaysDisabled + 2 ^ b)) (.hdieWay b) 3 0x0D co b) := by
  subst ht
  exact gives_of_whenUp hup rfl ((if_neg (by simp [isHalf, isWay, on])).trans (if_neg (by simp [open_])))

/-- A pass that has found its outcome ends with it in the error log (R464, R465). -/
theorem proofPassComplete_gives {u : ProofUnit} {e : ProofEnd} {p : ProofUnit × Nat} (found : s.proofDone.find? (fun p => p.unit == u) = some e)
    (logged : s.proofs.find? (fun p => p.1 == u) = some p) :
    let t := { s with proofDone := s.proofDone.filter (fun q => q.unit != u), proofs := s.proofs.filter (fun q => q.1 != u) }
    let v := countPass (errOutcome t p.2 e.outcome) e.outcome
    Gives (.proofPassComplete u) s (if e.event = 0 then v else calEvent v e.event e.coord e.detail) := by
  refine gives_of_whenUp hup rfl ?_
  simp only [found, logged]

/-! ### Core sparing -/

theorem coreSparing_waits {n k : Nat} (held : keyOf s n = some k) (bad : List Nat) (h : sparingYields s n k = true ∨ recordsSafe s = true) :
    exec (.coreSparing n bad) s = .next s := by
  refine exec_unchanged hup rfl ?_
  rw [held]
  exact if_pos (by simpa [or_assoc] using .inr h)

section
variable {n k : Nat} (held : keyOf s n = some k) {bad : List Nat} (due : sparingDue s n = true) (first : sparingYields s n k = false)
  (changes : recordsSafe s = false)
include held due first changes

/-- The spares that fail their own pass are retired, and the core moves to the one after them (R471). -/
theorem coreSparing_moves {p : Nat} {l : List Nat} (good : (usableSpares s (k / 1344)).dropWhile (fun p => bad.contains p) = p :: l) :
    Gives (.coreSparing n bad) s (spareTo (((usableSpares s (k / 1344)).takeWhile (fun p => bad.contains p)).foldl
      (fun s p => retireSpare s (1344 * (k / 1344) + p)) s) n k p) := by
  refine gives_of_whenUp hup rfl ?_
  simp only [held, good]
  exact if_neg (by simp [due, first, changes])

/-- All fail it, and the core goes out of service (R473). -/
theorem coreSparing_fails (noneGood : (usableSpares s (k / 1344)).dropWhile (fun p => bad.contains p) = []) :
    Gives (.coreSparing n bad) s (outOfService (((usableSpares s (k / 1344)).takeWhile (fun p => bad.contains p)).foldl
      (fun s p => retireSpare s (1344 * (k / 1344) + p)) s) n k) := by
  refine gives_of_whenUp hup rfl ?_
  simp only [held, noneGood]
  exact if_neg (by simp [due, first, changes])

end
end

/-- Settles O45: each pass by what it finds, where it is due and may find it. -/
theorem proofPassRows : Obligations.ProofPassRows := by
  intro s hup
  refine ⟨fun st row its due => ?_, fun n k m held below due rests => ?_, fun n k held due rests => ?_,
    fun p f due => portProofPass_gives hup due f, fun fd m below due => ?_, fun half way isHalf isWay on due => ?_,
    fun u e p found logged => proofPassComplete_gives hup found logged, fun n k bad held due => ?_⟩
  · exact ⟨gives_pos (stackBankProofPass_gives hup its (passOpen_sound due)) rfl, fun safe => stackBankProofPass_waits hup safe,
      fun changes => gives_neg (stackBankProofPass_gives hup its (passOpen_faulty due changes)) (by decide)⟩
  · exact ⟨gives_pos (coreStoreMacroProofPass_gives hup held below rests (passOpen_sound due)) rfl,
      fun changes => gives_neg (coreStoreMacroProofPass_gives hup held below rests (passOpen_faulty due changes)) (by decide)⟩
  · exact ⟨gives_pos (coreProofPass_gives hup held rests (passOpen_sound due)) rfl,
      fun changes => gives_neg (coreProofPass_gives hup held rests (passOpen_faulty due changes)) (by decide)⟩
  · exact ⟨gives_pos (fdieMacroProofPass_gives hup below rfl (passOpen_sound due)) rfl,
      fun changes => gives_neg (fdieMacroProofPass_gives hup below rfl (passOpen_faulty due changes)) (by decide)⟩
  · exact ⟨gives_pos (hdieWayProofPass_gives hup isHalf isWay on rfl (passOpen_sound due)) rfl,
      fun changes => gives_neg (hdieWayProofPass_gives hup isHalf isWay on rfl (passOpen_faulty due changes)) (by decide)⟩
  · exact ⟨coreSparing_waits hup held bad, fun first changes => ⟨fun p l good => coreSparing_moves hup held due first changes good,
      fun noneGood => coreSparing_fails hup held due first changes noneGood⟩⟩

/-! ### Histogram monitors -/

/-- Changes of a monitor that make the same of it as it stands. -/
theorem modMon_congr {s : State} {m : Nat} {f g : Mon → Mon} (same : f (monAt s m) = g (monAt s m)) : modMon s m f = modMon s m g := by
  unfold modMon tblMod
  exact congrArg (fun x => { s with mons := tblSet (fun _ => {}) s.mons m x }) same

/-- One window has ended: its accumulators are the result (R475). -/
theorem monRoll_one {now : Nat} {x : Mon} (counts : x.window ≠ 0) (ended : (now - x.start) / x.window = 1) :
    monRoll now x =
      { x with res := x.acc, resStart := x.start, resEnd := x.start + (now - x.start) / x.window * x.window, acc := {},
               start := x.start + (now - x.start) / x.window * x.window } := by
  simp [monRoll, counts, ended]

/-- Several have ended, the last of them empty (R475). -/
theorem monRoll_more {now : Nat} {x : Mon} (counts : x.window ≠ 0) (ended : 2 ≤ (now - x.start) / x.window) :
    monRoll now x =
      { x with res := {}, resStart := x.start + (now - x.start) / x.window * x.window - x.window,
               resEnd := x.start + (now - x.start) / x.window * x.window, acc := {},
               start := x.start + (now - x.start) / x.window * x.window } := by
  have some_ : (now - x.start) / x.window ≠ 0 := by omega
  have several : (now - x.start) / x.window ≠ 1 := by omega
  unfold monRoll
  rw [if_neg (by simp [counts, some_]), if_neg several]

/-- What a commit of calendar entries writes: counts and wear stay as last committed (R477). -/
def calendarRecords (s : State) : Nvm :=
  match nvmNewer s with
  | some o => { records s false with seconds := o.seconds, wear := o.wear, errs := o.errs }
  | none => { records s false with seconds := 0, wear := [], errs := [] }

section
variable {s : State} (hup : s.up = true)
include hup

theorem monitorWindowLatch_gives {m : Nat} (its : m < 512) (at_ : Nat) {f : Mon → Mon}
    (rolls : monRoll (timeNs (atTime s at_)) (monAt (atTime s at_) m) = f (monAt (atTime s at_) m)) :
    Gives (.monitorWindowLatch m at_) s (modMon (atTime s at_) m f) :=
  gives_of_whenUp hup rfl ((if_neg (Nat.not_le.2 its)).trans (modMon_congr rolls))

theorem monitorRestart_gives {m : Nat} (its : m < 512) (open_ : dictOpen s = true) (w : MonWrite) : Gives (.monitorRestart m w) s (monWrite s m w) :=
  gives_of_whenUp hup rfl ((if_pos its).trans (dictWrite_open open_ _ _ _))

theorem monitorRestart_held {m : Nat} (its : m < 512) (shut : dictOpen s = false) (w : MonWrite) :
    Gives (.monitorRestart m w) s { s with rxq := s.rxq ++ [.entry (monKey m w).1 (monKey m w).2 none] } :=
  gives_of_whenUp hup rfl ((if_pos its).trans (dictWrite_shut shut _ _ _))

theorem monitorOccupancySample_gives (at_ : Nat) : let t := atTime s at_
    Gives (.monitorOccupancySample at_) s (if timeNs t < t.occAt + 1000 then t
      else s.mons.foldl (fun u m => match occupancy u m.2.source with
        | some v => modMon u m.1 (fun x => monSampled (timeNs u) x v)
        | none => u) { t with occAt := timeNs t }) :=
  gives_of_whenUp hup rfl rfl

/-! ### The records of the package's life -/

omit hup in
theorem calendarRecords_none (invalid : nvmNewer s = none) :
    calendarRecords s = { records s false with seconds := 0, wear := [], errs := [] } := by
  rw [calendarRecords, invalid]

omit hup in
theorem calendarRecords_some {o : Nvm} (newer : nvmNewer s = some o) :
    calendarRecords s = { records s false with seconds := o.seconds, wear := o.wear, errs := o.errs } := by
  rw [calendarRecords, newer]

/-- The commit of every 10 minutes (R477). -/
theorem lifetimeCommit_gives {at_ : Nat} {t : State} (ht : t = atTime s at_) (open_ : recordsOpen t = true)
    (due : t.countsAt + 600000000000 ≤ timeNs t) :
    Gives (.lifetimeCommit at_) s (nvmWrite { t with countsAt := timeNs t } (records t false)) := by
  refine gives_of_whenUp hup rfl ?_
  rw [← ht]
  exact if_neg (by simp [open_, due])

theorem calendarCommit_gives {at_ : Nat} {t : State} (ht : t = atTime s at_) (open_ : recordsOpen t = true) (due : t.calDone < t.calSeq) :
    Gives (.calendarCommit at_) s (nvmWrite t (calendarRecords t)) := by
  refine gives_of_whenUp hup rfl ?_
  rw [← ht]
  exact if_neg (by simp [open_, due])

/-- A write of SHUTDOWN that the dictionary serves (R481). -/
theorem shutdown_gives {at_ : Nat} {t : State} (ht : t = atTime s at_) (open_ : dictOpen t = true) (v : Nat) :
    Gives (.shutdown v at_) s (if phase t = phIdle ∧ v = 1 then shutdownAct t else t) := by
  refine gives_of_whenUp hup rfl ?_
  rw [← ht]
  refine (dictWrite_open open_ _ _ _).trans ?_
  by_cases accepted : phase t = phIdle ∧ v = 1
  · rw [if_pos accepted]
    exact if_neg (by simp [accepted])
  · rw [if_neg accepted]
    exact if_pos (by simpa [Classical.or_iff_not_imp_left] using accepted)

theorem lifetimeLoadDone_gives : Gives .lifetimeLoadDone s (fovisPump (lifetimeLoad s)) := gives_of_whenUp hup rfl rfl

end

/-- Outside RUNNING and FAULT a shutdown changes no record (R481). -/
theorem shutdownAct_closed {s : State} (closed : recordsOpen s = false) : shutdownAct s = s := if_pos (by simp [closed])

theorem shutdownAct_open {s : State} (open_ : recordsOpen s = true) :
    let u := calEvent s 0x02 (unitCoord s 0 0x7F0) 0
    shutdownAct s = dset (nvmWrite { u with countsAt := timeNs u } (records u true)) kLifetimeState 2 := if_neg (by simp [open_])

/-- With no valid copy the records start from zero, and the end of the load leaves FAULT (R481). -/
theorem lifetimeLoad_none {s : State} (loading : dget s kLifetimeState = 0) (invalid : nvmNewer s = none) :
    lifetimeLoad s = dset ((earlyEvents s).foldl (calAgain 0) { s with powerCycle := 1, cal := [], calSeq := 0 }) kLifetimeState 3 := by
  simp [lifetimeLoad, loading, invalid]

/-- The records of a copy taken over, with an unclean end entered in the calendar (R481). -/
def takenOver (s : State) (r : Nvm) : State :=
  let t := loadRecords s r
  let u := { t with nvmA := { t.nvmA with safe := false }, nvmB := { t.nvmB with safe := false } }
  if r.safe = true then u else calEvent u 0x03 (unitCoord u 0 0x7F0) (r.seconds % 2 ^ 32)

/-- The newer valid copy is taken over, and the power-up entered (R481). -/
theorem lifetimeLoad_some {s : State} {r : Nvm} (loading : dget s kLifetimeState = 0) (newer : nvmNewer s = some r) :
    lifetimeLoad s = dset ((earlyEvents s).foldl (calAgain r.seconds)
      (calEvent (takenOver s r) 0x01 (unitCoord (takenOver s r) 0 0x7F0) 0)) kLifetimeState 1 := by
  rw [lifetimeLoad, if_neg (by simp [loading]), newer]
  rfl

/-- Settles O47: each row where it acts. -/
theorem monitorAndLifetimeRows : Obligations.MonitorAndLifetimeRows := by
  intro s hup
  refine ⟨fun m at_ its => ⟨fun counts ended => monitorWindowLatch_gives hup its at_ (monRoll_one counts ended),
      fun counts ended => monitorWindowLatch_gives hup its at_ (monRoll_more counts ended)⟩,
    fun m w its => ⟨fun open_ => ⟨fun v source ok => ?_, fun v window ok => ?_, fun restart => ?_⟩, fun shut => monitorRestart_held hup its shut w⟩,
    fun at_ => ⟨fun due => gives_neg (monitorOccupancySample_gives hup at_) (Nat.not_lt.2 due),
      fun early => gives_pos (monitorOccupancySample_gives hup at_) early⟩,
    fun at_ open_ due => lifetimeCommit_gives hup rfl open_ due,
    fun at_ open_ due => ?_,
    fun v at_ => ⟨fun open_ idle one records => ?_, fun open_ refused => ?_, fun shut => gives_of_whenUp hup rfl (dictWrite_shut (s := atTime s at_) shut _ _ _)⟩,
    fun loading invalid => ?_, fun r loading newer => ?_⟩
  · subst source
    exact gives_pos (monitorRestart_gives hup its open_ _) ok
  · subst window
    exact gives_pos (monitorRestart_gives hup its open_ _) ok
  · subst restart
    exact monitorRestart_gives hup its open_ _
  · have row := calendarCommit_gives hup rfl open_ due (at_ := at_)
    exact ⟨fun invalid => calendarRecords_none (s := atTime s at_) invalid ▸ row, fun o newer => calendarRecords_some (s := atTime s at_) newer ▸ row⟩
  · have row := gives_pos (shutdown_gives hup rfl open_ v (at_ := at_)) ⟨idle, one⟩
    rwa [shutdownAct_open (s := atTime s at_) records] at row
  · have row := shutdown_gives hup rfl open_ v (at_ := at_)
    by_cases accepted : phase (atTime s at_) = phIdle ∧ v = 1
    · have closed : recordsOpen (atTime s at_) = false := (refused.resolve_left (· accepted.1)).resolve_left (· accepted.2)
      exact shutdownAct_closed closed ▸ gives_pos row accepted
    · exact gives_neg row accepted
  · have row := lifetimeLoadDone_gives hup
    rwa [lifetimeLoad_none loading invalid] at row
  · have row := lifetimeLoadDone_gives hup
    rw [lifetimeLoad_some loading newer] at row
    exact row

end Sys2Proof.Checks
end

section
/-! SUPPORT. The fabric: replies and the requests that they end, snoops, harebell flits, and the system network's acknowledgement. -/
namespace Sys2Proof.FabricReplies
open Sys2Proof Machine Config Safety Laws Scope Sys2Proof.Composition Fabric

/-! ### Replies (R352, R354, R460, R474) -/

/-- A request taken off the books, with its round trip sampled. -/
def requestTaken (s : State) (r : Req) : State :=
  (tripSub r.f).foldl (fun s sub => monSample s 3 sub r.fd (timeNs s - r.first))
    { s with reqs := s.reqs.filter (fun q => !(q.fd == r.fd && q.tag == r.tag)) }

/-- What a reply does once its buffer is free: it ends the request of its tag, as failed where the link between the F-dies is exhausted, and
one that has none is late. -/
def replyServe (ks : Nat → Bool) (ends : State → Req → Flit → State) (port : Nat) (s : State) (g : Flit) : State :=
  match reqOf s g ks with
  | none => dcount s kLateReplies 1
  | some r =>
    let x := routeTry s (fabRoute (8 + port / 32) r.fd)
    epochTry (ends (requestTaken x.1 r) r (if x.2 = 0 then g else { g with w1 := BitVec.ofNat 64 (0x83 * 2 ^ 56) }))

section
variable {ks : Nat → Bool} {ends : State → Req → Flit → State} {port : Nat} {s : State} {g : Flit}

theorem replyServe_late (none_ : reqOf s g ks = none) : replyServe ks ends port s g = dcount s kLateReplies 1 := by
  simp only [replyServe, none_]

theorem replyServe_ends {r : Req} (its : reqOf s g ks = some r) :
    let x := routeTry s (fabRoute (8 + port / 32) r.fd)
    replyServe ks ends port s g =
      epochTry (ends (requestTaken x.1 r) r (if x.2 = 0 then g else { g with w1 := BitVec.ofNat 64 (0x83 * 2 ^ 56) })) := by
  simp only [replyServe, its]

end

theorem gives_eq {i : Instr} {s t u : State} (row : Gives i s t) (same : t = u) : Gives i s u := same ▸ row

/-- A row of replies by whether a request has the tag of its flit. -/
theorem gives_reply {i : Nat → Flit → Instr} {kind port : Nat} {ks : Nat → Bool} {ends : State → Req → Flit → State} {after : State → State}
    (row : IsFlitRow i kind (fun p s g => replyServe ks ends p (creditBack s p g) g) after) {s t0 : State} {f g : Flit}
    (h : FlitAt kind port s f g t0) :
    let t := creditBack t0 port g
    (reqOf t g ks = none → Gives (i port f) s (after (dcount t kLateReplies 1))) ∧
    (∀ r, reqOf t g ks = some r →
      let x := routeTry t (fabRoute (8 + port / 32) r.fd)
      Gives (i port f) s (after (epochTry (ends (requestTaken x.1 r) r
        (if x.2 = 0 then g else { g with w1 := BitVec.ofNat 64 (0x83 * 2 ^ 56) }))))) := by
  have serves := gives_served row h
  exact ⟨fun none_ => gives_eq serves (congrArg after (replyServe_late none_)), fun r its => gives_eq serves (congrArg after (replyServe_ends its))⟩

/-- The rows of replies: the kind of the flit, the kinds of the requests that it answers, how it ends them, and what goes on after it. -/
def replyRows : List ((Nat → Flit → Instr) × Nat × (Nat → Bool) × (State → Req → Flit → State) × (State → State)) :=
  [(.readResp, 0x0A, fun k => k == 1, fun s r g => readEnds s r g.payload (fStatus g), fovisPump),
   (.writeAck, 0x0B, fun k => k == 2 || k == 3, fun s r g => writeEnds s r (fStatus g), fovisPump ∘ collSettle),
   (.atomicResp, 0x0C, fun k => 4 ≤ k, fun s r g => atomicEnds s r (leNat (g.payload.take 8)) (fStatus g), fovisPump)]

theorem isFlitRow_reply : ∀ p ∈ replyRows,
    IsFlitRow p.1 p.2.1 (fun q s g => replyServe p.2.2.1 p.2.2.2.1 q (creditBack s q g) g) p.2.2.2.2 := by
  simp only [replyRows, List.forall_mem_cons, List.not_mem_nil, false_imp_iff, implies_true, and_true]
  and_intros <;> exact fun _ _ _ => rfl

/-! ### The other flits -/

/-- A row whose handler gets the flit once its buffer is free. -/
theorem gives_handled {i : Nat → Flit → Instr} {kind port : Nat} {after : State → State} (h : State → Flit → State)
    (row : ∀ port f s, exec (i port f) s = whenUp s (after (flitRow kind port f s h))) {s t : State} {f g : Flit}
    (arrives : FlitAt kind port s f g t) : Gives (i port f) s (after (h (creditBack t port g) g)) :=
  gives_served (isFlitRow_of_flitRow (h := fun _ => h) row) arrives

/-- The handlers of snoops and of harebell flits, with the kinds of their flits. -/
def handledRows : List ((Nat → Flit → Instr) × Nat × (State → Flit → State)) :=
  [(.snpInv, 0x0D, fun s g => snoopAnswer s g true), (.snpRd, 0x0E, fun s g => snoopAnswer s g false),
   (.snpAck, 0x0F, fun s g => snoopBack s g false), (.snpData, 0x10, fun s g => snoopBack s g true),
   (.hbUp, 0x18, hbUpFlit), (.hbDown, 0x19, hbDownFlit)]

theorem exec_handled : ∀ p ∈ handledRows, ∀ port f s, exec (p.1 port f) s = whenUp s (id (flitRow p.2.1 port f s p.2.2)) := by
  simp only [handledRows, List.forall_mem_cons, List.not_mem_nil, false_imp_iff, implies_true, and_true]
  and_intros <;> exact fun _ _ _ => rfl

/-- The SYS_ACK of a flit: what it acknowledges leaves the window, and what waits takes its place (R371). -/
def sysAcked (s : State) (g : Flit) : State :=
  sysRefill (modSysTx s (fSrc g) (fun q => { q with un := q.un.filter (fun u => (u.1 + 2 ^ 24 - fSeq g) % 2 ^ 24 < 2 ^ 23) })) (fSrc g)

/-- An abort record at its TIME (R401, R402). -/
theorem hbAbort_gives {s t : State} {f g : Flit} {port at_ : Nat} (h : FlitAt 0x1A port (atTime s at_) f g t) :
    Gives (.hbAbort port f at_) s (hbAbortFlit (creditBack t port g) g) := by
  obtain ⟨hup, hk, ha⟩ := h
  refine gives_of_whenUp (u := flitRow 0x1A port f (atTime s at_) hbAbortFlit) hup rfl ?_
  simp [flitRow, hk, ha]

/-- Settles O34: each row of replies by the request that its flit answers, and each other row by its handler. -/
theorem fabricReplyRows : Obligations.FabricReplyRows := by
  refine ⟨?replies, ?others, fun s port f g t at_ h => hbAbort_gives h,
    fun s port f g t => gives_handled (after := id) sysAcked fun _ _ _ => rfl⟩
  case replies =>
    exact fun p hp s port f g t0 h => gives_reply (isFlitRow_reply p hp) h
  case others =>
    intro p hp s port f g t h
    obtain hp | rfl : p ∈ handledRows ∨ p = (.segDone, 0x1C, fun s g => collSettle (segDoneAt s g)) := by simpa [handledRows, or_assoc] using hp
    · exact gives_handled (after := id) p.2.2 (exec_handled p hp) h
    · exact gives_handled segDoneAt (fun _ _ _ => rfl) h

end Sys2Proof.FabricReplies
end

section
/-! SUPPORT. The transition from IDLE to START: what it resets, and what the search for a setup record leaves of that. -/
namespace Sys2Proof.StartOfJob
open Sys2Proof Machine Config Safety Laws Scope Sys2Proof.Composition

/-! ### What a setup record does not hold -/

/-- Cores, engines, NMUs, contexts, bindings, rings, attachments, the zeroing of core stores, the snapshot and the phase: none of it is part of a
setup record (R504). -/
def engineSide (s : State) :
    Tbl Core × Tbl Engine × Tbl FlagBlk × Tbl Ctx × Tbl Nat × Tbl Ring × Tbl Attach × Bool × Snap × Nat :=
  (s.cores, s.engines, s.nmus, s.ctxs, s.bindings, s.rings, s.attached, s.zeroing, s.snap, phase s)

section
variable (s : State)

theorem engineSide_dset {k : Nat} (h : k ≠ kJobPhase) (v : Nat) : engineSide (dset s k v) = engineSide s := by
  simp only [engineSide, phase, dget_dset_other s k v h.symm]
  rfl

theorem engineSide_dcount {k : Nat} (h : k ≠ kJobPhase) (n : Nat) : engineSide (dcount s k n) = engineSide s := by
  unfold dcount
  split
  · rfl
  · exact engineSide_dset s h _

theorem portState_ne_jobPhase (p : Nat) : kPortState + p ≠ kJobPhase := by unfold kPortState kJobPhase; omega

theorem engineSide_portClear (p : Nat) : engineSide (portClear s p) = engineSide s := rfl

theorem engineSide_trainPort (p : Nat) : engineSide (trainPort s p) = engineSide s := by
  unfold trainPort
  split
  · rfl
  · exact engineSide_dset (portClear s p) (portState_ne_jobPhase p) _

theorem engineSide_setPortLevels (v : Nat) : engineSide (setPortLevels s v) = engineSide s := by
  unfold setPortLevels
  extract_lets old t u
  have woken : engineSide u = engineSide s :=
    (engineSide_dcount t (by decide) _).trans (engineSide_dset s (by decide) _)
  refine (foldl_keeps (g := engineSide) (fun s p => ?_) _ _).trans woken
  split
  · rfl
  · exact (engineSide_trainPort _ p).trans (engineSide_dset (portClear s p) (portState_ne_jobPhase p) 0)

theorem engineSide_modGroup (g : Nat) (f : CollGroup → CollGroup) : engineSide (modGroup s g f) = engineSide s := rfl

theorem engineSide_groupSetValid (g : Nat) (v : Bool) : engineSide (groupSetValid s g v) = engineSide s := by
  unfold groupSetValid
  extract_lets e cnt
  split
  · rfl
  · split <;> rfl

theorem engineSide_setupInstall (m : SetupImg) : engineSide (setupInstall s m) = engineSide s := by
  unfold setupInstall
  extract_lets u t
  have tables : engineSide t = engineSide s := (engineSide_setPortLevels _ m.levels).trans (engineSide_dset s (by decide) m.own)
  refine (foldl_keeps (g := engineSide) (fun s g => ?_) _ _).trans tables
  dsimp only
  split
  · exact (engineSide_groupSetValid _ g.1 true).trans (engineSide_modGroup s g.1 _)
  · exact engineSide_modGroup s g.1 _

/-- A setup record put into force (R505). -/
theorem engineSide_setupUse (m : SetupImg) (i : Nat) : engineSide (dcount (dset (dset (setupInstall { s with setupNew := i } m) kSetupResult 1)
    kSetupActiveDigest m.digest) kSetupReuses 1) = engineSide s := by
  rw [engineSide_dcount _ (by decide), engineSide_dset _ (by decide), engineSide_dset _ (by decide), engineSide_setupInstall]
  rfl

/-- The search for a setup record resets nothing (R505). -/
theorem engineSide_setupAtStart : engineSide (setupAtStart s) = engineSide s := by
  unfold setupAtStart
  extract_lets key hit use
  have used (o : Option SetupImg) (i : Nat) : engineSide (use o i) = engineSide s := by
    cases o with
    | none => rfl
    | some m => exact engineSide_setupUse s m i
  split
  · exact engineSide_dset s (by decide) 0
  · split
    · exact used _ 0
    · split
      · exact used _ 1
      · exact engineSide_dset s (by decide) 2

end

/-! ### The resets -/

/-- The clusters whose core stores are to be zeroed, awake (R441). -/
def clustersAwake (s : State) : State := (List.range 336).foldl (fun s d => if (domAt s d).st = 1 then wakeDom s d else s) s

/-- What is reset once they are (R96, R116, R279, R348, R376, R421, R422, R436, R540). -/
def resetAll (s : State) : State :=
  { s with
    cores := tblMap coreDflt s.cores startCore, engines := tblMap (fun _ => {}) s.engines (fun g => { g with f := {} }),
    nmus := [], grpMembers := [], grpValid := [], grpSize := [], bindings := [], ctxs := [], leaves := [], attached := [],
    snap := {}, rings := [], trans0 := [], trans1 := [], zeroing := true }

theorem startResets_eq (s : State) : startResets s = resetAll (clustersAwake s) := rfl

theorem dget_resetAll (s : State) (k : Nat) : dget (resetAll s) k = dget s k := rfl

/-- What a core keeps across the transition (log entries 36 and 125). -/
theorem coreAt_resetAll (s : State) (k : Nat) : coreAt (resetAll s) k = startCore (coreAt s k) := coreAt_mapCores rfl rfl k

theorem flags_resetAll (s : State) (e : Nat) : (engineAt (resetAll s) e).f = {} :=
  congrArg Engine.f (tblGet_tblMap engineDflt s.engines (fun g => { g with f := {} }) e rfl)

/-- A wake changes domains and their count alone. -/
theorem wakeDom_keeps (s : State) (d : Nat) :
    (wakeDom s d).cores = s.cores ∧ ∀ k, k ≠ kDomainWakes → dget (wakeDom s d) k = dget s k := by
  unfold wakeDom
  split
  · exact ⟨rfl, fun _ _ => rfl⟩
  · exact ⟨by unfold dcount; split <;> rfl, fun k h => dget_dcount_other _ _ _ h⟩

section
variable (s : State)

theorem cores_clustersAwake : (clustersAwake s).cores = s.cores :=
  foldl_keeps (g := State.cores) (fun s d => by split; exacts [(wakeDom_keeps s d).1, rfl]) _ _

theorem dget_clustersAwake {k : Nat} (h : k ≠ kDomainWakes) : dget (clustersAwake s) k = dget s k :=
  foldl_keeps (g := (dget · k)) (fun s d => by split; exacts [(wakeDom_keeps s d).2 k h, rfl]) _ _

theorem dget_startResets {k : Nat} (h : k ≠ kDomainWakes) : dget (startResets s) k = dget s k := by
  rw [startResets_eq, dget_resetAll, dget_clustersAwake s h]

theorem coreAt_startResets (k : Nat) : coreAt (startResets s) k = startCore (coreAt s k) := by
  rw [startResets_eq, coreAt_resetAll, coreAt, cores_clustersAwake, ← coreAt]

end

/-- The resets of a write of START in IDLE. -/
theorem phaseMove_start_engineSide {s : State} (idle : phase s = phIdle) :
    engineSide (phaseMove s phStart) = engineSide (startResets (setPhase s phStart)) := by
  rw [phaseMove_start idle, engineSide_setupAtStart]

theorem setupKey_startResets (s : State) : dget (startResets (setPhase s phStart)) kSetupKey = dget s kSetupKey := by
  rw [dget_startResets _ (by decide), setPhase, dget_dset_other _ _ _ (by decide), dget_dset_other _ _ _ (by decide)]

theorem setupAtStart_keyless {s : State} (keyless : dget s kSetupKey = 0) : setupAtStart s = dset s kSetupResult 0 := if_pos keyless

/-- Without a setup key the tables stay empty (R505). -/
theorem phaseMove_start_keyless {s : State} (idle : phase s = phIdle) (keyless : dget s kSetupKey = 0) :
    phaseMove s phStart = dset (startResets (setPhase s phStart)) kSetupResult 0 := by
  rw [phaseMove_start idle, setupAtStart_keyless ((setupKey_startResets s).trans keyless)]

/-- Settles O43: what the transition resets is no part of the setup record that it may put into force. -/
theorem startResetsEngines : Obligations.StartResetsEngines := by
  intro s hup open_ idle
  have row : Gives (.jobPhaseWrite phStart) s (phaseMove s phStart) := jobPhaseWrite_allowed hup open_ (by rw [idle]; rfl)
  have side := phaseMove_start_engineSide idle
  simp only [engineSide, Prod.mk.injEq] at side
  obtain ⟨cores, engines, nmus, ctxs, bindings, rings, attached, zeroing, snap, phase_⟩ := side
  have core (k : Nat) : coreAt (phaseMove s phStart) k = startCore (coreAt s k) := by
    rw [coreAt, cores]
    exact coreAt_startResets (setPhase s phStart) k
  have engine (e : Nat) : (engineAt (phaseMove s phStart) e).f = {} := by
    rw [engineAt, engines]
    exact flags_resetAll (clustersAwake (setPhase s phStart)) e
  have nmu (st : Nat) : nmuAt (phaseMove s phStart) st = {} := by
    rw [nmuAt, nmus]
    rfl
  refine ⟨_, row, ?_, fun k e st => ?_, ctxs, bindings, rings, attached, zeroing, snap, fun keyless => ?_⟩
  · exact phase_.trans ((dget_startResets _ (by decide)).trans (by rw [setPhase, dget_dset_other _ _ _ (by decide), dget_dset]))
  · have kept : coreAt (keep s (phaseMove s phStart)) k = startCore (coreAt s k) := core k
    rw [kept]
    exact ⟨rfl, rfl, rfl, rfl, engine e, nmu st, rfl, rfl, rfl, rfl⟩
  · have empty := phaseMove_start_keyless idle keyless
    exact ⟨congrArg State.trans0 empty, congrArg State.trans1 empty, congrArg State.grpMembers empty, congrArg State.grpValid empty⟩

end Sys2Proof.StartOfJob
end

section
/-! SUPPORT. Dispatch rings: the checks of an enable, records taken and delivered, and completion entries. -/
namespace Sys2Proof.DispatchRings
open Sys2Proof Machine Config Safety Laws Scope Sys2Proof.Composition FabricReplies

/-! ### Enabling (R541) -/

/-- Two extents share a byte. -/
def Meets (a n b m : Nat) : Prop := a < b + m ∧ b < a + n

theorem shareByte_iff (a n b m : Nat) : shareByte a n b m = true ↔ Meets a n b m := by simp [shareByte, Meets]

/-- A doorbell in memory: aligned, in a stack, apart from the arrays of its ring and from every other ring's doorbell. -/
def DoorbellOk (s : State) (r : Nat) (y : Ring) : Prop :=
  y.db % 8 = 0 ∧ y.db + 8 ≤ 2 ^ 40 ∧ ¬Meets y.db 8 y.base (2 ^ y.size * 128) ∧ ¬Meets y.db 8 y.cq (2 ^ y.size * 16) ∧
    ∀ q ∈ s.rings, q.1 ≠ r → q.2.enable = true → q.2.dbMem = true → q.2.db ≠ y.db

/-- The fields of a ring that may be enabled. -/
def FieldsOk (s : State) (r : Nat) (y : Ring) : Prop :=
  y.st = 0 ∧ y.size ≤ 16 ∧ y.base % 4096 = 0 ∧ y.cq % 4096 = 0 ∧ y.base + 2 ^ y.size * 128 ≤ 2 ^ 40 ∧ y.cq + 2 ^ y.size * 16 ≤ 2 ^ 40 ∧
    ¬Meets y.base (2 ^ y.size * 128) y.cq (2 ^ y.size * 16) ∧ (y.dbMem = true → DoorbellOk s r y)

theorem inStack_iff (a n : Nat) : inStack a n = true ↔ a + n ≤ 2 ^ 40 := decide_eq_true_iff

/-- No other enabled ring has its doorbell word in that place of memory. -/
theorem ownDoorbell_iff (s : State) (r db : Nat) : (s.rings.any (fun y => y.1 != r && y.2.enable && y.2.dbMem && y.2.db == db)) = false ↔
    ∀ q ∈ s.rings, q.1 ≠ r → q.2.enable = true → q.2.dbMem = true → q.2.db ≠ db := by
  simp only [List.any_eq_false, Bool.and_eq_true, bne_iff_ne, beq_iff_eq, not_and, and_imp]

theorem ringFieldsOk_iff (s : State) (r : Nat) (y : Ring) : ringFieldsOk s r y = true ↔ FieldsOk s r y := by
  simp only [ringFieldsOk, FieldsOk, DoorbellOk, ← shareByte_iff, ← inStack_iff, ← ownDoorbell_iff, ringRecBytes, ringCqBytes]
  cases y.dbMem with
  | false => simp [and_assoc]
  | true =>
    simp [and_assoc]
    tauto

section
variable {s : State} {r v : Nat}

theorem ringEnable_again (on : (ringAt s r).enable = true) : ringEnable s r v = s := if_pos on

variable (off : (ringAt s r).enable = false)
include off

theorem ringEnable_refused (bad : ¬FieldsOk s r (ringConfig (ringAt s r) v)) :
    ringEnable s r v = modRing s r (fun _ => ringConfig (ringAt s r) v) := by
  have refused : ringFieldsOk s r (ringConfig (ringAt s r) v) = false := by rwa [← Bool.not_eq_true, ringFieldsOk_iff]
  simp [ringEnable, off, refused]

theorem ringEnable_ok (ok : FieldsOk s r (ringConfig (ringAt s r) v)) : ringEnable s r v =
    if (ringConfig (ringAt s r) v).dbMem = true then doorbell (modRing s r (fun _ => { ringConfig (ringAt s r) v with enable := true })) r
    else modRing s r (fun _ => { ringConfig (ringAt s r) v with
      enable := true, st := 1, consumer := (ringConfig (ringAt s r) v).producer, completed := (ringConfig (ringAt s r) v).producer }) := by
  simp [ringEnable, off, (ringFieldsOk_iff _ _ _).2 ok]

end

section
variable {s : State} {r : Nat} (hup : s.up = true) (its : r < 16384)
include hup its

theorem ringEnable_gives {v : Word} (enables : v.getLsbD 63 = true) : Gives (.ringEnable r v) s (ringEnable s r v.toNat) :=
  gives_of_whenUp hup rfl (if_pos (by simp only [its, enables, decide_true, Bool.and_self]))

theorem ringDisable_gives (on : (ringAt s r).enable = true) : Gives (.ringDisable r) s (ringDisable s r) :=
  gives_of_whenUp hup rfl (if_pos (by simp [its, on]))

/-! ### Producers (R542, R543) -/

theorem ringProducerAdvance_gives {p : Nat} (register : (ringAt s r).dbMem = false) :
    Gives (.ringProducerAdvance r (some p)) s (ringProducer s r p) :=
  gives_of_whenUp hup rfl ((if_neg (Nat.not_le.2 its)).trans (if_neg (by simp [register])))

theorem ringProducerAdvance_notified (memory : (ringAt s r).dbMem = true) (on : (ringAt s r).enable = true) :
    Gives (.ringProducerAdvance r none) s (doorbell s r) :=
  gives_of_whenUp hup rfl ((if_neg (Nat.not_le.2 its)).trans (if_pos (by simp [memory, on])))

end

/-! ### Records (R117, R543) -/

/-- The record at address `a` read and held for delivery to the members of its group. -/
def recordTaken (s : State) (r a idx : Nat) : State :=
  let l := readLine s a .nobody
  let ws := (chunks 8 l.2.1).map (fun b => BitVec.ofNat 64 (leNat b))
  let st := recStatus l.1 l.2.2 ws
  modRing l.1 r (fun y => { y with
    consumer := (y.consumer + 1) % 2 ^ 32,
    recs := y.recs ++ [{ idx := idx, tag := recWord ws 1 % 2 ^ 32, words := ws, status := st,
                         todo := if st = 0 then impList l.1 (recGroup ws) else [] }] })

section
variable {s : State} {r : Nat} (hup : s.up = true)
include hup

/-- A ring that may take a record reads it once its line can be read. -/
theorem ringRecordTake_gives (its : r < 16384) {u : State} (hu : u = if (ringAt s r).waitDb = true then doorbell s r else s)
    (active : (ringAt u r).st = 1) (on : (ringAt u r).enable = true) (more : (ringAt u r).consumer ≠ (ringAt u r).producer)
    (room : ((ringAt u r).consumer + 2 ^ 32 - (ringAt u r).completed) % 2 ^ 32 < 2 ^ (ringAt u r).size) :
    let x := ringAt u r
    let a := x.base + 128 * (x.consumer % 2 ^ x.size)
    let m := memReady u [(a, 128)] [] .nobody
    Gives (.ringRecordTake r) s (if (!m.2) = true then m.1 else recordTaken m.1 r a x.consumer) := by
  subst hu
  refine gives_of_whenUp hup rfl (if_neg ?_)
  rw [decide_eq_false (Nat.not_le.2 room)]
  simp [its, active, on, more]

theorem ringRecordDelivery_gives {q : RingRec} (oldest : (ringAt s r).recs.find? (fun y => !y.todo.isEmpty) = some q) :
    Gives (.ringRecordDelivery r) s (q.todo.foldl (deliverTo r q) s) :=
  gives_of_whenUp hup rfl (by rw [oldest])

end

/-! ### Completion entries (R544) -/

/-- Where the entry of a record is written. -/
def entryPlace (x : Ring) (q : RingRec) : Nat := x.cq + 16 * (q.idx % 2 ^ x.size)

/-- The write of the entry waits for its line. -/
def entryHeld (s : State) (a : Nat) : Bool := s.held.any (fun h => h.who == .nobody && h.line == a / 128 * 128)

/-- The entry of the oldest record, written if it was not before. -/
def entryStored (s : State) (r : Nat) (q : RingRec) (rest : List RingRec) : State :=
  let a := entryPlace (ringAt s r) q
  if q.stored = true then s
  else modRing (memStore (memReady s [] [(a, 16)] .nobody).1 a (entryBytes q) false .nobody).1 r
    (fun y => { y with recs := { q with stored := true } :: rest })

/-- The oldest record leaves its ring, counted. -/
def recordDone (s : State) (r : Nat) (q : RingRec) (rest : List RingRec) : State :=
  modRing (dcount (dcount s kRingCompletions 1) kRingSkips (b2n (q.status != 0))) r (fun y => { y with
    completed := (q.idx + 1) % 2 ^ 32, recs := rest, st := if !y.enable && rest.isEmpty then 0 else y.st })

section
variable {s : State} {r : Nat} (hup : s.up = true) {q : RingRec} {rest : List RingRec} (oldest : (ringAt s r).recs = q :: rest)
  (delivered : q.todo = []) (finished : q.out = [])
include hup oldest delivered finished

/-- The entry waits for its place in memory. -/
theorem ringCompletionEntry_waits (fresh : q.stored = false) (busy : (memReady s [] [(entryPlace (ringAt s r) q, 16)] .nobody).2 = false) :
    Gives (.ringCompletionEntry r) s (memReady s [] [(entryPlace (ringAt s r) q, 16)] .nobody).1 := by
  refine gives_of_whenUp hup rfl ?_
  simp only [oldest]
  refine (if_neg (by simp [delivered, finished])).trans (if_pos ?_)
  show (!q.stored && !(memReady s [] [(entryPlace (ringAt s r) q, 16)] .nobody).2) = true
  rw [fresh, busy]
  rfl

/-- It is written, and once its write is not held the ring notifies. -/
theorem ringCompletionEntry_gives (ready : q.stored = true ∨ (memReady s [] [(entryPlace (ringAt s r) q, 16)] .nobody).2 = true) :
    let x := ringAt s r
    let w := entryStored s r q rest
    let t := recordDone w r q rest
    Gives (.ringCompletionEntry r) s (if entryHeld w (entryPlace x q) = true then w
      else if (!x.notEn) = true then t else if x.notMsix = true then msixSend t x.target else notifyHart t r) := by
  refine gives_of_whenUp hup rfl ?_
  simp only [oldest]
  refine (if_neg (by simp [delivered, finished])).trans (if_neg ?_)
  show ¬(!q.stored && !(memReady s [] [(entryPlace (ringAt s r) q, 16)] .nobody).2) = true
  obtain stored | free := ready
  · simp [stored]
  · simp [free]

end

/-- A choice by a negated flag. -/
theorem ite_bnot (b : Bool) (t u : State) : (if (!b) = true then t else u) = if b = false then t else u := by
  cases b <;> rfl

/-- Settles O51: each row of a ring in the state in which it acts. -/
theorem ringRows : Obligations.RingRows := by
  intro s r hup its
  refine ⟨fun v enables => ⟨fun on => ?_, fun off bad => ⟨?_, off, rfl, rfl, rfl, rfl⟩, fun off ok register => ?_, fun off ok memory => ?_⟩,
    fun on => ringDisable_gives hup its on, fun p register => ringProducerAdvance_gives hup its register,
    fun memory on => ringProducerAdvance_notified hup its memory on, fun active on more room => ?_,
    fun q oldest => ringRecordDelivery_gives hup oldest, fun q rest oldest delivered finished => ?_⟩
  · have row := ringEnable_gives hup its enables
    rwa [ringEnable_again on] at row
  · have row := ringEnable_gives hup its enables
    rwa [ringEnable_refused off bad] at row
  · have row := ringEnable_gives hup its enables
    rw [ringEnable_ok off ok] at row
    exact gives_neg row (by simp [register])
  · have row := ringEnable_gives hup its enables
    rw [ringEnable_ok off ok] at row
    exact gives_pos row memory
  · exact gives_eq (ringRecordTake_gives hup its rfl active on more room) (ite_bnot _ _ _)
  · refine ⟨ringCompletionEntry_waits hup oldest delivered finished, fun ready => ?_⟩
    have row := ringCompletionEntry_gives hup oldest delivered finished ready
    exact ⟨fun held => gives_pos row held, fun written => gives_eq (gives_neg row (ne_true_of_eq_false written)) (ite_bnot _ _ _)⟩

end Sys2Proof.DispatchRings
end

section
/-! SUPPORT. The bytes of a Fovis request: words and items written one after another, and read back (R516, R517). -/
namespace Sys2Proof.Pdus
open Sys2Proof Machine Config Safety Laws

/-! ### Words -/

theorem leNat_leBytes (n v : Nat) : leNat (leBytes n v) = v % 256 ^ n := by
  induction n generalizing v with
  | zero => simp [leBytes, leNat, Nat.mod_one]
  | succ n ih =>
    rw [leBytes, leNat, ih, BitVec.toNat_ofNat]
    show v % 256 + 256 * (v / 256 % 256 ^ n) = v % 256 ^ (n + 1)
    rw [pow_succ', Nat.mod_mul]

/-- A word at the front of bytes, and what follows it. -/
theorem take_word (v : Nat) (bs : List Byte) : (leBytes 8 v ++ bs).take 8 = leBytes 8 v :=
  List.take_left' (ControlCore.length_leBytes 8 v)

theorem drop_word (v : Nat) (bs : List Byte) : (leBytes 8 v ++ bs).drop 8 = bs :=
  List.drop_left' (ControlCore.length_leBytes 8 v)

theorem leNat_word {v : Nat} (h : v < 2 ^ 64) : leNat (leBytes 8 v) = v := by
  rw [leNat_leBytes]
  exact Nat.mod_eq_of_lt h

/-! ### Items (R517) -/

/-- The fields of an item fit their places, and its value has its length. -/
def ItemFits (x : FItem) : Prop :=
  x.idx < 65536 ∧ x.sub < 256 ∧ x.ty < 256 ∧ x.off < 65536 ∧ x.len < 65536 ∧ x.val.length = x.len

/-- The bytes of an item of a request. -/
def itemBytes (x : FItem) : List Byte := mkItem x.idx x.sub x.ty x.off 0 x.val

/-- The first word of an item. -/
def itemWord (x : FItem) : Nat := x.len * 2 ^ 48 + x.off * 2 ^ 32 + x.ty * 2 ^ 24 + x.sub * 2 ^ 16 + x.idx

theorem itemWord_fields {x : FItem} (h : ItemFits x) : itemWord x < 2 ^ 64 ∧ bitsOf (itemWord x) 15 0 = x.idx ∧ bitsOf (itemWord x) 23 16 = x.sub ∧
    bitsOf (itemWord x) 31 24 = x.ty ∧ bitsOf (itemWord x) 47 32 = x.off ∧ bitsOf (itemWord x) 63 48 = x.len := by
  obtain ⟨idx, sub, ty, off, len, -⟩ := h
  simp only [bitsOf, itemWord]
  omega

theorem le_roundUp (n : Nat) : n ≤ roundUp n 8 := by
  unfold roundUp cdiv
  omega

/-- An item: its two words, its value, and zeros up to whole words. -/
theorem itemBytes_eq {x : FItem} (h : ItemFits x) :
    itemBytes x = leBytes 8 (itemWord x) ++ (leBytes 8 0 ++ (x.val ++ List.replicate (roundUp x.len 8 - x.len) 0)) := by
  obtain ⟨-, -, -, -, -, len⟩ := h
  simp only [itemBytes, mkItem, itemWord, len, List.append_assoc]

theorem length_itemBytes {x : FItem} (h : ItemFits x) : (itemBytes x).length = 16 + roundUp x.len 8 := by
  have padded := le_roundUp x.len
  have len : x.val.length = x.len := h.2.2.2.2.2
  rw [itemBytes_eq h]
  simp only [List.length_append, ControlCore.length_leBytes, List.length_replicate, len]
  omega

/-- The first item of bytes reads back, and what follows it is read after it. -/
theorem parseItems_cons {x : FItem} (h : ItemFits x) (n : Nat) (rest : List Byte) :
    parseItems true (n + 1) (itemBytes x ++ rest) = (parseItems true n rest).map (x :: ·) := by
  obtain ⟨word, idx, sub, ty, off, len⟩ := itemWord_fields h
  have first : leNat ((itemBytes x ++ rest).take 8) = itemWord x := by
    rw [itemBytes_eq h, List.append_assoc, take_word, leNat_word word]
  have status : leNat (((itemBytes x ++ rest).drop 8).take 8) = 0 := by
    rw [itemBytes_eq h, List.append_assoc, drop_word, List.append_assoc, take_word, leNat_word (by decide)]
  have value : ((itemBytes x ++ rest).drop 16).take x.len = x.val := by
    have words : (itemBytes x ++ rest).drop (8 + 8) = x.val ++ (List.replicate (roundUp x.len 8 - x.len) 0 ++ rest) := by
      rw [itemBytes_eq h, ← List.drop_drop]
      simp only [List.append_assoc, drop_word]
    rw [words]
    exact List.take_left' h.2.2.2.2.2
  have after : (itemBytes x ++ rest).drop (16 + roundUp x.len 8) = rest := List.drop_left' (length_itemBytes h)
  have fits : ¬(itemBytes x ++ rest).length < 16 + roundUp x.len 8 := by
    rw [List.length_append, length_itemBytes h]
    omega
  simp only [parseItems, first, status, len, if_true, after, value, idx, sub, ty, off]
  rw [if_neg (by simpa using fits)]

/-- The items of a request read back. -/
theorem parseItems_items {xs : List FItem} (h : ∀ x ∈ xs, ItemFits x) :
    parseItems true xs.length (xs.map itemBytes).flatten = some xs := by
  induction xs with
  | nil => rfl
  | cons x xs ih =>
    obtain ⟨hx, hxs⟩ := List.forall_mem_cons.1 h
    rw [List.map_cons, List.flatten_cons, List.length_cons, parseItems_cons hx, ih hxs]
    rfl

/-! ### Requests (R516) -/

/-- The first word of a request of `n` items in `len` bytes. -/
def requestWord (op n len : Nat) : Nat := len * 2 ^ 48 + n * 2 ^ 32 + op * 2 ^ 24 + 2 ^ 16 + 0x5646

theorem requestWord_fields {op n len : Nat} (ho : op < 256) (hn : n < 256) (hl : len < 65536) :
    requestWord op n len < 2 ^ 64 ∧ bitsOf (requestWord op n len) 15 0 = 0x5646 ∧ bitsOf (requestWord op n len) 23 16 = 1 ∧
    bitsOf (requestWord op n len) 31 24 = op ∧ bitsOf (requestWord op n len) 39 32 = n ∧ bitsOf (requestWord op n len) 47 40 = 0 ∧
    bitsOf (requestWord op n len) 63 48 = len := by
  simp only [bitsOf, requestWord]
  omega

theorem opKnown_lt {op : Nat} (h : opKnown op = true) : op < 128 := by
  simp only [opKnown, Bool.or_eq_true, Bool.and_eq_true, decide_eq_true_eq] at h
  omega

/-- The bytes of a request: its two words, and its items. -/
theorem mkPdu_request {op id : Nat} (ho : op < 128) (hid : id < 2 ^ 32) (items : List (List Byte)) :
    mkPdu (op + 128) id 0 items =
      leBytes 8 (requestWord op items.length (16 + items.flatten.length)) ++ (leBytes 8 id ++ items.flatten) := by
  have code : (op + 128 + 0x80) % 256 = op := by omega
  simp only [mkPdu, requestWord, code, Nat.mod_eq_of_lt hid, Nat.zero_mul, Nat.add_zero, List.append_assoc]

/-- Settles O60: the words of the request read back as its operation, identity and count, and then item after item. -/
theorem pduRoundTrip : Obligations.PduRoundTrip := by
  intro op id xs known values hid count fits bs short
  have ho := opKnown_lt known
  have request : bs = leBytes 8 (requestWord op (xs.map itemBytes).length (16 + (xs.map itemBytes).flatten.length)) ++
      (leBytes 8 id ++ (xs.map itemBytes).flatten) := mkPdu_request ho hid (xs.map itemBytes)
  have length : bs.length = 16 + (xs.map itemBytes).flatten.length := by
    rw [request]
    simp only [List.length_append, ControlCore.length_leBytes]
    omega
  rw [List.length_map, ← length] at request
  obtain ⟨word, magic, version, operation, items, reserved, long⟩ :=
    requestWord_fields (op := op) (n := xs.length) (len := bs.length) (by omega) (by omega) (by omega)
  have first : leNat (bs.take 8) = requestWord op xs.length bs.length := by
    conv_lhs => rw [request, take_word, leNat_word word]
  have second : leNat ((bs.drop 8).take 8) = id := by
    rw [request, drop_word, take_word, leNat_word (by omega)]
  have body : bs.drop (8 + 8) = (xs.map itemBytes).flatten := by
    rw [request, ← List.drop_drop, drop_word, drop_word]
  simp only [parsePdu, first, second, magic, version, operation, items, reserved, long, values, known]
  rw [if_neg (by simp; omega), body, parseItems_items fits]
  rfl

end Sys2Proof.Pdus
end

section
/-! SUPPORT. The trust unit: boot, the reset of the H-die, table sets, attestation and the signing of colophons. -/
namespace Sys2Proof.TrustUnit
open Sys2Proof Machine Config Safety Laws Scope Sys2Proof.Composition Sys2Proof.FabricReplies Sys2Proof.DispatchRings

/-! ### Writes of its entries (R522, R525, R552, R556, R557, R559–R562) -/

section
variable {s : State} (hup : s.up = true)
include hup

/-- While the arbiter holds writes, a write of an entry of the unit waits for them. -/
theorem trustWrites_held (shut : dictOpen s = false) (v a : Nat) (below : a < 4096) :
    Gives (.bootStart v) s { s with rxq := s.rxq ++ [.entry kBootStart v none] } ∧
    Gives (.hdieReset v) s { s with rxq := s.rxq ++ [.entry kHdieReset v none] } ∧
    Gives (.tableSetLoad v) s { s with rxq := s.rxq ++ [.entry kTableSetLoad v none] } ∧
    Gives (.colophonSign a) s { s with rxq := s.rxq ++ [.entry kColophonSign a none] } :=
  ⟨gives_of_whenUp hup rfl (dictWrite_shut shut _ _ _), gives_of_whenUp hup rfl (dictWrite_shut shut _ _ _),
    gives_of_whenUp hup rfl (dictWrite_shut shut _ _ _), gives_of_whenUp hup rfl ((if_neg (Nat.not_le.2 below)).trans (dictWrite_shut shut _ _ _))⟩

variable (open_ : dictOpen s = true)
include open_

theorem bootStart_gives (takes : trustFull s = false ∨ dget s kBootState = 1 ∨ dget s kBootState = 2) : Gives (.bootStart 1) s (bootStart s) :=
  gives_of_whenUp hup rfl ((dictWrite_open open_ _ _ _).trans (if_pos (by simpa [or_assoc] using takes)))

theorem hdieReset_gives (idle : phase s = phIdle) : Gives (.hdieReset 1) s (hdieReset s) :=
  gives_of_whenUp hup rfl ((dictWrite_open open_ _ _ _).trans (if_pos (by simp [idle])))

theorem tableSetLoad_gives (idle : phase s = phIdle) (room : trustFull s = false) : Gives (.tableSetLoad 1) s (tableLoad s) :=
  gives_of_whenUp hup rfl ((dictWrite_open open_ _ _ _).trans (if_pos (by simp [idle, room])))

theorem attestNonce_gives {x : List Byte} (sized : x.length = 32) (room : trustFull s = false) :
    Gives (.attestNonce x) s (setStatus (trustPush s (.attest (leNat x))) kSignerStatus 2) :=
  gives_of_whenUp hup rfl ((if_neg (by simp [sized])).trans ((dictWrite_open open_ _ _ _).trans (if_neg (by simp [room]))))

theorem colophonSign_gives {a : Nat} (below : a < 4096) (room : trustFull s = false) :
    Gives (.colophonSign a) s (setStatus (trustPush s (.sign a)) kSignerStatus 2) :=
  gives_of_whenUp hup rfl ((if_neg (Nat.not_le.2 below)).trans ((dictWrite_open open_ _ _ _).trans (if_neg (by simp [room]))))

end

/-! ### The end of a boot (R552, R556) -/

/-- The outcome of a verification, counted and shown. -/
def bootJudged (s : State) (code : Nat) : State := setStatus (verified s code) kBootStatus code

/-- An accepted image: its digest is shown, and hart 0 starts at its entry. -/
def bootAccepted (b : State) : State :=
  hartsStart (modTrust (dset (dset (bootJudged b 1) kBootDigest b.trust.bootDigest) kBootState 2) (fun x => { x with
    entry := leNat ((b.trust.bootHdr.drop 16).take 8), load := b.trust.bootLo,
    imageVersion := leNat ((b.trust.bootHdr.drop 4).take 4) })) 1

section
variable {s : State} (hup : s.up = true) {q : List SigReq} (head : s.trust.queue = .boot :: q) (rsa slh : Bool)
include hup head

theorem bootVerifyDone_late (ended : dget s kBootState ≠ 1) : Gives (.bootVerifyDone rsa slh) s (trustPop s) := by
  refine gives_of_whenUp hup rfl ?_
  simp only [head]
  exact if_pos (by simpa using ended)

variable (verifies : dget s kBootState = 1) {b : State} (hb : b = if s.trust.bootRead = true then s else bootTry s)
include verifies hb

/-- The image cannot be read yet. -/
theorem bootVerifyDone_waits (unread : b.trust.bootRead = false) : Gives (.bootVerifyDone rsa slh) s b := by
  refine gives_of_whenUp hup rfl ?_
  simp only [head]
  rw [← hb]
  exact (if_neg (by simp [verifies])).trans (if_pos (by simp [unread]))

variable (read : b.trust.bootRead = true)
include read

theorem bootVerifyDone_refused (bad : b.trust.bootPre ≠ 0) (code : b.trust.bootPre ≠ 1) :
    Gives (.bootVerifyDone rsa slh) s (trustPop (dset (bootJudged b b.trust.bootPre) kBootState 3)) := by
  refine gives_of_whenUp hup rfl ?_
  simp only [head]
  rw [← hb]
  refine (if_neg (by simp [verifies])).trans ((if_neg (by simp [read])).trans ?_)
  have its : (if (b.trust.bootPre != 0) = true then b.trust.bootPre else 1) = b.trust.bootPre := if_pos (by simpa using bad)
  rw [its]
  exact if_pos (by simpa using code)

theorem bootVerifyDone_accepted (good : b.trust.bootPre = 0) : Gives (.bootVerifyDone rsa slh) s (trustPop (bootAccepted b)) := by
  refine gives_of_whenUp hup rfl ?_
  simp only [head]
  rw [← hb]
  refine (if_neg (by simp [verifies])).trans ((if_neg (by simp [read])).trans ?_)
  rw [good]
  rfl

end

/-! ### Table sets (R558, R559) -/

/-- A table set that was found good replaces the tables (R559). -/
theorem tableSetVerifyDone_gives {s : State} (hup : s.up = true) {q : List SigReq} (head : s.trust.queue = .table :: q) (rsa slh : Bool) :
    let m := tableReady s (dget s kTableSetAddr)
    let r := tableCheck m.1 (dget m.1 kTableSetAddr)
    let t := setStatus (verified r.1 r.2.1) kTableSetStatus r.2.1
    Gives (.tableSetVerifyDone rsa slh) s (if m.2 = false then m.1 else if r.2.1 ≠ 1 then trustPop t
      else trustPop (modTrust (dset (dset t kTableSetRevision r.2.2.1) kTableSetDigest r.2.2.2.2) (fun x =>
        { x with tables := r.2.2.2.1 }))) := by
  intro m r t
  refine gives_of_whenUp hup rfl ?_
  simp only [head]
  refine (ite_bnot m.2 _ _).trans (if_congr Iff.rfl rfl ?_)
  exact if_congr bne_iff_ne rfl rfl

/-! ### Signatures (R560, R561) -/

section
variable {s : State} (hup : s.up = true) {a : Nat} {q : List SigReq}
include hup

theorem attestReportDone_gives (head : s.trust.queue = .attest a :: q) :
    Gives .attestReportDone s (signerAfter (trustPop (dcount (placeSignature s kAttestReport true) kSignatures 1)) 1) :=
  gives_of_whenUp hup rfl (by simp only [head])

theorem colophonSignDone_gives (head : s.trust.queue = .sign a :: q) :
    Gives .colophonSignDone s (if s.trust.bad then signerAfter (trustPop s) 4
      else signerAfter (trustPop (dcount (placeSignature s kColophonSignature false) kSignatures 1)) 1) :=
  gives_of_whenUp hup rfl (by simp only [head])

end

/-- Settles O52: writes by whether the dictionary takes them, and each end of a request at the head of the queue. -/
theorem trustRows : Obligations.TrustRows := by
  intro s hup
  refine ⟨fun open_ takes => bootStart_gives hup open_ takes, fun shut v a below => trustWrites_held hup shut v a below,
    fun q rsa slh head ended => bootVerifyDone_late hup head rsa slh ended, fun q rsa slh head verifies => ?_,
    fun open_ idle => hdieReset_gives hup open_ idle, fun open_ idle room => tableSetLoad_gives hup open_ idle room,
    fun q rsa slh head => tableSetVerifyDone_gives hup head rsa slh,
    fun x sized open_ room => attestNonce_gives hup open_ sized room, fun a q head => attestReportDone_gives hup head,
    fun a below open_ room => colophonSign_gives hup open_ below room, fun a q head => colophonSignDone_gives hup head⟩
  exact ⟨bootVerifyDone_waits hup head rsa slh verifies rfl, bootVerifyDone_refused hup head rsa slh verifies rfl,
    bootVerifyDone_accepted hup head rsa slh verifies rfl⟩

end Sys2Proof.TrustUnit
end

section
/-! SUPPORT. Fovis: what serves a request of a mailbox or of the field network, the end of a bundle's verification, and the neighbours. -/
namespace Sys2Proof.FovisService
open Sys2Proof Machine Config Safety Laws Scope Sys2Proof.Composition Sys2Proof.FabricReplies Sys2Proof.DispatchRings

/-! ### The operations (R518) -/

/-- A request of operation `op` is served by `serve`. -/
def Serves (op : Nat) (serve : State → Asker → Pdu → State) : Prop := ∀ s who q, q.op = op → servePdu s who q = serve s who q

theorem serves_read : Serves 1 serveRead := fun _ _ _ h => by simp only [servePdu, h]
theorem serves_write : Serves 2 serveWrite := fun _ _ _ h => by simp only [servePdu, h]
theorem serves_describe : Serves 3 serveDescribe := fun _ _ _ h => by simp only [servePdu, h]
theorem serves_discover : Serves 4 serveDiscover := fun _ _ _ h => by simp only [servePdu, h]
theorem serves_bundleOpen : Serves 0x10 serveBundleOpen := fun _ _ _ h => by simp only [servePdu, h]
theorem serves_bundleData : Serves 0x11 serveBundleData := fun _ _ _ h => by simp only [servePdu, h]
theorem serves_bundleApply : Serves 0x12 serveBundleApply := fun _ _ _ h => by simp only [servePdu, h]
theorem serves_bundleCancel : Serves 0x13 serveBundleCancel := fun _ _ _ h => by simp only [servePdu, h]

/-! ### The request of a mailbox (R513, R521–R523, R525) -/

/-- A request that is read as a PDU is a held write just when its operation is WRITE. -/
theorem heldWrite_pdu {who : Asker} {raw : List Byte} {q : Pdu} (reads : parsePdu raw = some q) :
    heldWrite (.pdu who raw) = (q.op == 2) := by simp only [heldWrite, reads]

/-- A malformed request is no write. -/
theorem heldWrite_malformed {who : Asker} {raw : List Byte} (bad : parsePdu raw = none) : heldWrite (.pdu who raw) = false := by
  simp only [heldWrite, bad]

section
variable {op m : Nat} {hart : Option Nat} {t : State}

/-- A mailbox that is not BUSY holds no request. -/
theorem boxRow_free (free : (boxAt t m).st ≠ 1) : boxRow op m hart t = t := if_pos (by simp [free])

/-- A request that is held already is not taken twice. -/
theorem boxRow_twice (held : t.rxq.contains (.pdu (.box m) (boxPdu (boxAt t m))) = true) : boxRow op m hart t = t :=
  if_pos (by rw [held, Bool.or_true, Bool.true_or])

variable (busy : (boxAt t m).st = 1) (fresh : t.rxq.contains (.pdu (.box m) (boxPdu (boxAt t m))) = false)
  (mine : (parsePdu (boxPdu (boxAt t m))).any (fun p => p.op != op) = false)
include busy fresh mine

/-- What passes the row's first check is held or served. -/
theorem boxRow_takes : boxRow op m hart t =
    if dget t kLifetimeState = 0 || (heldWrite (.pdu (.box m) (boxPdu (boxAt t m))) && writesHeld t) then
      { modBox t m (fun b => { b with hart := hart }) with rxq := t.rxq ++ [.pdu (.box m) (boxPdu (boxAt t m))] }
    else boxServe (modBox t m (fun b => { b with hart := hart })) m (boxPdu (boxAt t m)) :=
  if_neg (by rw [busy, fresh, mine]; decide)

theorem boxRow_queues (waits : dget t kLifetimeState = 0 ∨ heldWrite (.pdu (.box m) (boxPdu (boxAt t m))) = true ∧ writesHeld t = true) :
    boxRow op m hart t =
      { modBox t m (fun b => { b with hart := hart }) with rxq := t.rxq ++ [.pdu (.box m) (boxPdu (boxAt t m))] } :=
  (boxRow_takes busy fresh mine).trans (if_pos (by simpa using waits))

theorem boxRow_serves (loaded : dget t kLifetimeState ≠ 0)
    (turn : heldWrite (.pdu (.box m) (boxPdu (boxAt t m))) = true → writesHeld t = false) :
    boxRow op m hart t = boxServe (modBox t m (fun b => { b with hart := hart })) m (boxPdu (boxAt t m)) :=
  (boxRow_takes busy fresh mine).trans (if_neg (by simpa [loaded] using turn))

end

/-- A row that takes the request of mailbox `m`. -/
theorem boxDoes {i : Instr} {op m : Nat} {hart : Option Nat} {s t : State} {serve : State → Asker → Pdu → State} (hup : s.up = true)
    (serves : Serves op serve) (row : exec i s = whenUp s (boxRow op m hart t)) : BoxDoes i op m hart s t serve := by
  refine ⟨fun free => gives_of_whenUp hup row (boxRow_free free), fun _ held => gives_of_whenUp hup row (boxRow_twice held),
    fun busy fresh => ⟨fun bad => ?malformed, fun q reads ofRow => ?request⟩⟩
  case malformed =>
    have mine : (parsePdu (boxPdu (boxAt t m))).any (fun p => p.op != op) = false := by rw [bad]; rfl
    refine ⟨fun loading => gives_of_whenUp hup row (boxRow_queues busy fresh mine (.inl loading)), fun loaded => ?_⟩
    refine gives_of_whenUp hup row ((boxRow_serves busy fresh mine loaded fun w => ?_).trans ?_)
    · exact absurd w (ne_true_of_eq_false (heldWrite_malformed bad))
    · simp only [boxServe, bad, malformedReply]
  case request =>
    have mine : (parsePdu (boxPdu (boxAt t m))).any (fun p => p.op != op) = false := by rw [reads]; simp [ofRow]
    have write : heldWrite (.pdu (.box m) (boxPdu (boxAt t m))) = true ↔ op = 2 := by rw [heldWrite_pdu reads, ofRow, beq_iff_eq]
    refine ⟨fun waits => gives_of_whenUp hup row (boxRow_queues busy fresh mine (waits.imp_right (And.imp_left write.2))),
      fun loaded turn => ?_⟩
    refine gives_of_whenUp hup row ((boxRow_serves busy fresh mine loaded (turn ∘ write.1)).trans ?_)
    simp only [boxServe, reads]
    exact serves _ _ _ ofRow

/-! ### A datagram of the field network (R510–R512, R522, R523, R525) -/

section
variable {op a p d dp sum : Nat} {pdu : List Byte} {t : State}

/-- A datagram that is not for the port, or comes while the records are LOADING, changes nothing. -/
theorem udpRow_drops (h : netOk t a p d dp sum pdu = false ∨ dget t kLifetimeState = 0) : udpRow op a p d dp sum pdu t = t := by
  rcases h with bad | loading
  · exact if_neg (ne_true_of_eq_false bad)
  · exact ite_eq_right_iff.2 fun _ => if_pos loading

variable (good : netOk t a p d dp sum pdu = true) (loaded : dget t kLifetimeState ≠ 0)
include good loaded

theorem udpRow_malformed (bad : parsePdu pdu = none) : udpRow op a p d dp sum pdu t = discardPdu (dcount t kPdusReceived 1) := by
  simp only [udpRow, if_pos good, netRow, if_neg loaded, bad]

variable {q : Pdu} (reads : parsePdu pdu = some q) (ofRow : q.op = op)
include reads ofRow

/-- A request of the row's operation is discarded, queued or served. -/
theorem udpRow_takes : udpRow op a p d dp sum pdu t =
    if 16 ≤ netHeld t || (d != linkLocal t && (d != allNodes || op != 4)) then discardPdu (dcount t kPdusReceived 1)
    else if op = 2 && writesHeld t then { dcount t kPdusReceived 1 with rxq := (dcount t kPdusReceived 1).rxq ++ [.pdu (.net a p) pdu] }
    else netServe (dcount t kPdusReceived 1) a p q := by
  simp only [udpRow, if_pos good, netRow, if_neg loaded, reads]
  exact if_neg (by simp [ofRow])

theorem udpRow_discards (h : 16 ≤ netHeld t ∨ ¬(d = linkLocal t ∨ (d = allNodes ∧ op = 4))) :
    udpRow op a p d dp sum pdu t = discardPdu (dcount t kPdusReceived 1) :=
  (udpRow_takes good loaded reads ofRow).trans (if_pos (by
    simpa [not_or, imp_iff_not_or] using h))

variable (room : netHeld t < 16) (mine : d = linkLocal t ∨ (d = allNodes ∧ op = 4))
include room mine

theorem udpRow_admits : udpRow op a p d dp sum pdu t =
    if op = 2 && writesHeld t then { dcount t kPdusReceived 1 with rxq := (dcount t kPdusReceived 1).rxq ++ [.pdu (.net a p) pdu] }
    else netServe (dcount t kPdusReceived 1) a p q :=
  (udpRow_takes good loaded reads ofRow).trans (if_neg (by
    simpa [Nat.not_le.2 room, or_iff_not_imp_left] using mine))

end

/-- Served from the kept reply where there is one (R512). -/
theorem netServe_eq (u : State) (a p : Nat) (q : Pdu) : netServe u a p q = match keptReply u a p q.id with
    | some c => netSend (dcount u kReplayedReplies 1) a p c.pdu
    | none => servePdu u (.net a p) q := rfl

/-- A row that takes the datagrams of the field network. -/
theorem netDoes {i : Nat → Nat → Nat → Nat → Nat → List Byte → Instr} {op : Nat} {s t : State} {serve : State → Asker → Pdu → State}
    (hup : s.up = true) (serves : Serves op serve)
    (row : ∀ a p d dp sum pdu, exec (i a p d dp sum pdu) s = whenUp s (udpRow op a p d dp sum pdu t)) : NetDoes i op s t serve := by
  intro a p d dp sum pdu
  have gives {w : State} : udpRow op a p d dp sum pdu t = w → Gives (i a p d dp sum pdu) s w := gives_of_whenUp hup (row a p d dp sum pdu)
  refine ⟨fun h => gives (udpRow_drops h), fun good loaded => ⟨fun bad => gives (udpRow_malformed good loaded bad), fun q reads ofRow => ?_⟩⟩
  refine ⟨fun h => gives (udpRow_discards good loaded reads ofRow h), fun room mine => ?_⟩
  have admits := udpRow_admits good loaded reads ofRow room mine
  refine ⟨fun write held => gives (admits.trans (if_pos (by simp [write, held]))), fun turn => ?_⟩
  have served := admits.trans ((if_neg (by simpa using turn)).trans (netServe_eq _ a p q))
  refine ⟨fun gone => gives (served.trans ?_), fun c kept => gives (served.trans ?_)⟩
  · simp only [gone]
    exact serves _ _ _ ofRow
  · simp only [kept]

/-! ### A row of a Fovis operation -/

/-- A row that brings a request of `op` to the arbiter. -/
theorem fovisDoes {c : FovisSrc → Nat → Instr} {op : Nat} {serve : State → Asker → Pdu → State} (serves : Serves op serve)
    (row : ∀ s src at_, exec (c src at_) s = whenUp s (fovisRow op src at_ s)) : FovisDoes c op serve := fun s at_ hup =>
  ⟨fun m h below => boxDoes hup serves ((row s (.hdie m h) at_).trans (congrArg (whenUp s) (if_pos below))),
   fun m below => boxDoes hup serves ((row s (.cxl m) at_).trans (congrArg (whenUp s) (if_pos below))),
   netDoes hup serves fun a p d dp sum pdu => row s (.net a p d dp sum pdu) at_,
   fun a d ident off more bytes => gives_of_whenUp hup (row s (.frag a d ident off more bytes) at_) rfl⟩

/-! ### The end of a bundle's verification (R529, R552, R554) -/

/-- The signatures of a bundle are good by the keys that its body requires. -/
def bundleGood (t : State) (b : BundleBuf) : Bool :=
  match bundleKeys t (bundleBody b) with
  | some ks => itemOk 1 ks (bundleBody b) ((memRead b.bytes 0 b.len).drop (b.len - 16672))
  | none => false

theorem bundleVerifyDone_gives {s t : State} (hup : s.up = true) (pumped : t = fovisPump s) {b : BundleBuf} {i : List Byte} {q : List SigReq}
    (rsa slh : Bool) (head : t.trust.queue = .bundle :: q) (buffer : t.bundle = some b) (applied : b.applying = some i)
    (turn : writesHeld t = false) (start : b.next = none) :
    Gives (.bundleVerifyDone rsa slh) s (trustPop (if 16672 ≤ b.len ∧ bundleGood t b = true then bundleRun (verified t 1) b (leNat i)
      else bundleEnds (verified t 7) b.owner (leNat i) 0 stSeal false)) := by
  refine gives_of_whenUp hup rfl ?_
  rw [← pumped]
  simp only [head, buffer, applied]
  refine (if_neg (by simp [turn, start])).trans ?_
  change trustPop (if (decide (16672 ≤ b.len) && bundleGood t b) = true then
      bundleRun (verified t (if (decide (16672 ≤ b.len) && bundleGood t b) = true then 1 else 7)) b (leNat i)
    else bundleEnds (verified t (if (decide (16672 ≤ b.len) && bundleGood t b) = true then 1 else 7)) b.owner (leNat i) 0 stSeal false) = _
  simp only [Bool.and_eq_true, decide_eq_true_eq]
  split_ifs <;> rfl

/-! ### What ends by itself (R512, R527) -/

section
variable {s t : State} (hup : s.up = true) {at_ : Nat} (ht : t = atTime s at_) {b : BundleBuf} (buffer : t.bundle = some b)
  (waiting : b.applying = none)
include hup ht buffer waiting

/-- A bundle that is not applied is judged by the TIME since its owner's last operation. -/
theorem bundleOwnerTimeout_row :
    Gives (.bundleOwnerTimeout at_) s (if b.last + 10000000000 ≤ timeNs t then { t with bundle := none } else t) := by
  refine gives_of_whenUp hup rfl ?_
  rw [← ht]
  simp only [buffer, waiting, Option.isNone_none, Bool.true_and, decide_eq_true_eq]

end

/-! ### Neighbours and echo (R510) -/

/-- What a message to `dst` finds of the address resolution: an address that is resolved, or a group, is not asked for. -/
theorem netOut_known {s : State} {dst : Nat} (heard : s.netDup = false) (known : dst / 2 ^ 120 = 0xFF ∨ dst ∈ s.neigh) (port src : Nat)
    (bs : List Byte) : netOut s dst port src bs = { s with sent := s.sent ++ [⟨dst, port, src, bs⟩] } := by
  have skip : (decide (dst / 2 ^ 120 = 0xFF) || s.neigh.contains dst) = true := by simpa using known
  simp only [netOut, heard, skip, Bool.false_eq_true, if_false, if_true]

/-- A neighbour that is not resolved is solicited first. -/
theorem netOut_unknown {s : State} {dst : Nat} (heard : s.netDup = false) (unicast : dst / 2 ^ 120 ≠ 0xFF) (unknown : dst ∉ s.neigh)
    (port src : Nat) (bs : List Byte) : netOut s dst port src bs = { s with
      neigh := s.neigh ++ [dst]
      sent := s.sent ++ [⟨solicitedNode dst, 0, 0, icmp (linkLocal s) (solicitedNode dst) 135
        ([0, 0, 0, 0] ++ beBytes 16 dst ++ [1, 1] ++ macBytes s)⟩, ⟨dst, port, src, bs⟩] } := by
  have ask : (decide (dst / 2 ^ 120 = 0xFF) || s.neigh.contains dst) = false := by
    rw [decide_eq_false unicast, Bool.false_or, List.contains_eq_mem, decide_eq_false unknown]
  simp only [netOut, heard, ask, Bool.false_eq_true, if_false, List.append_assoc, List.cons_append, List.nil_append]

/-- The neighbours that are resolved once `src` has asked. -/
theorem solicitor_resolved (s : State) (src : Nat) : (if src = 0 || s.neigh.contains src then s else { s with neigh := s.neigh ++ [src] }) =
    { s with neigh := if src = 0 ∨ src ∈ s.neigh then s.neigh else s.neigh ++ [src] } := by
  by_cases known : src = 0 ∨ src ∈ s.neigh
  · rw [if_pos known, if_pos (by simpa using known)]
  · rw [if_neg known, if_neg (by simpa using known)]

section
variable {s : State} (hup : s.up = true)
include hup

theorem neighbourSolicitation_duplicate (early : timeNs s < 1000000000) :
    Gives (.neighbourSolicitation 0 (linkLocal s)) s { s with netDup := true } :=
  gives_of_whenUp hup rfl ((if_neg (by simp)).trans (if_pos (by simpa using early)))

/-- The answer of a solicitation: its source, when it has one, is resolved first. -/
theorem neighbourSolicitation_row {src : Nat} (answered : src ≠ 0 ∨ 1000000000 ≤ timeNs s) :
    Gives (.neighbourSolicitation src (linkLocal s)) s
      (netOut (if src = 0 || s.neigh.contains src then s else { s with neigh := s.neigh ++ [src] })
        (if src = 0 then 0xFF02 * 2 ^ 112 + 1 else src) 0 0
        (icmp (linkLocal s) (if src = 0 then 0xFF02 * 2 ^ 112 + 1 else src) 136
          ([if src = 0 then 0x20 else 0x60, 0, 0, 0] ++ beBytes 16 (linkLocal s) ++ [2, 1] ++ macBytes s))) :=
  gives_of_whenUp hup rfl ((if_neg (by simp)).trans (if_neg (by simpa [imp_iff_not_or] using answered)))

theorem echo_gives (src : Nat) (body : List Byte) :
    Gives (.icmpv6EchoRequest src (linkLocal s) body) s (netOut s src 0 0 (icmp (linkLocal s) src 129 body)) :=
  gives_of_whenUp hup rfl (if_neg (by simp))

theorem otherAddress_gives {a : Nat} (other : a ≠ linkLocal s) (src : Nat) (body : List Byte) :
    Gives (.neighbourSolicitation src a) s s ∧ Gives (.icmpv6EchoRequest src a body) s s :=
  ⟨gives_of_whenUp hup rfl (if_pos (by simpa using other)), gives_of_whenUp hup rfl (if_pos (by simpa using other))⟩

end

/-- The answer of a solicitation leaves for its source, or for all nodes. -/
theorem neighbourSolicitation_answers {s : State} (hup : s.up = true) {src : Nat} (answered : src ≠ 0 ∨ 1000000000 ≤ timeNs s)
    (heard : s.netDup = false) :
    Gives (.neighbourSolicitation src (linkLocal s)) s { s with
      neigh := if src = 0 ∨ src ∈ s.neigh then s.neigh else s.neigh ++ [src]
      sent := s.sent ++ [⟨if src = 0 then 0xFF02 * 2 ^ 112 + 1 else src, 0, 0,
        icmp (linkLocal s) (if src = 0 then 0xFF02 * 2 ^ 112 + 1 else src) 136
          ([if src = 0 then 0x20 else 0x60, 0, 0, 0] ++ beBytes 16 (linkLocal s) ++ [2, 1] ++ macBytes s)⟩] } := by
  refine gives_eq (neighbourSolicitation_row hup answered) ?_
  rw [solicitor_resolved]
  refine netOut_known (s := { s with neigh := if src = 0 ∨ src ∈ s.neigh then s.neigh else s.neigh ++ [src] }) heard ?_ 0 0 _
  by_cases unspecified : src = 0
  · left
    rw [if_pos unspecified]
    norm_num
  · right
    by_cases known : src ∈ s.neigh <;> simp [unspecified, known]

theorem echo_silent {s : State} (hup : s.up = true) (duplicate : s.netDup = true) (src : Nat) (body : List Byte) :
    Gives (.icmpv6EchoRequest src (linkLocal s) body) s s :=
  gives_eq (echo_gives hup src body) (if_pos duplicate)

/-- Settles O53: one rule for the rows of all eight operations, by what serves a mailbox's request and a datagram; the rest from the rows of
the bundle, the reply cache, the neighbours and echo. -/
theorem fovisRequests : Obligations.FovisRequests := by
  unfold Obligations.FovisRequests
  refine ⟨⟨fovisDoes serves_read fun _ _ _ => rfl, fovisDoes serves_write fun _ _ _ => rfl, fovisDoes serves_describe fun _ _ _ => rfl,
    fovisDoes serves_discover fun _ _ _ => rfl, fovisDoes serves_bundleOpen fun _ _ _ => rfl, fovisDoes serves_bundleData fun _ _ _ => rfl,
    fovisDoes serves_bundleApply fun _ _ _ => rfl, fovisDoes serves_bundleCancel fun _ _ _ => rfl⟩, fun s hup => ?_⟩
  refine ⟨fun _ _ _ rsa slh head buffer applied turn start => bundleVerifyDone_gives hup rfl rsa slh head buffer applied turn start,
    fun at_ b buffer waiting => ?_, fun _ => gives_of_whenUp hup rfl rfl, neighbourSolicitation_duplicate hup,
    fun _ answered heard => neighbourSolicitation_answers hup answered heard, fun src body known heard => ?_,
    fun src body unknown unicast heard => ?_, echo_silent hup, fun _ body other src => otherAddress_gives hup other src body⟩
  · have row := bundleOwnerTimeout_row hup (at_ := at_) rfl ((atTime_bundle _ _).trans buffer) waiting
    exact ⟨gives_pos row, fun early => gives_neg row (Nat.not_le.2 early)⟩
  · exact gives_eq (echo_gives hup src body) (netOut_known heard (.inr known) 0 0 _)
  · exact gives_eq (echo_gives hup src body) (netOut_unknown heard unicast unknown 0 0 _)

end Sys2Proof.FovisService
end
